-- ==== Sys2Proof/Word.lean ====
section
/-! DEFINITION. The word types of the KF-740's formats and the index types of its tables.
Numbered things (cells 1..48, recipes 1..128, limit sets 1..64, ship orders 1..32, bins 1..16, sites 1..8) are held
as an index one less than their number, so that no value outside the table can be built. -/

namespace Sys2Proof

/-- One byte of an order slot, a frame, a report record or host memory. -/
abbrev Byte := BitVec 8
/-- A two-byte field. -/
abbrev Half := BitVec 16
/-- A four-byte field, a register, the floor clock (R147, R153). -/
abbrev Word := BitVec 32
/-- A host address (R155, R158). -/
abbrev Addr := BitVec 64

/-- The 16 characters of a lot number, "held as 16 bytes and compared byte for byte" (R4). -/
abbrev LotNumber := Vector Byte 16

/-- Slot 0..511 of the lot table (R4). -/
abbrev LotSlot := Fin 512
/-- Cell 1..48 as index 0..47 (R21). -/
abbrev CellNo := Fin 48
/-- Recipe 1..128 as index 0..127 (R1). -/
abbrev RecipeNo := Fin 128
/-- Limit set 1..64 as index 0..63 (R85). -/
abbrev LimitNo := Fin 64
/-- Ship order 1..32 as index 0..31 (R134). -/
abbrev ShipNo := Fin 32
/-- CellLink port 0..3 (R38). -/
abbrev PortNo := Fin 4
/-- Bin 1..16 as index 0..15; also bit b − 1 of a bin mask (R158). -/
abbrev Bin := Fin 16
/-- Site 1..8 as index 0..7; also bit 0 for site 1 of a site mask (R45). -/
abbrev Site := Fin 8
/-- Work-board slot 0..255: the greatest slot count is 256 (R156). -/
abbrev BoardSlot := Fin 256

/-- The 64 bytes of a setup block as START reads them (R155, R156). -/
abbrev SetupBytes := Vector Byte 64

end Sys2Proof
end

