-- ==== Sys2Proof/Config.lean ====
section
/-! DEFINITION. What the manual fixes once for the part (limits and durations), and the free values: opaque constants
without a body, one for each value that some rule leaves unstated. -/

namespace Sys2Proof

/-- Places of the report FIFO (R162). -/
def Config.fifoPlaces : Nat := 1024
/-- The mark of FIFO_HALF (R168). -/
def Config.halfMark : Nat := 512
/-- The backpressure mark (R168). -/
def Config.backpressureMark : Nat := 800
/-- Records of the hold table (R100). -/
def Config.holdRecords : Nat := 256
/-- Hold ids of one lot (R102). -/
def Config.lotHolds : Nat := 4
/-- Runs of one step (R5, R7). -/
def Config.stepRuns : Nat := 4
/-- Lots of one ship order (R135). -/
def Config.shipLots : Nat := 16
/-- Load failures that take a cell out of service (R30). -/
def Config.loadFailureLimit : Nat := 3
/-- The silence period in milliseconds (R52). -/
def Config.silenceMs : Nat := 5000
/-- The longest wait for a frame to begin in LISTEN, in milliseconds (R44). -/
def Config.listenMs : Nat := 2
/-- Frames taken in LISTEN before TURN_END (R44). -/
def Config.turnFrames : Nat := 4
/-- The kit timer's duration in seconds (R62). -/
def Config.kitSeconds : Nat := 7200
/-- The load timer's duration in seconds (R62). -/
def Config.loadSeconds : Nat := 30
/-- The greatest value of the 16-bit saturating counts (R35, R38, R60). -/
def Config.countMax : Nat := 65535

/-- FREE VALUE (log entry 8): the outcome detail of an outcome for which the order's rule states none, fresh for each
such answer (applied to `State.freeIx`). -/
opaque Config.freeDetail : Nat → Word
/-- FREE VALUE (log entry 7): whether the order count grows when the write of TAKEN fails (R160 step 1). -/
opaque Config.failedTakeCounts : Nat → Bool
/-- FREE VALUE (log entry 21): the code of FREE in a LOT_STATE record; Table 1-2 lists no FREE (R8, R163). -/
opaque Config.freeLotStateCode : Byte
/-- FREE VALUE (log entry 21): the code of a QUARANTINE cause; chapter 6 gives no list of the causes (R107, R163).
The argument tells the causes apart. -/
opaque Config.quarantineCauseCode : Nat → Byte

end Sys2Proof
end

