-- ==== Sys2Proof/Syntax.lean ====
section
/-! DEFINITION. The commands of the KF-740: one constructor of `Instr` for each row of spec/opcode_table.json, with the
operands its rule gives it. Order arguments are the raw fields of the order slot (R158), so that a value outside its
range can be posted and is refused by the order's own checks. -/

namespace Sys2Proof

/-- The eight registers of Table 10-1 (R153). -/
inductive Reg
  | ident | setupAddrLo | setupAddrHi | control | status | cause | causeEnable | pageReturn
  deriving DecidableEq, Repr

/-- The two report pages (R165). -/
inductive PageId
  | a | b
  deriving DecidableEq, Repr

/-- Arguments of PUT_RECIPE: a recipe number and the fields of Table 1-1 (R2). -/
structure RecipeArgs where
  number : Byte
  programId : Word
  testerClass : Byte
  handlerClass : Byte
  tempClass : Byte
  soakMinutes : Byte
  kitCode : Half
  minSites : Byte
  maxSites : Byte
  cycleTime : Half
  passSet : Half
  retestSet : Half
  retestCap : Half
  deriving DecidableEq, Repr

/-- One step of ADMIT_LOT's route (R10). -/
structure StepArgs where
  recipe : Byte
  limitSet : Byte
  lossAllowance : Half
  deriving DecidableEq, Repr

/-- Arguments of ADMIT_LOT (R10). The slot has room for four steps; those up to the step count are read. -/
structure LotArgs where
  lotNumber : LotNumber
  startQuantity : Half
  dueMinute : Word
  priority : Byte
  stepCount : Byte
  steps : Vector StepArgs 4
  deriving DecidableEq, Repr

/-- One entry of PUT_LIMIT_SET's buffer (R86, Table 5-2). -/
structure EntryArgs where
  metric : Byte
  bin : Byte
  level1 : Word
  level2 : Word
  condition : Byte
  holdClass : Byte
  band : Word
  enabled : Byte
  deriving DecidableEq, Repr

/-- Arguments of PUT_LIMIT_SET as its buffer holds them (R86, R158). -/
structure LimitSetArgs where
  number : Byte
  minUnits : Half
  interval : Half
  siteMinUnits : Half
  entryCount : Byte
  entries : List EntryArgs
  deriving DecidableEq, Repr

/-- An order and its arguments, without the slot it stands in (Table 10-5). `bad` is an order code of no order. -/
inductive Order
  /-- A code that is none of Table 10-5 (R160). -/
  | bad (code : Byte)
  /-- PUT_RECIPE (R2). -/
  | putRecipe (a : RecipeArgs)
  /-- DROP_RECIPE (R3). -/
  | dropRecipe (recipe : Byte)
  /-- ADMIT_LOT (R10). -/
  | admitLot (a : LotArgs)
  /-- AMEND_LOT (R11). -/
  | amendLot (lot : Half) (due : Word) (priority : Byte)
  /-- RETIRE_LOT (R12). -/
  | retireLot (lot : Half)
  /-- MAP_CELL (R22). -/
  | mapCell (cell : Byte) (port : Byte) (tap : Byte)
  /-- UNMAP_CELL (R23). -/
  | unmapCell (cell : Byte)
  /-- FREEZE (R26). -/
  | freeze (cell : Byte) (action : Byte)
  /-- SET_CELL_SERVICE (R28). -/
  | setCellService (cell : Byte) (action : Byte) (policy : Byte)
  /-- CLEAR_LINK_COUNTS (R57). -/
  | clearLinkCounts (port : Byte)
  /-- END_RUN (R74). -/
  | endRun (cell : Byte)
  /-- PAUSE_CELL (R84). -/
  | pauseCell (cell : Byte)
  /-- RESUME_CELL (R84). -/
  | resumeCell (cell : Byte)
  /-- PUT_LIMIT_SET (R86). -/
  | putLimitSet (a : LimitSetArgs)
  /-- DROP_LIMIT_SET (R88). -/
  | dropLimitSet (limitSet : Byte)
  /-- PLACE_HOLD (R110). -/
  | placeHold (lot : Half) (holdClass : Byte) (reason : Half)
  /-- ACK_HOLD (R111). -/
  | ackHold (hold : Half)
  /-- DISPOSE (R112). -/
  | dispose (hold : Half) (disposition : Byte)
  /-- DISPOSE_LOT (R115). -/
  | disposeLot (lot : Half) (disposition : Byte)
  /-- CONFIRM (R127). -/
  | confirm (cell : Byte) (lot : Half)
  /-- DECLINE (R128). -/
  | decline (cell : Byte) (lot : Half)
  /-- DISPATCH_NOW (R132). -/
  | dispatchNow
  /-- OPEN_SHIP (R138). -/
  | openShip (kind : Byte) (customer : Word) (auto : Byte)
  /-- ADD_TO_SHIP (R139). -/
  | addToShip (ship : Byte) (lot : Half)
  /-- REMOVE_FROM_SHIP (R140). -/
  | removeFromShip (ship : Byte) (lot : Half)
  /-- CANCEL_SHIP (R141). -/
  | cancelShip (ship : Byte)
  /-- RELEASE_SHIP (R143). -/
  | releaseShip (ship : Byte) (mode : Byte)
  /-- SET_CLOCK (R148). -/
  | setClock (seconds : Word)
  /-- SET_FLOOR_MODE (R150). -/
  | setFloorMode (mode : Byte)
  /-- READ (R161). -/
  | read (kind : Byte) (index : Half) (buffer : Addr)
  deriving DecidableEq, Repr

/-- The host-memory access that fails, with the action it belongs to (R154, R159, R160, R166). -/
inductive FailedAccess
  /-- A scan pass reads a slot (R159). -/
  | slotRead
  /-- The write of TAKEN, the floor second and the order count (R160 step 1); DESIGN CHOICE (log entry 6): one write. -/
  | slotTaken (slot : BoardSlot)
  /-- The read of PUT_LIMIT_SET's buffer (R160); DEDUCED (log entry 44): it follows step 1. -/
  | limitBuffer (slot : BoardSlot)
  /-- The write of READ's image (R161); DESIGN CHOICE (log entry 6): one write. -/
  | imageBuffer (slot : BoardSlot)
  /-- The write of the outcome of an order that has acted (R160 step 3); DESIGN CHOICE (log entry 6): one write. -/
  | slotOutcome (slot : BoardSlot) (order : Order)
  /-- The write of ANSWERED (R160 step 4). -/
  | slotAnswered (slot : BoardSlot) (order : Order)
  /-- The header writes of START: both pages FREE, then page A FILLING (R165). -/
  | startHeader (setup : SetupBytes) (which : Fin 3)
  /-- The write of the head record's places into the FILLING page (R166); DESIGN CHOICE (log entry 6): one write. -/
  | recordPlaces
  /-- The header write that closes the page in a move, or before one that does not fit (R166). -/
  | moveClose
  /-- The header write of the page that opens after such a close (R165). -/
  | moveOpen
  /-- The header write that closes the page on the idle timer (R166). -/
  | idleClose
  /-- The header write of the page that opens after it (R165). -/
  | idleOpen
  /-- The FREE header write of a returned page (R167). -/
  | returnFree (page : PageId)
  /-- The header write of the returned page as it opens (R167, R165). -/
  | returnOpen (page : PageId)
  deriving DecidableEq, Repr

/-- The body of a STATUS frame (Table 3-2). -/
structure StatusFrame where
  handler : Byte
  tempReached : Bool
  lastKind : Byte
  lastTag : Half
  highest : Half
  deriving DecidableEq, Repr

/-- The body of an IDENT frame (Table 3-2). -/
structure IdentFrame where
  serial : Word
  testerClass : Byte
  handlerClass : Byte
  siteCount : Byte
  temps : Byte
  kitCode : Half
  fresh : Bool
  deriving DecidableEq, Repr

/-- The body of an END frame (Table 3-2). -/
structure EndFrame where
  totals : Vector Half 16
  loss : Half
  highest : Half
  deriving DecidableEq, Repr

/-- The commands, in the order of spec/opcode_table.json. -/
inductive Instr
  /-- POWER_ON_RESET (R157). -/
  | powerOnReset
  /-- PCIE_HOT_RESET: a soft reset from the PCIe link (R157). -/
  | pcieHotReset
  /-- SOFT_RESET: CONTROL bit 1 (R153, R157). -/
  | softReset
  /-- START: CONTROL bit 0 (R155). `setup` is what the read of the setup block at SETUP_ADDR gives
(Machine/HostReads.lean); none is a failed read. -/
  | start (setup : Option SetupBytes)
  /-- SCAN: CONTROL bit 2 (R159). -/
  | scan
  /-- CAUSE_WRITE (R169). -/
  | causeWrite (value : Word)
  /-- CAUSE_ENABLE_WRITE (R169). -/
  | causeEnableWrite (value : Word)
  /-- PAGE_RETURN (R167): bit 0 of the value names the page. -/
  | pageReturn (value : Word)
  /-- REGISTER_WRITE (R153). `setup` is read only when the write starts the part (CONTROL bit 0). -/
  | registerWrite (reg : Reg) (value : Word) (setup : Option SetupBytes)
  /-- HOST_ACCESS_FAIL (R154). -/
  | hostAccessFail (access : FailedAccess)
  /-- SCAN_PACER_EXPIRY (R159). -/
  | scanPacerExpiry
  /-- SCAN_PASS (R159). -/
  | scanPass
  /-- BAD_ORDER (R160): a POSTED slot with an unknown order code. -/
  | badOrder (slot : BoardSlot) (code : Byte)
  /-- PUT_RECIPE (R2): the order in board slot `slot` is taken and answered. -/
  | putRecipe (slot : BoardSlot) (a : RecipeArgs)
  /-- DROP_RECIPE (R3): the order in board slot `slot` is taken and answered. -/
  | dropRecipe (slot : BoardSlot) (recipe : Byte)
  /-- ADMIT_LOT (R10): the order in board slot `slot` is taken and answered. -/
  | admitLot (slot : BoardSlot) (a : LotArgs)
  /-- AMEND_LOT (R11): the order in board slot `slot` is taken and answered. -/
  | amendLot (slot : BoardSlot) (lot : Half) (due : Word) (priority : Byte)
  /-- RETIRE_LOT (R12): the order in board slot `slot` is taken and answered. -/
  | retireLot (slot : BoardSlot) (lot : Half)
  /-- MAP_CELL (R22): the order in board slot `slot` is taken and answered. -/
  | mapCell (slot : BoardSlot) (cell : Byte) (port : Byte) (tap : Byte)
  /-- UNMAP_CELL (R23): the order in board slot `slot` is taken and answered. -/
  | unmapCell (slot : BoardSlot) (cell : Byte)
  /-- FREEZE (R26): the order in board slot `slot` is taken and answered. -/
  | freeze (slot : BoardSlot) (cell : Byte) (action : Byte)
  /-- SET_CELL_SERVICE (R28): the order in board slot `slot` is taken and answered. -/
  | setCellService (slot : BoardSlot) (cell : Byte) (action : Byte) (policy : Byte)
  /-- CLEAR_LINK_COUNTS (R57): the order in board slot `slot` is taken and answered. -/
  | clearLinkCounts (slot : BoardSlot) (port : Byte)
  /-- END_RUN (R74): the order in board slot `slot` is taken and answered. -/
  | endRun (slot : BoardSlot) (cell : Byte)
  /-- PAUSE_CELL (R84): the order in board slot `slot` is taken and answered. -/
  | pauseCell (slot : BoardSlot) (cell : Byte)
  /-- RESUME_CELL (R84): the order in board slot `slot` is taken and answered. -/
  | resumeCell (slot : BoardSlot) (cell : Byte)
  /-- PUT_LIMIT_SET (R86): the order in board slot `slot` is taken and answered. -/
  | putLimitSet (slot : BoardSlot) (a : LimitSetArgs)
  /-- DROP_LIMIT_SET (R88): the order in board slot `slot` is taken and answered. -/
  | dropLimitSet (slot : BoardSlot) (limitSet : Byte)
  /-- PLACE_HOLD (R110): the order in board slot `slot` is taken and answered. -/
  | placeHold (slot : BoardSlot) (lot : Half) (holdClass : Byte) (reason : Half)
  /-- ACK_HOLD (R111): the order in board slot `slot` is taken and answered. -/
  | ackHold (slot : BoardSlot) (hold : Half)
  /-- DISPOSE (R112): the order in board slot `slot` is taken and answered. -/
  | dispose (slot : BoardSlot) (hold : Half) (disposition : Byte)
  /-- DISPOSE_LOT (R115): the order in board slot `slot` is taken and answered. -/
  | disposeLot (slot : BoardSlot) (lot : Half) (disposition : Byte)
  /-- CONFIRM (R127): the order in board slot `slot` is taken and answered. -/
  | confirm (slot : BoardSlot) (cell : Byte) (lot : Half)
  /-- DECLINE (R128): the order in board slot `slot` is taken and answered. -/
  | decline (slot : BoardSlot) (cell : Byte) (lot : Half)
  /-- DISPATCH_NOW (R132): the order in board slot `slot` is taken and answered. -/
  | dispatchNow (slot : BoardSlot)
  /-- OPEN_SHIP (R138): the order in board slot `slot` is taken and answered. -/
  | openShip (slot : BoardSlot) (kind : Byte) (customer : Word) (auto : Byte)
  /-- ADD_TO_SHIP (R139): the order in board slot `slot` is taken and answered. -/
  | addToShip (slot : BoardSlot) (ship : Byte) (lot : Half)
  /-- REMOVE_FROM_SHIP (R140): the order in board slot `slot` is taken and answered. -/
  | removeFromShip (slot : BoardSlot) (ship : Byte) (lot : Half)
  /-- CANCEL_SHIP (R141): the order in board slot `slot` is taken and answered. -/
  | cancelShip (slot : BoardSlot) (ship : Byte)
  /-- RELEASE_SHIP (R143): the order in board slot `slot` is taken and answered. -/
  | releaseShip (slot : BoardSlot) (ship : Byte) (mode : Byte)
  /-- SET_CLOCK (R148): the order in board slot `slot` is taken and answered. -/
  | setClock (slot : BoardSlot) (seconds : Word)
  /-- SET_FLOOR_MODE (R150): the order in board slot `slot` is taken and answered. -/
  | setFloorMode (slot : BoardSlot) (mode : Byte)
  /-- READ (R161): the order in board slot `slot` is taken and answered. -/
  | read (slot : BoardSlot) (kind : Byte) (index : Half) (buffer : Addr)
  /-- TURN_START (R41 to R43). -/
  | turnStart (port : PortNo)
  /-- LISTEN_TIMEOUT (R44). -/
  | listenTimeout (port : PortNo)
  /-- BAD_CRC_FRAME (R46): a frame with a bad CRC, or a broken frame. -/
  | badCrcFrame (port : PortNo)
  /-- STRAY_FRAME (R47): a frame with a correct CRC that is no good frame. -/
  | strayFrame (port : PortNo) (address : Byte) (kind : Byte) (length : Byte)
  /-- TURN_END (R44). -/
  | turnEnd (port : PortNo) (address : Byte)
  /-- STATUS (R49). -/
  | status (port : PortNo) (address : Byte) (frame : StatusFrame)
  /-- IDENT (R24). -/
  | ident (port : PortNo) (address : Byte) (frame : IdentFrame)
  /-- START_INDEX (R72). -/
  | startIndex (port : PortNo) (address : Byte) (timestamp : Word) (siteMask : Byte)
  /-- UNIT (R69): `number` is the unit number, or for unit kind RETEST the original bin. -/
  | unit (port : PortNo) (address : Byte) (site : Byte) (bin : Byte) (kind : Byte) (number : Half)
  /-- UNIT_RETEST (R71). -/
  | unitRetest (port : PortNo) (address : Byte) (site : Byte) (bin : Byte) (original : Half)
  /-- END (R75). -/
  | endOfRun (port : PortNo) (address : Byte) (frame : EndFrame)
  /-- SILENCE_EXPIRY (R52). -/
  | silenceExpiry (cell : CellNo)
  /-- KIT_TIMER_EXPIRY (R65). -/
  | kitTimerExpiry (cell : CellNo)
  /-- LOAD_TIMER_EXPIRY (R65). -/
  | loadTimerExpiry (cell : CellNo)
  /-- SOAK_TIMER_EXPIRY (R65). -/
  | soakTimerExpiry (cell : CellNo)
  /-- DISPATCH_PASS (R124). -/
  | dispatchPass
  /-- MINUTE_NOTICE (R147). -/
  | minuteNotice
  /-- RESERVATION_EXPIRY (R129) of the reservation entry that names `cell`. -/
  | reservationExpiry (cell : CellNo)
  /-- DISPATCH_PACER_FIRE (R149). -/
  | dispatchPacerFire
  /-- RECORD_MOVE (R166). -/
  | recordMove
  /-- IDLE_TIMER_EXPIRY (R166). -/
  | idleTimerExpiry
  deriving DecidableEq, Repr

end Sys2Proof
end

