-- ==== Sys2Proof/WellFormed.lean ====
section
/-! DEFINITION. Which commands are terms of the interface: what the types of `Instr` do not already say. -/

namespace Sys2Proof

/-- An order as a slot and its buffer can hold it: PUT_LIMIT_SET's buffer holds as many entries as its entry count
says (R86); a BAD_ORDER's code is none of Table 10-5 (R160). -/
def Order.wellFormed : Order → Bool
  | .bad code => code == 0 || 30 < code.toNat
  | .putLimitSet a => a.entries.length == a.entryCount.toNat
  | _ => true

/-- A failed access names a well-formed order where it names one (R160). -/
def FailedAccess.wellFormed : FailedAccess → Bool
  | .slotOutcome _ o => o.wellFormed
  | .slotAnswered _ o => o.wellFormed
  | _ => true

/-- The well-formed commands. -/
def Instr.wellFormed : Instr → Bool
  | .badOrder _ code => (Order.bad code).wellFormed
  | .putLimitSet _ a => (Order.putLimitSet a).wellFormed
  | .hostAccessFail access => access.wellFormed
  | _ => true

end Sys2Proof
end

