-- ==== Sys2Proof/Decode.lean ====
section
/-! DEFINITION. Commands spelt by a word: the command table gives no row any bits, so no word spells a command.
(The bytes of an order slot are read and written in Sys2Proof/Machine/Slot.lean.) -/

namespace Sys2Proof

/-- The command that a word of `nbits` bits spells by the table's bits: no row of spec/opcode_table.json gives bits. -/
def decodeTableWord (_nbits _w : Nat) : Option Instr := none

end Sys2Proof
end

