-- ==== Sys2Proof/Machine/State.lean ====
section
/-! DEFINITION. The state of the KF-740, block by block as Table 0.3 lists the blocks, as plain data; the reasons a step
can stop; and the state after a power-on reset. -/

namespace Sys2Proof.Machine

/-! ## Reasons to stop -/

/-- No rule of the manual stops the part: a bad order is answered, a bad frame is counted, a failed host access puts the
part in FAULTED, where it goes on (R154). So no meaning raises a fault, and the type is empty. -/
inductive Fault
  deriving DecidableEq, Repr

/-- Refusals. -/
inductive Refusal
  /-- Raised by an arm of `exec` whose command has no meaning yet: no arm raises it. Safe. -/
  | notModelled (mnemonic : String)
  deriving DecidableEq, Repr

/-! ## Lot Manager (chapter 1) -/

/-- Temperature classes; the place in the list is the code (R1, R45). -/
inductive TempClass
  | cold | room | hot
  deriving DecidableEq, Repr

/-- A recipe record (R1, Table 1-1). Bit b − 1 of a bin set stands for bin b. -/
structure Recipe where
  programId : Word
  testerClass : Nat
  handlerClass : Nat
  temp : TempClass
  soakMinutes : Nat
  kitCode : Nat
  minSites : Nat
  maxSites : Nat
  cycleTime : Nat
  passSet : BitVec 16
  retestSet : BitVec 16
  retestCap : Nat
  deriving DecidableEq, Repr

/-- Outcome of a run (R7). -/
inductive RunOutcome
  | closed | short | aborted
  deriving DecidableEq, Repr

/-- A run entry (R7). -/
structure Run where
  cell : CellNo
  startSecond : Word
  unitsTested : Nat
  endSecond : Option Word
  outcome : Option RunOutcome
  deriving DecidableEq, Repr

/-- Step states (R5). -/
inductive StepState
  | opened | closed | skipped
  deriving DecidableEq, Repr

/-- One step of a lot: its route entry (R4, 1.2.1) and its step result record (R5). -/
structure LotStep where
  recipe : RecipeNo
  limitSet : LimitNo
  lossAllowance : Nat
  state : StepState
  unitsIn : Nat
  bins : Vector Nat 16
  gap : Nat
  loss : Nat
  stalls : Nat
  runs : List Run
  deriving DecidableEq, Repr

/-- Lot states (R8). -/
inductive LotState
  | queued | reserved | inTest | complete | released | scrapped
  deriving DecidableEq, Repr

/-- A bar entry (R118). -/
structure Bar where
  cell : CellNo
  expiry : Nat
  deriving DecidableEq, Repr

/-- A lot record (R4, Table 1-2). `current` is the current step index, 1 to the number of steps. -/
structure Lot where
  lotNumber : LotNumber
  startQuantity : Nat
  due : Nat
  priority : Nat
  steps : List LotStep
  current : Nat
  state : LotState
  empty : Bool
  deviation : Bool
  quarantined : Bool
  holds : List Nat
  ship : Option ShipNo
  ready : Nat
  admission : Word
  tail : Nat
  bar : Option Bar
  deriving DecidableEq, Repr

/-- The Lot Manager's collections (R1, R4, R13, R14). -/
structure LotManager where
  recipes : Vector (Option Recipe) 128
  lots : Vector (Option Lot) 512
  queue : List LotSlot
  admissions : Word
  deriving DecidableEq, Repr

/-! ## Cell Manager (chapter 2) and the command slot (chapter 3) -/

/-- Stop policies (Table 2-3). -/
inductive StopPolicy
  | exempt | endOfIndex | immediate
  deriving DecidableEq, Repr

/-- Cell states, in the order of Table 2-4 (R32). -/
inductive CellState
  | detached | parked | silent | mismatch | busy | reserved | outOfService | idle
  deriving DecidableEq, Repr

/-- Where a cell's tap is found (R21, R22). -/
structure Mapping where
  port : PortNo
  tap : Nat
  deriving DecidableEq, Repr

/-- A reported identity (Table 2-2). Bit 0 of `temps` stands for COLD. -/
structure Identity where
  serial : Word
  testerClass : Nat
  handlerClass : Nat
  siteCount : Nat
  temps : BitVec 3
  kitCode : Nat
  deriving DecidableEq, Repr

/-- A frozen identity: the five compared fields (Table 2-2). -/
structure FrozenIdentity where
  serial : Word
  testerClass : Nat
  handlerClass : Nat
  siteCount : Nat
  temps : BitVec 3
  deriving DecidableEq, Repr

/-- The seven commands of Table 3-3, without arguments. -/
inductive CommandKind
  | kitRequest | load | go | haltAtIndex | haltNow | finish | abort
  deriving DecidableEq, Repr

/-- The seven commands of Table 3-3 with their arguments other than the load tag, which the slot holds. -/
inductive Command
  | kitRequest (kitCode : Nat)
  | load (programId : Word) (temp : TempClass) (sites : BitVec 8) (expected : Nat) (lotNumber : LotNumber)
  | go
  | haltAtIndex
  | haltNow
  | finish
  | abort
  deriving DecidableEq, Repr

/-- A command slot (R53, Table 3-5). -/
structure CommandSlot where
  desired : Option Command
  lastKind : Option CommandKind
  lastTag : Half
  tag : Half
  deriving DecidableEq, Repr

/-- A cell record (R21, Table 2-1). -/
structure Cell where
  mapping : Option Mapping
  policy : StopPolicy
  service : Bool
  heard : Bool
  reported : Option Identity
  freeze : Bool
  frozen : Option FrozenIdentity
  lastRecipe : Option RecipeNo
  lastTemp : Option TempClass
  measured : Nat
  loadFailures : Nat
  crcErrors : Nat
  protocolErrors : Nat
  slot : CommandSlot
  silence : Nat
  state : CellState
  deriving DecidableEq, Repr

/-! ## CellLink Controller (chapter 3) -/

/-- An open turn (R38, R44): the cell, the frames taken in LISTEN, and the milliseconds since the POLL or the last frame
ended. Log entry 18: TURN_START passes COMMAND and POLL whole, so an open turn is in LISTEN. -/
structure Turn where
  cell : CellNo
  frames : Nat
  wait : Nat
  deriving DecidableEq, Repr

/-- A port record (R38, Table 3-1). `sent` is the model's own: the frames, as bytes on the line, that the port sent in
its latest turn (R42, R43, R45). -/
structure Port where
  winStart : Nat
  winStop : Nat
  arbiter : Option Nat
  turn : Option Turn
  crcErrors : Nat
  missedTurns : Nat
  strayFrames : Nat
  sent : List (List Byte)
  deriving DecidableEq, Repr

/-! ## Insertion Engine (chapter 4) -/

/-- Insertion states (R60). -/
inductive InsState
  | kitWait | loading | soaking | running | pausing | paused | ending | suspended
  deriving DecidableEq, Repr

/-- Halt kinds (R66). -/
inductive HaltKind
  | haltAtIndex | haltNow
  deriving DecidableEq, Repr

/-- The pause-reason set: each reason absent or with its halt kind (R66). -/
structure PauseSet where
  hold : Option HaltKind
  lineStop : Option HaltKind
  cellOrder : Option HaltKind
  deriving DecidableEq, Repr

/-- An insertion record (R60, Table 4-1; R92 for the checkpoint down-counter and the arm states, true for ARMED). -/
structure Insertion where
  lot : LotSlot
  step : Nat
  runIndex : Nat
  recipe : RecipeNo
  siteMask : BitVec 8
  expected : Nat
  unitsTested : Nat
  unitsSeen : Nat
  runGap : Nat
  runBins : Vector Nat 16
  siteTested : Vector Nat 8
  sitePassed : Vector Nat 8
  siteFailRun : Vector Nat 8
  retestsUsed : Nat
  quantityHold : Bool
  downCounter : Nat
  armed : Vector Bool 8
  loadTag : Half
  lastIndex : Option Word
  sampleVoid : Bool
  firstSample : Bool
  stalls : Nat
  pause : PauseSet
  abortRequested : Bool
  state : InsState
  before : Option InsState
  resyncPending : Bool
  kitTimer : Nat
  loadTimer : Nat
  soakTimer : Nat
  soakStarted : Bool
  deriving DecidableEq, Repr

/-! ## Limit Monitor (chapter 5) -/

/-- Metrics; BIN_PPM carries its bin (Table 5-2). -/
inductive Metric
  | passPpm
  | binPpm (bin : Bin)
  | siteSpreadPpm
  | failRun
  deriving DecidableEq, Repr

/-- Trip conditions (R96). -/
inductive TripCondition
  | aboveL1 | belowL2 | inside | outside
  deriving DecidableEq, Repr

/-- Hold classes (R100). -/
inductive HoldClass
  | soft | stopEnd | stopNow
  deriving DecidableEq, Repr

/-- A limit entry (Table 5-2). -/
structure LimitEntry where
  metric : Metric
  level1 : Nat
  level2 : Nat
  condition : TripCondition
  holdClass : HoldClass
  band : Nat
  enabled : Bool
  deriving DecidableEq, Repr

/-- A limit-set record (R85, Table 5-1); the entry count is the length of the list. -/
structure LimitSet where
  minUnits : Nat
  interval : Nat
  siteMinUnits : Nat
  entries : List LimitEntry
  deriving DecidableEq, Repr

/-! ## Hold Manager (chapter 6) -/

/-- Hold origins (R100). -/
inductive HoldOrigin
  | limit | reconcile | quantity | loss | manual
  deriving DecidableEq, Repr

/-- The limit detail of a hold of origin LIMIT (R98, R100); `position` is 1..8. -/
structure LimitDetail where
  set : LimitNo
  position : Nat
  metric : Metric
  value : Nat
  units : Nat
  deriving DecidableEq, Repr

/-- Hold states (R100). -/
inductive HoldState
  | opened | acknowledged
  deriving DecidableEq, Repr

/-- A hold record (R100, Table 6-1). -/
structure Hold where
  id : Nat
  lot : LotSlot
  step : Nat
  origin : HoldOrigin
  limit : Option LimitDetail
  reason : Option Nat
  holdClass : HoldClass
  cell : Option CellNo
  raisedSecond : Word
  state : HoldState
  deriving DecidableEq, Repr

/-- The hold table, in the order the holds were made, and the last-id counter (R100, R101). -/
structure HoldManager where
  holds : List Hold
  lastId : Nat
  deriving DecidableEq, Repr

/-! ## Dispatch Engine (chapter 7) -/

/-- Dispatch modes (R116). -/
inductive DispatchMode
  | auto | confirm
  deriving DecidableEq, Repr

/-- Dispatch parameters (R116, Table 7-1). -/
structure DispatchParams where
  mode : DispatchMode
  window : Nat
  pacer : Nat
  priorityWeight : Nat
  setupWeight : Nat
  kitMinutes : Nat
  transitionMinutes : Nat
  deriving DecidableEq, Repr

/-- A reservation entry (R126). -/
structure Reservation where
  cell : CellNo
  lot : LotSlot
  expiry : Nat
  score : Nat
  deriving DecidableEq, Repr

/-- The Dispatch Engine (R116, R122, R126). -/
structure DispatchEngine where
  params : DispatchParams
  passPending : Bool
  reservations : List Reservation
  deriving DecidableEq, Repr

/-! ## Release Unit (chapter 8) -/

/-- Kinds of ship order (R134). -/
inductive ShipKind
  | normal | deviation
  deriving DecidableEq, Repr

/-- States of a ship order (R134). -/
inductive ShipState
  | opened | released
  deriving DecidableEq, Repr

/-- A ship-order record (R134, Table 8-1); its number is its index in the table. -/
structure Ship where
  customer : Word
  kind : ShipKind
  auto : Bool
  state : ShipState
  lots : List LotSlot
  releasedSecond : Option Word
  deriving DecidableEq, Repr

/-! ## Floor Timer (chapter 9) -/

/-- Floor modes (R150). -/
inductive FloorMode
  | run | dispatchHeld | lineStop
  deriving DecidableEq, Repr

/-- The Floor Timer (R147, R149, R150). Two fields are the model's own: `ms`, the milliseconds of the part's time base
within the current second (log entry 2), and `firing`, a minute notice has reached the dispatch pacer's next-firing minute
and the firing is yet to be taken (log entry 15). -/
structure FloorTimer where
  clock : Word
  ms : Nat
  mode : FloorMode
  nextFiring : Option Nat
  firing : Bool
  deriving DecidableEq, Repr

/-! ## Order Scanner and part state (chapter 10) -/

/-- Part states (R154). -/
inductive PartState
  | halted | running | faulted
  deriving DecidableEq, Repr

/-- Fault sources (Table 10-1, Table 10-2). -/
inductive FaultSource
  | none | setup | board | buffer | page
  deriving DecidableEq, Repr

/-- The Order Scanner, the part state and the setup address registers (R153 to R159). `scanAt` is the next slot index of
a scan pass in progress. -/
structure Scanner where
  part : PartState
  faultSource : FaultSource
  setupLo : Word
  setupHi : Word
  boardBase : Addr
  slotCount : Nat
  winStart : Nat
  winStop : Nat
  pacerInterval : Nat
  pacer : Nat
  scanPending : Bool
  scanAt : Option Nat
  orderCount : Word
  deriving DecidableEq, Repr

/-! ## Report Unit (chapter 11) -/

/-- Causes of a CELL_STATE record (Table 2-5). -/
inductive CellCause
  | mapping | ident | linkLoss | freeze | service | insertion | reservation | loadFailures | start
  deriving DecidableEq, Repr

/-- Causes of an INSERTION_EVENT record (R60). -/
inductive InsCause
  | assigned | kitReady | loadEcho | soakDone | pause | halted | resumed | endRun | abort | suspend | restore | abandoned
  deriving DecidableEq, Repr

/-- The timer of a LOAD_FAILED record (R65). -/
inductive FailedTimer
  | kit | load
  deriving DecidableEq, Repr

/-- Kinds of evaluation (5.4). -/
inductive EvalKind
  | unit | checkpoint | final
  deriving DecidableEq, Repr

/-- Outcomes of an entry position in a CHECKPOINT record (R99). -/
inductive EntryOutcome
  | notEvaluated | noChange | tripped | reArmed
  deriving DecidableEq, Repr

/-- Dispositions (R112, R115). -/
inductive Disposition
  | continue | scrap | downgrade
  deriving DecidableEq, Repr

/-- What a hold request names (R103): all but the lot. -/
structure HoldRequest where
  origin : HoldOrigin
  limit : Option LimitDetail
  reason : Option Nat
  holdClass : HoldClass
  cell : Option CellNo
  deriving DecidableEq, Repr

/-- What a QUARANTINE record carries: action SET with its cause and matter, or action CLEARED with the disposition
(R104, R105, R107). -/
inductive QuarantineMatter
  | escalation (matched : Nat) (request : HoldRequest)
  | lotListFull (request : HoldRequest)
  | tableFull (request : HoldRequest)
  | exhausted (runs : Nat)
  | cleared (disposition : Disposition)
  deriving DecidableEq, Repr

/-- Causes of a RESERVATION_CANCELLED record (R130). -/
inductive CancelCause
  | hold | quarantine | silent | mismatch
  deriving DecidableEq, Repr

/-- Causes of a SHIP_MEMBER_REMOVED record (Table 8-2). -/
inductive RemovalCause
  | removed | cancelled | scrapped | downgraded | notReady
  deriving DecidableEq, Repr

/-- Manners of release (R145). -/
inductive ReleaseManner
  | all | readyOnly | auto
  deriving DecidableEq, Repr

/-- The content of a RELEASE record (Table 8-3, R164). -/
structure ReleaseContent where
  lotNumber : LotNumber
  ship : ShipNo
  customer : Word
  passSet : BitVec 16
  bins : Vector Nat 16
  released : Nat
  start : Nat
  totalFail : Nat
  totalLoss : Nat
  deviation : Bool
  stepCount : Nat
  deriving DecidableEq, Repr

/-- Report records by kind, with subject and content (Table 11-2). -/
inductive Report
  | cellState (cell : CellNo) (before after : CellState) (cause : CellCause)
  | linkLost (cell : CellNo) (port : PortNo) (tap : Nat) (before : CellState) (crcErrors : Nat)
  | insertionEvent (cell : CellNo) (lot : LotSlot) (before after : Option InsState) (cause : InsCause)
  | loadFailed (cell : CellNo) (lot : LotSlot) (timer : FailedTimer) (count : Nat)
  | checkpoint (lot : LotSlot) (kind : EvalKind) (cell : CellNo) (entries : List (EntryOutcome × Nat))
  | stepResult (lot : LotSlot) (cell : CellNo) (step runIndex : Nat) (outcome : RunOutcome)
      (unitsTested gap loss accounted unitsIn : Nat)
  | holdRaised (lot : LotSlot) (hold step : Nat) (request : HoldRequest)
  | holdCleared (lot : LotSlot) (hold : Nat) (origin : HoldOrigin) (holdClass : HoldClass) (disposition : Disposition)
  | quarantine (lot : LotSlot) (step : Nat) (content : QuarantineMatter)
  | proposal (lot : LotSlot) (cell : CellNo) (step score : Nat) (slack : Int) (setup run : Nat) (mode : DispatchMode)
      (expiry : Nat)
  | reservationExpired (lot : LotSlot) (cell : CellNo) (expiry score : Nat)
  | reservationCancelled (lot : LotSlot) (cell : CellNo) (cause : CancelCause) (score : Nat)
  | lotState (lot : LotSlot) (before after : Option LotState) (step : Nat)
  | release (lot : LotSlot) (content : ReleaseContent)
  | shipReleased (ship : ShipNo) (kind : ShipKind) (customer : Word) (manner : ReleaseManner)
      (lotsReleased lotsTakenOut releasedSum startSum : Nat)
  | shipMemberRemoved (lot : LotSlot) (ship : ShipNo) (cause : RemovalCause) (kind : ShipKind) (lotsLeft : Nat)
  deriving DecidableEq, Repr

/-- A record in the FIFO: the floor second at which it was written, and what it reports (R162, R163). -/
structure Record where
  second : Word
  report : Report
  deriving DecidableEq, Repr

/-- Page states (R165). -/
inductive PageState
  | free | filling | closed
  deriving DecidableEq, Repr

/-- Close reasons of a page (R165). -/
inductive CloseReason
  | none | full | urgent | idle
  deriving DecidableEq, Repr

/-- A page as the Report Unit keeps it (R165). -/
structure Page where
  state : PageState
  used : Nat
  sequence : Word
  deriving DecidableEq, Repr

/-- The Report Unit with CAUSE and CAUSE_ENABLE (R162, R165, R169). `msi` is the model's own: the MSI messages sent. -/
structure ReportUnit where
  fifo : List Record
  pageA : Page
  pageB : Page
  sequence : Word
  filling : Option PageId
  lastClosed : Option PageId
  idle : Nat
  baseA : Addr
  baseB : Addr
  pageLength : Nat
  closeOnUrgent : Bool
  idleClose : Nat
  cause : BitVec 7
  causeEnable : BitVec 7
  msi : Nat
  deriving DecidableEq, Repr

/-! ## The machine -/

/-- The state of the part. `host` is host memory as the part has written it (log entry 5), `freeIx` the index of the next
free value (log entry 8), `pending` the queue of waiting commands (log entry 1): these three are the model's own. -/
structure State where
  lm : LotManager
  cells : Vector Cell 48
  ports : Vector Port 4
  insertions : Vector (Option Insertion) 48
  limitSets : Vector (Option LimitSet) 64
  hm : HoldManager
  de : DispatchEngine
  ships : Vector (Option Ship) 32
  ft : FloorTimer
  os : Scanner
  ru : ReportUnit
  host : List Host.Cell
  freeIx : Nat
  pending : List Instr
  deriving DecidableEq, Repr

/-! ## Power-on values -/

/-- No command, nothing applied, tag 0 (Table 3-5). -/
def CommandSlot.initial : CommandSlot := { desired := none, lastKind := none, lastTag := 0, tag := 0 }

/-- A cell record after power-on reset (Table 2-1, R36). -/
def Cell.initial : Cell :=
  { mapping := none, policy := .endOfIndex, service := true, heard := false, reported := none, freeze := false,
    frozen := none, lastRecipe := none, lastTemp := none, measured := 0, loadFailures := 0, crcErrors := 0,
    protocolErrors := 0, slot := CommandSlot.initial, silence := 0, state := .detached }

/-- A port record after power-on reset (Table 3-1). DESIGN CHOICE (log entry 10): the empty window is held as 15..1. -/
def Port.initial : Port :=
  { winStart := 15, winStop := 1, arbiter := none, turn := none, crcErrors := 0, missedTurns := 0, strayFrames := 0,
    sent := [] }

/-- The dispatch parameters' defaults (Table 7-1). -/
def DispatchParams.initial : DispatchParams :=
  { mode := .confirm, window := 10, pacer := 5, priorityWeight := 2048, setupWeight := 16, kitMinutes := 30,
    transitionMinutes := 20 }

/-- A FREE page, as after a power-on reset (R165). DESIGN CHOICE (log entry 45): its places used and its sequence are 0. -/
def Page.initial : Page := { state := .free, used := 0, sequence := 0 }

/-- The Order Scanner after power-on reset (Table 10-1, R156 to R158). DESIGN CHOICE (log entry 10): board base 0, the
empty scan window held as 1..0, the scan pacer interval 1. DESIGN CHOICE (log entry 42): the count of the stopped
scan pacer is 0. -/
def Scanner.initial : Scanner :=
  { part := .halted, faultSource := .none, setupLo := 0, setupHi := 0, boardBase := 0, slotCount := 16, winStart := 1,
    winStop := 0, pacerInterval := 1, pacer := 0, scanPending := false, scanAt := none, orderCount := 0 }

/-- The Report Unit after power-on reset (R162, R165, R169). -/
def ReportUnit.initial : ReportUnit :=
  { fifo := [], pageA := Page.initial, pageB := Page.initial, sequence := 0, filling := none, lastClosed := none,
    idle := 0, baseA := 0, baseB := 0, pageLength := 64, closeOnUrgent := false, idleClose := 10, cause := 0,
    causeEnable := 0, msi := 0 }

/-- The part right after a power-on reset (R1, R4, R13, R14, R19, R36, R38, R53, R60, R85, R100, R101, R133, R134, R147,
R149, R150, R157, R162, R165, R169), nothing written to host memory and no command waiting. -/
def State.reset : State :=
  { lm := { recipes := Vector.replicate 128 none, lots := Vector.replicate 512 none, queue := [], admissions := 0 }
    cells := Vector.replicate 48 Cell.initial
    ports := Vector.replicate 4 Port.initial
    insertions := Vector.replicate 48 none
    limitSets := Vector.replicate 64 none
    hm := { holds := [], lastId := 0 }
    de := { params := DispatchParams.initial, passPending := false, reservations := [] }
    ships := Vector.replicate 32 none
    ft := { clock := 0, ms := 0, mode := .run, nextFiring := none, firing := false }
    os := Scanner.initial
    ru := ReportUnit.initial
    host := []
    freeIx := 0
    pending := [] }

end Sys2Proof.Machine
end

