-- ==== Sys2Proof/Machine/Flags.lean ====
section
/-! DEFINITION. The interrupt causes and their MSI, the marks of the report FIFO, and the register window as it is read
(chapters 10 and 11). -/

namespace Sys2Proof.Machine

/-! ## Causes (R169) -/

/-- The seven causes, in bit order of CAUSE (Table 10-1). -/
inductive Cause
  | pageClosed | fifoHalf | backpressure | urgent | badReturn | fault | overflow
  deriving DecidableEq, Repr

/-- The bit of a cause in CAUSE and CAUSE_ENABLE (Table 10-1). -/
def Cause.bit : Cause → Nat
  | .pageClosed => 0
  | .fifoHalf => 1
  | .backpressure => 2
  | .urgent => 3
  | .badReturn => 4
  | .fault => 5
  | .overflow => 6

/-- A cause's event (R169): a cause that is clear becomes set, and one MSI message is sent if its enable bit is set. A
cause that is already set stays as it is and sends nothing. -/
def ReportUnit.setCause (c : Cause) (u : ReportUnit) : ReportUnit :=
  if u.cause.getLsbD c.bit then u
  else { u with
    cause := u.cause ||| BitVec.twoPow 7 c.bit
    msi := if u.causeEnable.getLsbD c.bit then u.msi + 1 else u.msi }

/-- A write of CAUSE clears the causes written 1; bits the table does not name are ignored (R153, R169). -/
def ReportUnit.clearCauses (value : Word) (u : ReportUnit) : ReportUnit :=
  { u with cause := u.cause &&& ~~~ value.setWidth 7 }

/-- A write of CAUSE_ENABLE (R169). DEDUCED (log entry 19): one MSI message for the write when it sets an enable bit that
was clear, of a cause that is set. -/
def ReportUnit.writeEnable (value : Word) (u : ReportUnit) : ReportUnit :=
  let enable : BitVec 7 := value.setWidth 7
  { u with
    causeEnable := enable
    msi := if enable &&& ~~~ u.causeEnable &&& u.cause = 0 then u.msi else u.msi + 1 }

/-! ## The report FIFO (R162, R168) -/

/-- The places a record takes: three for RELEASE, one for every other (R162, R164). -/
def Report.places : Report → Nat
  | .release _ _ => 3
  | _ => 1

/-- The FIFO's occupancy in places (R162). -/
def ReportUnit.occupancy (u : ReportUnit) : Nat := (u.fifo.map fun r => r.report.places).sum

/-- The FIFO exerts backpressure while its occupancy is 800 or more (R168). -/
def ReportUnit.backpressure (u : ReportUnit) : Bool := Config.backpressureMark ≤ u.occupancy

/-- The causes of the marks that an occupancy rising from `before` to `after` reaches or passes (R168). -/
def ReportUnit.crossMarks (before after : Nat) (u : ReportUnit) : ReportUnit :=
  let u := if before < Config.halfMark ∧ Config.halfMark ≤ after then u.setCause .fifoHalf else u
  if before < Config.backpressureMark ∧ Config.backpressureMark ≤ after then u.setCause .backpressure else u

/-- A block writes a record (R162): appended at the tail with the floor second, with the causes of the marks it reaches
(R168); a record whose places do not fit is lost and sets OVERFLOW. -/
def ReportUnit.append (second : Word) (e : Report) (u : ReportUnit) : ReportUnit :=
  if Config.fifoPlaces < u.occupancy + e.places then u.setCause .overflow
  else ReportUnit.crossMarks u.occupancy (u.occupancy + e.places)
    { u with fifo := u.fifo ++ [{ second := second, report := e }] }

/-! ## The register window as it is read (R153, Table 10-1) -/

/-- Codes of the part state in STATUS bits 0..1. -/
def PartState.code : PartState → Nat
  | .halted => 0
  | .running => 1
  | .faulted => 2

/-- Codes of the fault source in STATUS bits 2..4. -/
def FaultSource.code : FaultSource → Nat
  | .none => 0
  | .setup => 1
  | .board => 2
  | .buffer => 3
  | .page => 4

/-- Codes of the filling page in STATUS bits 16..17. -/
def fillingCode : Option PageId → Nat
  | none => 0
  | some .a => 1
  | some .b => 2

/-- The STATUS register: part state, fault source, FIFO occupancy, filling page and backpressure as they stand (R153). -/
def State.statusRegister (s : State) : Word :=
  BitVec.ofNat 32 (s.os.part.code + s.os.faultSource.code * 2 ^ 2 + s.ru.occupancy * 2 ^ 5 +
    fillingCode s.ru.filling * 2 ^ 16 + (if s.ru.backpressure then 1 else 0) * 2 ^ 18)

/-- The IDENT register: vendor code 1427, part number 740, revision 1 (Table 10-1). -/
def identRegister : Word := BitVec.ofNat 32 (1427 + 740 * 2 ^ 16 + 1 * 2 ^ 28)

/-- What a read of a register returns (R153); bits the table does not name read 0. DESIGN CHOICE (log entry 40):
PAGE_RETURN, which the table makes write only, reads 0 in its named bit 0 too. -/
def State.readRegister (s : State) : Reg → Word
  | .ident => identRegister
  | .setupAddrLo => s.os.setupLo
  | .setupAddrHi => s.os.setupHi
  | .control => 0
  | .status => s.statusRegister
  | .cause => s.ru.cause.setWidth 32
  | .causeEnable => s.ru.causeEnable.setWidth 32
  | .pageReturn => 0

/-- The byte offset of a register in the window (Table 10-1). -/
def Reg.offset : Reg → Nat
  | .ident => 0
  | .setupAddrLo => 4
  | .setupAddrHi => 8
  | .control => 12
  | .status => 16
  | .cause => 20
  | .causeEnable => 24
  | .pageReturn => 28

/-- The register at a byte offset of the window; none where Table 10-1 has no register. -/
def Reg.ofOffset? : Nat → Option Reg
  | 0 => some .ident
  | 4 => some .setupAddrLo
  | 8 => some .setupAddrHi
  | 12 => some .control
  | 16 => some .status
  | 20 => some .cause
  | 24 => some .causeEnable
  | 28 => some .pageReturn
  | _ => none

/-- What a read at a byte offset of the window returns; none where no register stands (R153). -/
def State.readWindow (s : State) (offset : Nat) : Option Word := (Reg.ofOffset? offset).map s.readRegister

end Sys2Proof.Machine
end

