-- ==== Sys2Proof/Machine/Ops.lean ====
section
/-! DEFINITION. The named operations every chapter uses: numbers and indexes, saturating counts, bytes, host memory, the
homes of the records, the writing of report records, and answers to orders. -/

namespace Sys2Proof.Machine

/-! ## Numbers -/

/-- The index of a thing numbered 1..n; none for a number outside the range (0.6). -/
def ofNumber? (n x : Nat) : Option (Fin n) := if h : 1 ≤ x ∧ x ≤ n then some ⟨x - 1, by omega⟩ else none

/-- The index of a thing numbered 0..n−1; none outside the range (0.6). -/
def ofIndex? (n x : Nat) : Option (Fin n) := if h : x < n then some ⟨x, h⟩ else none

/-- The number 1..n of an index. -/
def number {n : Nat} (i : Fin n) : Nat := i.val + 1

/-- A saturating 16-bit count grows by 1 (R35). -/
def satInc (x : Nat) : Nat := min (x + 1) Config.countMax

/-- Division rounded up (0.6). -/
def ceilDiv (a b : Nat) : Nat := (a + b - 1) / b

/-- A value clamped to a range (0.6). -/
def clamp (lo hi x : Nat) : Nat := min hi (max lo x)

/-- The sum of the counts whose bits are set in a mask, from bit i upwards. -/
def maskSum (mask : Nat) : Nat → List Nat → Nat
  | _, [] => 0
  | i, x :: xs => (if mask.testBit i then x else 0) + maskSum mask (i + 1) xs

/-- All cells, in number order. -/
def allCells : List CellNo := List.finRange 48

/-- All lot slots, in order. -/
def allLots : List LotSlot := List.finRange 512

/-- The free record of lowest index (R10, R138). -/
def firstFree {α : Type} {n : Nat} (v : Vector (Option α) n) : Option (Fin n) :=
  (List.finRange n).find? fun i => v[i].isNone

/-! ## Bytes and host memory -/

/-- A value as k bytes, least significant first (0.6). -/
def leBytes : Nat → Nat → List Byte
  | 0, _ => []
  | k + 1, v => BitVec.ofNat 8 v :: leBytes k (v / 256)

/-- The value of little-endian bytes (0.6). -/
def ofLeBytes : List Byte → Nat
  | [] => 0
  | b :: bs => b.toNat + 256 * ofLeBytes bs

/-- A flag as one byte (R45). -/
def flagByte (b : Bool) : List Byte := [if b then 1 else 0]

/-- An optional field, or an optional group of `k` bytes, preceded by its presence flag and written 0 when absent (R158). -/
def optBytes (k : Nat) : Option (List Byte) → List Byte
  | none => 0 :: List.replicate k 0
  | some bs => 1 :: bs

/-- Bytes cut or filled with zeros to a length (R161, R163). -/
def padTo (k : Nat) (bs : List Byte) : List Byte := (bs ++ List.replicate k 0).take k

/-- The canonical form of host memory as written: addresses strictly rise. -/
abbrev Memory.wf (m : List Host.Cell) : Prop := m.Pairwise fun x y => x.1 < y.1

/-- One byte written, keeping the canonical form. -/
def Memory.put (a : Nat) (b : Byte) : List Host.Cell → List Host.Cell
  | [] => [(a, b)]
  | (x, y) :: rest =>
    if a < x then (a, b) :: (x, y) :: rest
    else if a = x then (a, b) :: rest
    else (x, y) :: Memory.put a b rest

/-- Bytes written from an address upwards. -/
def Memory.write : Nat → List Byte → List Host.Cell → List Host.Cell
  | _, [], m => m
  | a, b :: bs, m => Memory.write (a + 1) bs (Memory.put a b m)

/-- The byte at an address as the part has written it; none where it has not (log entry 5). -/
def Memory.read? (a : Nat) : List Host.Cell → Option Byte
  | [] => none
  | (x, y) :: rest => if a = x then some y else Memory.read? a rest

/-- The part writes bytes to host memory (R158, R161, R165, R166). -/
def State.hostWrite (a : Nat) (bs : List Byte) (s : State) : State := { s with host := Memory.write a bs s.host }

/-- The byte of host memory at an address, as the part has written it. -/
def State.hostByte (s : State) (a : Nat) : Option Byte := Memory.read? a s.host

/-! ## Homes of the records -/

/-- A recipe that no rule reads: the value of an empty record where a rule asks for a recipe that its lot or insertion
names (log entry 24: such a record is never empty). -/
def Recipe.blank : Recipe :=
  { programId := 0, testerClass := 0, handlerClass := 0, temp := .cold, soakMinutes := 0, kitCode := 0, minSites := 0,
    maxSites := 0, cycleTime := 0, passSet := 0, retestSet := 0, retestCap := 0 }

/-- A step outside a lot's route (log entry 24: no rule asks for one). -/
def LotStep.blank : LotStep :=
  { recipe := 0, limitSet := 0, lossAllowance := 0, state := .opened, unitsIn := 0, bins := Vector.replicate 16 0,
    gap := 0, loss := 0, stalls := 0, runs := [] }

/-- A limit set with no entries (log entry 24). -/
def LimitSet.blank : LimitSet := { minUnits := 0, interval := 0, siteMinUnits := 0, entries := [] }

/-- The recipe record of a number (R1). -/
def State.recipe? (s : State) (r : RecipeNo) : Option Recipe := s.lm.recipes[r]
/-- The recipe a lot step or insertion names: "reads the current record of that number" (1.1). -/
def State.recipe (s : State) (r : RecipeNo) : Recipe := (s.recipe? r).getD Recipe.blank
/-- A recipe record written or emptied (R2, R3). -/
def State.setRecipe (r : RecipeNo) (x : Option Recipe) (s : State) : State :=
  { s with lm := { s.lm with recipes := s.lm.recipes.set r.val x r.isLt } }

/-- The lot record of a slot (R4). -/
def State.lot (s : State) (l : LotSlot) : Option Lot := s.lm.lots[l]
/-- A lot slot filled or freed. -/
def State.setLot (l : LotSlot) (x : Option Lot) (s : State) : State :=
  { s with lm := { s.lm with lots := s.lm.lots.set l.val x l.isLt } }
/-- A change of a lot record; a free slot is left as it is. -/
def State.modLot (l : LotSlot) (f : Lot → Lot) (s : State) : State := s.setLot l ((s.lot l).map f)

/-- The cell record of a cell (R21). -/
def State.cell (s : State) (c : CellNo) : Cell := s.cells[c]
/-- A change of a cell record. -/
def State.modCell (c : CellNo) (f : Cell → Cell) (s : State) : State :=
  { s with cells := s.cells.set c.val (f (s.cell c)) c.isLt }

/-- The port record of a port (R38). -/
def State.port (s : State) (p : PortNo) : Port := s.ports[p]
/-- A change of a port record. -/
def State.modPort (p : PortNo) (f : Port → Port) (s : State) : State :=
  { s with ports := s.ports.set p.val (f (s.port p)) p.isLt }

/-- The insertion record of a cell, if present (R60). -/
def State.insertion (s : State) (c : CellNo) : Option Insertion := s.insertions[c]
/-- An insertion record filled or cleared. -/
def State.setInsertion (c : CellNo) (x : Option Insertion) (s : State) : State :=
  { s with insertions := s.insertions.set c.val x c.isLt }
/-- A change of a present insertion record. -/
def State.modInsertion (c : CellNo) (f : Insertion → Insertion) (s : State) : State :=
  s.setInsertion c ((s.insertion c).map f)

/-- The limit-set record of a number (R85). -/
def State.limitSet? (s : State) (n : LimitNo) : Option LimitSet := s.limitSets[n]
/-- The limit set that an evaluation reads (R85: "as it stands at the moment of evaluation"). -/
def State.limitSet (s : State) (n : LimitNo) : LimitSet := (s.limitSet? n).getD LimitSet.blank
/-- A limit-set record written or emptied (R86, R88). -/
def State.setLimitSet (n : LimitNo) (x : Option LimitSet) (s : State) : State :=
  { s with limitSets := s.limitSets.set n.val x n.isLt }

/-- The ship-order record of a number (R134). -/
def State.ship (s : State) (n : ShipNo) : Option Ship := s.ships[n]
/-- A ship-order record filled or freed. -/
def State.setShip (n : ShipNo) (x : Option Ship) (s : State) : State :=
  { s with ships := s.ships.set n.val x n.isLt }
/-- A change of a ship-order record that is in use. -/
def State.modShip (n : ShipNo) (f : Ship → Ship) (s : State) : State := s.setShip n ((s.ship n).map f)

/-! ## Clock, parts and records -/

/-- The floor minute (R147). -/
def State.minute (s : State) : Nat := s.ft.clock.toNat / 60

/-- The part is RUNNING (R154). -/
def State.running (s : State) : Bool := s.os.part = .running
/-- The part is RUNNING or FAULTED: the floor's own work goes on (R40, R154). -/
def State.working (s : State) : Bool := s.os.part = .running || s.os.part = .faulted
/-- The report FIFO exerts backpressure (R168). -/
def State.backpressure (s : State) : Bool := s.ru.backpressure

/-- A record is written (R162), with the current floor second. -/
def State.report (e : Report) (s : State) : State := { s with ru := s.ru.append s.ft.clock e }

/-- A pass trigger: the pass-pending flag is set (R122). -/
def State.triggerPass (s : State) : State := { s with de := { s.de with passPending := true } }

/-- Entry to FAULTED (R154): the fault source, the FAULT cause with its interrupt, and the end of a scan pass (R159). -/
def State.enterFaulted (src : FaultSource) (s : State) : State :=
  { s with
    os := { s.os with part := .faulted, faultSource := src, scanAt := none }
    ru := s.ru.setCause .fault }

/-! ## Answers to orders (R160) -/

/-- The outcome codes of Table 10-6. -/
inductive OrderOutcome
  | done | accepted | badOrder | badArg | noRoom | notFound | wrongState | inUse | busy | quarantined | deviation | notReady
  deriving DecidableEq, Repr

/-- The value of an outcome code (Table 10-6). -/
def OrderOutcome.code : OrderOutcome → Nat
  | .done => 0
  | .accepted => 1
  | .badOrder => 2
  | .badArg => 3
  | .noRoom => 4
  | .notFound => 5
  | .wrongState => 6
  | .inUse => 7
  | .busy => 8
  | .quarantined => 9
  | .deviation => 10
  | .notReady => 11

/-- The answer of an order: its outcome, its detail where its rule states one, and its answer fields (R160). -/
structure Answer where
  outcome : OrderOutcome
  detail : Option Nat
  fields : List Byte
  deriving DecidableEq, Repr

/-- An answer whose rule states no detail (log entry 8) and which carries no answer fields. -/
def Answer.plain (o : OrderOutcome) : Answer := { outcome := o, detail := none, fields := [] }
/-- An answer with the detail its rule states. -/
def Answer.withDetail (o : OrderOutcome) (d : Nat) : Answer := { outcome := o, detail := some d, fields := [] }
/-- An answer that carries answer fields. -/
def Answer.withFields (fs : List Byte) : Answer := { outcome := .done, detail := none, fields := fs }

/-- What the owner of an order does with it: the state it leaves and its answer. -/
abbrev Acted := State × Answer

/-- A refusal: "A refused order changes nothing in the part and writes no report record" (R160). -/
def refuse (o : OrderOutcome) (s : State) : Acted := (s, Answer.plain o)
/-- A refusal with a stated detail. -/
def refuseWith (o : OrderOutcome) (d : Nat) (s : State) : Acted := (s, Answer.withDetail o d)
/-- An order answered DONE whose rule states no detail. -/
def doneOrder (s : State) : Acted := (s, Answer.plain .done)

end Sys2Proof.Machine
end

