-- ==== Sys2Proof/Machine/Operands.lean ====
section
/-! DEFINITION. The encodings of operands: enumerated values as their place in the list where their chapter names them
(R158), and the setup block with its clamping (R156). -/

namespace Sys2Proof.Machine

/-! ## Enumerated values (R158: "its place in the list where its owning chapter names it, counting from 0") -/

/-- COLD, ROOM, HOT (R1, R45). -/
def TempClass.code : TempClass → Nat
  | .cold => 0
  | .room => 1
  | .hot => 2

/-- The temperature class of a code. -/
def TempClass.ofCode? : Nat → Option TempClass
  | 0 => some .cold
  | 1 => some .room
  | 2 => some .hot
  | _ => none

/-- EXEMPT, END_OF_INDEX, IMMEDIATE (Table 2-3). -/
def StopPolicy.code : StopPolicy → Nat
  | .exempt => 0
  | .endOfIndex => 1
  | .immediate => 2

/-- The stop policy of a code. -/
def StopPolicy.ofCode? : Nat → Option StopPolicy
  | 0 => some .exempt
  | 1 => some .endOfIndex
  | 2 => some .immediate
  | _ => none

/-- ON, OFF: the actions of FREEZE and SET_CELL_SERVICE (R26, R28); true is ON. -/
def onOff? : Nat → Option Bool
  | 0 => some true
  | 1 => some false
  | _ => none

/-- SOFT, STOP_END, STOP_NOW (R100). -/
def HoldClass.code : HoldClass → Nat
  | .soft => 0
  | .stopEnd => 1
  | .stopNow => 2

/-- The hold class of a code. -/
def HoldClass.ofCode? : Nat → Option HoldClass
  | 0 => some .soft
  | 1 => some .stopEnd
  | 2 => some .stopNow
  | _ => none

/-- PASS_PPM, BIN_PPM, SITE_SPREAD_PPM, FAIL_RUN (Table 5-2). -/
def Metric.code : Metric → Nat
  | .passPpm => 0
  | .binPpm _ => 1
  | .siteSpreadPpm => 2
  | .failRun => 3

/-- The bin of a BIN_PPM metric, 0 for the others (R158: an absent optional field whose range has no 0). -/
def Metric.binCode : Metric → Nat
  | .binPpm b => number b
  | _ => 0

/-- The metric of a code and a bin field; none for a code of no metric and for BIN_PPM with a bin outside 1..16 (R86). -/
def Metric.ofCode? (code bin : Nat) : Option Metric :=
  match code with
  | 0 => some .passPpm
  | 1 => (ofNumber? 16 bin).map .binPpm
  | 2 => some .siteSpreadPpm
  | 3 => some .failRun
  | _ => none

/-- The upper end of a metric's range: 1,000,000 for the ppm metrics, 65535 for FAIL_RUN (Table 5-2). -/
def Metric.top : Metric → Nat
  | .failRun => 65535
  | _ => 1000000

/-- ABOVE_L1, BELOW_L2, INSIDE, OUTSIDE (Table 5-2). -/
def TripCondition.ofCode? : Nat → Option TripCondition
  | 0 => some .aboveL1
  | 1 => some .belowL2
  | 2 => some .inside
  | 3 => some .outside
  | _ => none

/-- CONTINUE, SCRAP: the dispositions of DISPOSE (R112). -/
def Disposition.ofHoldCode? : Nat → Option Disposition
  | 0 => some .continue
  | 1 => some .scrap
  | _ => none

/-- SCRAP, DOWNGRADE: the dispositions of DISPOSE_LOT (R115). -/
def Disposition.ofLotCode? : Nat → Option Disposition
  | 0 => some .scrap
  | 1 => some .downgrade
  | _ => none

/-- NORMAL, DEVIATION (R134). -/
def ShipKind.code : ShipKind → Nat
  | .normal => 0
  | .deviation => 1

/-- The ship-order kind of a code. -/
def ShipKind.ofCode? : Nat → Option ShipKind
  | 0 => some .normal
  | 1 => some .deviation
  | _ => none

/-- ALL, READY_ONLY: the modes of RELEASE_SHIP (R143). -/
def ReleaseManner.ofCode? : Nat → Option ReleaseManner
  | 0 => some .all
  | 1 => some .readyOnly
  | _ => none

/-- RUN, DISPATCH_HELD, LINE_STOP (R150: "0 for RUN, 1 for DISPATCH_HELD, 2 for LINE_STOP"). -/
def FloorMode.code : FloorMode → Nat
  | .run => 0
  | .dispatchHeld => 1
  | .lineStop => 2

/-- The floor mode of a code. -/
def FloorMode.ofCode? : Nat → Option FloorMode
  | 0 => some .run
  | 1 => some .dispatchHeld
  | 2 => some .lineStop
  | _ => none

/-- QUEUED, RESERVED, IN_TEST, COMPLETE, RELEASED, SCRAPPED (Table 1-2). -/
def LotState.code : LotState → Nat
  | .queued => 0
  | .reserved => 1
  | .inTest => 2
  | .complete => 3
  | .released => 4
  | .scrapped => 5

/-- Kind codes of CellLink frames: the seven commands (R45). -/
def CommandKind.code : CommandKind → Nat
  | .kitRequest => 8
  | .load => 9
  | .go => 10
  | .haltAtIndex => 11
  | .haltNow => 12
  | .finish => 13
  | .abort => 14

/-- The last applied command kind of a STATUS: 0 for none, else a command's kind code; none outside that set (R45, R49). -/
def CommandKind.ofStatus? : Nat → Option (Option CommandKind)
  | 0 => some none
  | 8 => some (some .kitRequest)
  | 9 => some (some .load)
  | 10 => some (some .go)
  | 11 => some (some .haltAtIndex)
  | 12 => some (some .haltNow)
  | 13 => some (some .finish)
  | 14 => some (some .abort)
  | _ => none

/-- Handler states of STATUS, in the order of Table 3-2. -/
inductive HandlerState
  | idle | indexing | halted | jammed | empty
  deriving DecidableEq, Repr

/-- The handler state of a code (R45). -/
def HandlerState.ofCode? : Nat → Option HandlerState
  | 0 => some .idle
  | 1 => some .indexing
  | 2 => some .halted
  | 3 => some .jammed
  | 4 => some .empty
  | _ => none

/-! ## The setup block (R156, Table 10-3) -/

/-- The field of `size` bytes at an offset of the setup block. -/
def setupField (b : SetupBytes) (offset size : Nat) : Nat := ofLeBytes ((b.toList.drop offset).take size)

/-- A host address of the setup block: bits 0..5 taken as 0. -/
def setupAddr (b : SetupBytes) (offset : Nat) : Addr := BitVec.ofNat 64 (setupField b offset 8) &&& ~~~ 63#64

/-- The setup block's fields after clamping. -/
structure Setup where
  boardBase : Addr
  baseA : Addr
  baseB : Addr
  slotCount : Nat
  winStart : Nat
  winStop : Nat
  pageLength : Nat
  scanPacer : Nat
  idleClose : Nat
  closeOnUrgent : Bool
  windows : Vector (Nat × Nat) 4
  params : DispatchParams
  deriving DecidableEq, Repr

/-- Clamping in table order, the scan window against the slot count already clamped (R156). -/
def Setup.ofBytes (b : SetupBytes) : Setup :=
  let slots := clamp 16 256 (setupField b 24 2)
  { boardBase := setupAddr b 0
    baseA := setupAddr b 8
    baseB := setupAddr b 16
    slotCount := slots
    winStart := clamp 0 (slots - 1) (setupField b 26 2)
    winStop := clamp 0 (slots - 1) (setupField b 28 2)
    pageLength := clamp 64 4096 (setupField b 30 2)
    scanPacer := clamp 1 255 (setupField b 32 1)
    idleClose := clamp 1 255 (setupField b 33 1)
    closeOnUrgent := setupField b 34 1 ≠ 0
    windows := Vector.ofFn fun p : Fin 4 =>
      (clamp 1 15 (setupField b (36 + 2 * p.val) 1), clamp 1 15 (setupField b (37 + 2 * p.val) 1))
    params :=
      { mode := if setupField b 35 1 = 0 then .confirm else .auto
        window := clamp 1 60 (setupField b 44 1)
        pacer := clamp 0 60 (setupField b 45 1)
        kitMinutes := setupField b 46 1
        transitionMinutes := setupField b 47 1
        priorityWeight := clamp 0 4096 (setupField b 48 2)
        setupWeight := clamp 0 63 (setupField b 50 1) } }

end Sys2Proof.Machine
end

