-- ==== Sys2Proof/Machine/Lots.lean ====
section
/-! DEFINITION. Chapter 1, the Lot Manager: counts of a step, the dispatch queue, lot states, tail minutes, step closure,
and the orders on recipes and lots. -/

namespace Sys2Proof.Machine

/-! ## Counts of a step (R5, R6) -/

/-- Step k of a lot, k from 1. -/
def Lot.step (x : Lot) (k : Nat) : LotStep := (x.steps[k - 1]?).getD LotStep.blank

/-- A change of step k. -/
def Lot.modStep (k : Nat) (f : LotStep → LotStep) (x : Lot) : Lot := { x with steps := x.steps.modify (k - 1) f }

/-- The sum of a step's bin counts. -/
def LotStep.binSum (st : LotStep) : Nat := st.bins.toList.sum

/-- The accounted quantity: bin counts, gap units and loss (R5). -/
def LotStep.accounted (st : LotStep) : Nat := st.binSum + st.gap + st.loss

/-- The remainder: units_in minus the accounted quantity (R5). -/
def LotStep.remainder (st : LotStep) : Nat := st.unitsIn - st.accounted

/-- The grade-bin total of a step: its bin counts over a pass set (R5). -/
def LotStep.gradeTotal (pass : BitVec 16) (st : LotStep) : Nat := maskSum pass.toNat 0 st.bins.toList

/-- The pass set of a recipe number. -/
def passSetOf (recipes : Vector (Option Recipe) 128) (r : RecipeNo) : BitVec 16 :=
  ((recipes[r]).getD Recipe.blank).passSet

/-- The units_in of the step after step k brought up to date: the grade-bin total of step k, unless that step is SKIPPED
(R5, R6). -/
def Lot.syncUnitsIn (recipes : Vector (Option Recipe) 128) (k : Nat) (x : Lot) : Lot :=
  let total := (x.step k).gradeTotal (passSetOf recipes (x.step k).recipe)
  x.modStep (k + 1) fun st => if st.state = .skipped then st else { st with unitsIn := total }

/-- A request of R6 on step k of a lot: the change, then the next step's units_in. -/
def State.changeStep (l : LotSlot) (k : Nat) (f : LotStep → LotStep) (s : State) : State :=
  s.modLot l fun x => (x.modStep k f).syncUnitsIn s.lm.recipes k

/-- Request "count a unit" (R6). -/
def LotStep.countUnit (b : Bin) (st : LotStep) : LotStep := { st with bins := st.bins.set b.val (st.bins[b] + 1) b.isLt }

/-- A count lowered by 1 in one bin and raised by 1 in another, in that order. -/
def moveOne (o b : Bin) (bins : Vector Nat 16) : Vector Nat 16 :=
  let bins := bins.set o.val (bins[o] - 1) o.isLt
  bins.set b.val (bins[b] + 1) b.isLt

/-- Request "move a count" (R6). -/
def LotStep.moveCount (o b : Bin) (st : LotStep) : LotStep := { st with bins := moveOne o b st.bins }

/-- Request "adopt totals" (R6, R75): the run's bin contribution is replaced by the tap's totals and the run's gap leaves
the step's gap units. -/
def LotStep.adoptTotals (run totals : Vector Nat 16) (runGap : Nat) (st : LotStep) : LotStep :=
  { st with bins := Vector.ofFn fun b : Fin 16 => st.bins[b] - run[b] + totals[b], gap := st.gap - runGap }

/-- Request "add gap" (R6). -/
def LotStep.addGap (n : Nat) (st : LotStep) : LotStep := { st with gap := st.gap + n }
/-- Request "add loss" (R6). -/
def LotStep.addLoss (n : Nat) (st : LotStep) : LotStep := { st with loss := st.loss + n }
/-- Request "convert gap to loss" (R6, R113). -/
def LotStep.gapToLoss (st : LotStep) : LotStep := { st with loss := st.loss + st.gap, gap := 0 }
/-- Request "add stall" (R6). -/
def LotStep.addStall (st : LotStep) : LotStep := { st with stalls := satInc st.stalls }
/-- Request "remainder to loss" (R6, R18). -/
def LotStep.remainderToLoss (st : LotStep) : LotStep := { st with loss := st.loss + st.remainder }

/-- The last run entry changed: the open run of the step (R7). -/
def modLastRun (f : Run → Run) : List Run → List Run
  | [] => []
  | [r] => [f r]
  | r :: r' :: rest => r :: modLastRun f (r' :: rest)

/-- A step is exhausted when it is OPEN with four runs listed, all closed (R7). DEDUCED (log entry 28): a fourth run that
is still open has not closed. -/
def LotStep.exhausted (st : LotStep) : Bool :=
  st.state = .opened && Config.stepRuns ≤ st.runs.length && st.runs.all fun r => r.endSecond.isSome

/-! ## Dispatch queue (R13, R14) -/

/-- The queue's order: ready minute, then admission number, then the lower slot (R13, R14). -/
def State.queueBefore (s : State) (a b : LotSlot) : Bool :=
  match s.lot a, s.lot b with
  | some x, some y =>
    if x.ready ≠ y.ready then x.ready < y.ready
    else if x.admission ≠ y.admission then x.admission.toNat < y.admission.toNat
    else a.val < b.val
  | _, _ => false

/-- A joining lot placed before the first entry that it stands before (R13). -/
def queueInsert (before : LotSlot → LotSlot → Bool) (l : LotSlot) : List LotSlot → List LotSlot
  | [] => [l]
  | x :: xs => if before l x then l :: x :: xs else x :: queueInsert before l xs

/-- A lot joins the dispatch queue. -/
def State.joinQueue (l : LotSlot) (s : State) : State :=
  { s with lm := { s.lm with queue := queueInsert s.queueBefore l s.lm.queue } }

/-- A lot leaves the dispatch queue. -/
def State.leaveQueue (l : LotSlot) (s : State) : State := { s with lm := { s.lm with queue := s.lm.queue.erase l } }

/-! ## Lot states (R8) -/

/-- A lot's entry into QUEUED: the ready minute is the current floor minute, and the lot joins the queue (R8). -/
def State.requeue (l : LotSlot) (s : State) : State :=
  (s.modLot l fun x => { x with state := .queued, ready := s.minute }).joinQueue l

/-- A change of lot state (R8) with its LOT_STATE record: entry into QUEUED joins the queue and is a pass trigger (R122),
departure from QUEUED leaves the queue (R13). A state the lot already has is no change. -/
def State.setLotState (l : LotSlot) (new : LotState) (s : State) : State :=
  match s.lot l with
  | none => s
  | some x =>
    if x.state = new then s
    else
      let s :=
        if new = .queued then (s.requeue l).triggerPass
        else
          let s := s.modLot l fun x => { x with state := new }
          if x.state = .queued then s.leaveQueue l else s
      s.report (.lotState l (some x.state) (some new) x.current)

/-! ## Tail minutes (R15) -/

/-- The tail: over the later steps, ceil(ceil(U / s) × c / 60000). -/
def tailMinutes (recipes : Vector (Option Recipe) 128) (units : Nat) (later : List LotStep) : Nat :=
  (later.map fun st =>
    let r := (recipes[st.recipe]).getD Recipe.blank
    ceilDiv (ceilDiv units r.maxSites * r.cycleTime) 60000).sum

/-- A lot's tail minutes computed for its current step. -/
def Lot.retail (recipes : Vector (Option Recipe) 128) (x : Lot) : Lot :=
  { x with tail := tailMinutes recipes (x.step x.current).unitsIn (x.steps.drop x.current) }

/-! ## Step closure (R16, R17, R18) -/

/-- The current step may close: the lot is not SCRAPPED, the step is OPEN and accounted for (R16). -/
def Lot.closable (x : Lot) : Bool :=
  x.state ≠ .scrapped && (x.step x.current).state = .opened &&
    (x.step x.current).accounted = (x.step x.current).unitsIn

/-- A later step skipped: units_in 0 and all counts 0 (R5, R17). -/
def LotStep.skip (st : LotStep) : LotStep :=
  { st with state := .skipped, unitsIn := 0, bins := Vector.replicate 16 0, gap := 0, loss := 0, stalls := 0, runs := [] }

/-- The steps after the current one skipped. -/
def Lot.skipLater (x : Lot) : Lot := { x with steps := x.steps.take x.current ++ (x.steps.drop x.current).map LotStep.skip }

/-- The current step of a lot closes (R16), and the lot goes on by the first case of R17: EMPTY and COMPLETE, COMPLETE,
or its next step. A lot that was QUEUED and goes on stays QUEUED with its place (R8). -/
def State.closeStep (l : LotSlot) (s : State) : State :=
  match s.lot l with
  | none => s
  | some x =>
    let st := x.step x.current
    let s := s.changeStep l x.current fun st => { st with state := .closed }
    if st.gradeTotal (passSetOf s.lm.recipes st.recipe) = 0 then
      (s.modLot l fun x => { x.skipLater with empty := true, tail := 0 }).setLotState l .complete
    else if x.steps.length ≤ x.current then
      (s.modLot l fun x => { x with tail := 0 }).setLotState l .complete
    else
      (s.modLot l fun x => Lot.retail s.lm.recipes { x with current := x.current + 1 }).setLotState l .queued

/-! ## Recipes (R2, R3) -/

/-- Some step of some lot in the lot table names the recipe (R2). -/
def State.recipeInUse (r : RecipeNo) (s : State) : Bool :=
  s.lm.lots.toList.any fun o => match o with
    | none => false
    | some x => x.steps.any fun st => st.recipe = r

/-- The recipe that PUT_RECIPE's fields give, where every range and form check of R2 passes. -/
def recipeOfArgs (a : RecipeArgs) : Option Recipe :=
  match TempClass.ofCode? a.tempClass.toNat with
  | none => none
  | some temp =>
    if (1 ≤ a.testerClass.toNat ∧ a.testerClass.toNat ≤ 15) ∧ (1 ≤ a.handlerClass.toNat ∧ a.handlerClass.toNat ≤ 15) ∧
        (1 ≤ a.kitCode.toNat ∧ a.kitCode.toNat ≤ 4095) ∧ (1 ≤ a.minSites.toNat ∧ a.minSites.toNat ≤ 8) ∧
        (1 ≤ a.maxSites.toNat ∧ a.maxSites.toNat ≤ 8) ∧ (1 ≤ a.cycleTime.toNat ∧ a.cycleTime.toNat ≤ 60000) ∧
        a.passSet ≠ 0 ∧ a.retestSet &&& a.passSet = 0 ∧ a.minSites.toNat ≤ a.maxSites.toNat then
      some { programId := a.programId, testerClass := a.testerClass.toNat, handlerClass := a.handlerClass.toNat,
             temp := temp, soakMinutes := a.soakMinutes.toNat, kitCode := a.kitCode.toNat,
             minSites := a.minSites.toNat, maxSites := a.maxSites.toNat, cycleTime := a.cycleTime.toNat,
             passSet := a.passSet, retestSet := a.retestSet, retestCap := a.retestCap.toNat }
    else none

/-- PUT_RECIPE (R2): BAD_ARG, then IN_USE for an existing record that a lot names, else the record is written. -/
def actPutRecipe (a : RecipeArgs) (s : State) : Acted :=
  match ofNumber? 128 a.number.toNat, recipeOfArgs a with
  | some r, some x =>
    if (s.recipe? r).isSome && s.recipeInUse r then refuse .inUse s
    else doneOrder (s.setRecipe r (some x))
  | _, _ => refuse .badArg s

/-- DROP_RECIPE (R3). -/
def actDropRecipe (recipe : Byte) (s : State) : Acted :=
  match ofNumber? 128 recipe.toNat with
  | none => refuse .badArg s
  | some r =>
    if (s.recipe? r).isNone then refuse .notFound s
    else if s.recipeInUse r then refuse .inUse s
    else doneOrder (s.setRecipe r none)

/-! ## Admission, amendment and retirement (R10, R11, R12) -/

/-- A step of ADMIT_LOT at admission: OPEN with zero counts and no runs (R5); none when its recipe or limit set is out of
range. Its units_in is set by `admitted`. -/
def stepOfArgs (a : StepArgs) : Option LotStep :=
  match ofNumber? 128 a.recipe.toNat, ofNumber? 64 a.limitSet.toNat with
  | some r, some n => some { LotStep.blank with recipe := r, limitSet := n, lossAllowance := a.lossAllowance.toNat }
  | _, _ => none

/-- A step's recipe number names a recipe record that is not empty (R10). -/
def State.namesRecipe (s : State) (a : StepArgs) : Bool :=
  match ofNumber? 128 a.recipe.toNat with
  | none => false
  | some r => (s.recipe? r).isSome

/-- A step's limit-set number names a limit set that is not empty (R10). -/
def State.namesLimitSet (s : State) (a : StepArgs) : Bool :=
  match ofNumber? 64 a.limitSet.toNat with
  | none => false
  | some n => (s.limitSet? n).isSome

/-- The number, from 1, of the first step that fails a test (R10). -/
def firstBad {α : Type} (ok : α → Bool) (xs : List α) : Option Nat := (xs.findIdx? fun x => !ok x).map (· + 1)

/-- The slot of a lot in the table with a given lot number (R10). -/
def State.slotOfNumber (n : LotNumber) (s : State) : Option LotSlot :=
  allLots.find? fun l => match s.lot l with
    | none => false
    | some x => x.lotNumber = n

/-- The lot record at admission (R10, R5, R15). -/
def admitted (recipes : Vector (Option Recipe) 128) (a : LotArgs) (steps : List LotStep) (minute : Nat) (number : Word) :
    Lot :=
  Lot.retail recipes
    { lotNumber := a.lotNumber, startQuantity := a.startQuantity.toNat, due := a.dueMinute.toNat,
      priority := a.priority.toNat, steps := steps.modify 0 fun st => { st with unitsIn := a.startQuantity.toNat },
      current := 1, state := .queued, empty := false, deviation := false, quarantined := false, holds := [],
      ship := none, ready := minute, admission := number, tail := 0, bar := none }

/-- ADMIT_LOT (R10): the refusals in sequence; on DONE the lowest free slot is taken, the lot is QUEUED, its LOT_STATE is
written from FREE, it joins the queue, and its entry is a pass trigger. -/
def actAdmitLot (a : LotArgs) (s : State) : Acted :=
  let given := a.steps.toList.take a.stepCount.toNat
  if a.stepCount.toNat < 1 ∨ 4 < a.stepCount.toNat then refuseWith .badArg 0 s
  else if a.startQuantity = 0 then refuseWith .badArg 0 s
  else if 3 < a.priority.toNat then refuseWith .badArg 0 s
  else match firstBad s.namesRecipe given with
  | some k => refuseWith .badArg k s
  | none =>
    match firstBad s.namesLimitSet given with
    | some k => refuseWith .badArg k s
    | none =>
      match s.slotOfNumber a.lotNumber with
      | some l => refuseWith .badArg l.val s
      | none =>
        match firstFree s.lm.lots with
        | none => refuseWith .noRoom 0 s
        | some l =>
          let n := s.lm.admissions + 1
          let x := admitted s.lm.recipes a (given.filterMap stepOfArgs) s.minute n
          let s := { s with lm := { s.lm with admissions := n } }
          let s := ((s.setLot l (some x)).joinQueue l).triggerPass
          (s.report (.lotState l none (some .queued) x.current), Answer.withDetail .done l.val)

/-- AMEND_LOT (R11). -/
def actAmendLot (lot : Half) (due : Word) (priority : Byte) (s : State) : Acted :=
  match ofIndex? 512 lot.toNat with
  | none => refuse .notFound s
  | some l =>
    match s.lot l with
    | none => refuse .notFound s
    | some x =>
      if x.state = .released ∨ x.state = .scrapped then refuse .wrongState s
      else if 3 < priority.toNat then refuse .badArg s
      else doneOrder (s.modLot l fun x => { x with due := due.toNat, priority := priority.toNat })

/-- The cell whose insertion record names a lot (R8, R60). -/
def State.insertionOf (l : LotSlot) (s : State) : Option CellNo :=
  allCells.find? fun c => match s.insertion c with
    | none => false
    | some i => i.lot = l

/-- The ship order of a lot is in a given state. -/
def State.shipStateIs (st : ShipState) (x : Lot) (s : State) : Bool :=
  match x.ship with
  | none => false
  | some n => match s.ship n with
    | none => false
    | some o => o.state = st

/-- The end of a released lot's membership at its retirement (R145): the slot leaves the list, and the order is freed when
its list becomes empty. -/
def State.retireMember (n : ShipNo) (l : LotSlot) (s : State) : State :=
  let s := s.modShip n fun o => { o with lots := o.lots.erase l }
  match s.ship n with
  | some o => if o.lots.isEmpty then s.setShip n none else s
  | none => s

/-- RETIRE_LOT (R12, R145): the LOT_STATE record to FREE, the end of a released membership, and the slot freed. -/
def actRetireLot (lot : Half) (s : State) : Acted :=
  match ofIndex? 512 lot.toNat with
  | none => refuse .notFound s
  | some l =>
    match s.lot l with
    | none => refuse .notFound s
    | some x =>
      if ¬ (x.state = .released ∨ x.state = .scrapped ∨ (x.state = .complete ∧ x.empty = true)) then
        refuse .wrongState s
      else if ¬ x.holds.isEmpty ∨ x.quarantined then refuse .wrongState s
      else if (s.insertionOf l).isSome then refuse .busy s
      else if s.shipStateIs .opened x then refuse .inUse s
      else
        let s := s.report (.lotState l (some x.state) none x.current)
        let s := match x.ship with
          | none => s
          | some n => s.retireMember n l
        doneOrder (s.setLot l none)

end Sys2Proof.Machine
end

