-- ==== Sys2Proof/Machine/CellStates.lean ====
section
/-! DEFINITION. The command slot (3.7), suspension of an insertion (R80), cancellation of a reservation (R130), and the
derivation of the cell state (2.7). -/

namespace Sys2Proof.Machine

/-! ## The command slot (R53 to R56) -/

/-- The kind of a command. -/
def Command.kind : Command → CommandKind
  | .kitRequest _ => .kitRequest
  | .load _ _ _ _ _ => .load
  | .go => .go
  | .haltAtIndex => .haltAtIndex
  | .haltNow => .haltNow
  | .finish => .finish
  | .abort => .abort

/-- KIT_REQUEST and LOAD take a new load tag; the other commands keep the load's (R54). -/
def Command.takesTag (cmd : Command) : Bool := cmd.kind = .kitRequest || cmd.kind = .load

/-- One more than a load tag, wrapping from 65535 to 1 (R54). -/
def nextTag (t : Half) : Half := if t = 65535 then 1 else t + 1

/-- The desired command differs from the last applied command (R55). -/
def CommandSlot.differs (x : CommandSlot) : Bool :=
  match x.desired with
  | none => false
  | some d => !(x.lastKind = some d.kind && x.lastTag = x.tag)

/-- The Insertion Engine requests a command for a cell (R54): KIT_REQUEST and LOAD take a new load tag, which the
insertion record copies (R61). -/
def State.request (c : CellNo) (cmd : Command) (s : State) : State :=
  if cmd.takesTag then
    let t := nextTag (s.cell c).slot.tag
    (s.modCell c fun x => { x with slot := { x.slot with desired := some cmd, tag := t } }).modInsertion c
      fun i => { i with loadTag := t }
  else s.modCell c fun x => { x with slot := { x.slot with desired := some cmd } }

/-- Both commands of a slot cleared, the load tag kept (R56). -/
def CommandSlot.clear (x : CommandSlot) : CommandSlot := { x with desired := none, lastKind := none, lastTag := 0 }

/-! ## Insertion states (R60, R80) -/

/-- A change of an insertion's state with its INSERTION_EVENT record (R60). -/
def State.setInsState (c : CellNo) (new : InsState) (cause : InsCause) (s : State) : State :=
  match s.insertion c with
  | none => s
  | some i =>
    (s.modInsertion c fun i => { i with state := new }).report
      (.insertionEvent c i.lot (some i.state) (some new) cause)

/-- RUNNING, PAUSING or PAUSED. -/
def InsState.onHandler : InsState → Bool
  | .running => true
  | .pausing => true
  | .paused => true
  | _ => false

/-- The state by which frames and requests are taken: for SUSPENDED, the state before suspension (R69). -/
def Insertion.takenBy (i : Insertion) : InsState :=
  if i.state = .suspended then i.before.getD .suspended else i.state

/-- SOAKING or later: a run exists (R69, R82, R83). -/
def InsState.hasRun : InsState → Bool
  | .soaking => true
  | .running => true
  | .pausing => true
  | .paused => true
  | .ending => true
  | _ => false

/-- Entry into SUSPENDED (R80). An insertion already SUSPENDED keeps its state before suspension and writes no record. -/
def State.suspend (c : CellNo) (s : State) : State :=
  match s.insertion c with
  | none => s
  | some i =>
    if i.state = .suspended then s.modInsertion c fun i => { i with resyncPending := false }
    else
      let s := s.modInsertion c fun i => { i with before := some i.state, sampleVoid := true, resyncPending := false }
      let s := s.setInsState c .suspended .suspend
      if i.state.onHandler then s.request c .haltNow else s

/-! ## Reservations (R126, R130) -/

/-- The reservation entry that names a cell. -/
def State.reservationOf (c : CellNo) (s : State) : Option Reservation := s.de.reservations.find? fun r => r.cell = c

/-- The reservation entry that names a lot. -/
def State.reservationOfLot (l : LotSlot) (s : State) : Option Reservation := s.de.reservations.find? fun r => r.lot = l

/-- The entry that names a cell deleted. -/
def State.deleteReservation (c : CellNo) (s : State) : State :=
  { s with de := { s.de with reservations := s.de.reservations.filter fun r => r.cell ≠ c } }

/-- The cancellation of an entry (R130) up to the lot's return: the entry deleted, RESERVATION_CANCELLED, the lot QUEUED. -/
def State.cancelEntry (cause : CancelCause) (r : Reservation) (s : State) : State :=
  ((s.deleteReservation r.cell).report (.reservationCancelled r.lot r.cell cause r.score)).setLotState r.lot .queued

/-- The cancellation of the reservation of a cell that has entered SILENT or MISMATCH; the derivation after the deletion
leaves the cell as it is (R130). -/
def State.cancelFor (c : CellNo) (cause : CancelCause) (s : State) : State :=
  match s.reservationOf c with
  | none => s
  | some r => s.cancelEntry cause r

/-! ## Derivation of the cell state (R32, R33) -/

/-- A tap address lies inside a port's scan window (R39). -/
def Port.inWindow (p : Port) (tap : Nat) : Bool := p.winStart ≤ tap && tap ≤ p.winStop

/-- The five compared fields of an identity (Table 2-2). -/
def Identity.compared (x : Identity) : FrozenIdentity :=
  { serial := x.serial, testerClass := x.testerClass, handlerClass := x.handlerClass, siteCount := x.siteCount,
    temps := x.temps }

/-- The reported identity differs from the frozen identity of a frozen cell (R27). -/
def Cell.mismatched (x : Cell) : Bool := x.freeze && x.reported.map Identity.compared ≠ x.frozen

/-- The cell state of Table 2-4: the first row whose condition holds. -/
def State.derivedState (s : State) (c : CellNo) : CellState :=
  let x := s.cell c
  match x.mapping with
  | none => .detached
  | some m =>
    if !(s.port m.port).inWindow m.tap then .parked
    else if !x.heard then .silent
    else if x.mismatched then .mismatch
    else if (s.insertion c).isSome then .busy
    else if (s.reservationOf c).isSome then .reserved
    else if !x.service then .outOfService
    else .idle

/-- The effects of entering a cell state (Table 2-6); those of DETACHED are made by UNMAP_CELL (R23). -/
def State.enterCellState (c : CellNo) (new : CellState) (s : State) : State :=
  match new with
  | .parked => (s.modCell c fun x => { x with silence := 0 }).suspend c
  | .silent => (s.suspend c).cancelFor c .silent
  | .mismatch => (s.suspend c).cancelFor c .mismatch
  | .idle => s.triggerPass
  | .detached => s
  | .busy => s
  | .reserved => s
  | .outOfService => s

/-- The cell state derived anew (R32); when it differs from the state before, it is recorded with one CELL_STATE record
and has the effects of the state entered (R33). -/
def State.deriveCell (c : CellNo) (cause : CellCause) (s : State) : State :=
  let before := (s.cell c).state
  let after := s.derivedState c
  if after = before then s
  else
    ((s.modCell c fun x => { x with state := after }).report (.cellState c before after cause)).enterCellState c after

/-- The cancellation of a reserved lot's entry for a hold or quarantine (R109, R130): as above, then the cell's state is
derived anew. -/
def State.cancelOfLot (l : LotSlot) (cause : CancelCause) (s : State) : State :=
  match s.reservationOfLot l with
  | none => s
  | some r => (s.cancelEntry cause r).deriveCell r.cell .reservation

end Sys2Proof.Machine
end

