-- ==== Sys2Proof/Machine/Insertions.lean ====
section
/-! DEFINITION. Chapter 4 up to the run: starting an insertion, pausing and resuming, abandonment, the abort request, and
the orders END_RUN, PAUSE_CELL and RESUME_CELL. -/

namespace Sys2Proof.Machine

/-! ## Starting an insertion (R62) -/

/-- Sites 1 to e as a mask (R62). -/
def sitesUpTo (e : Nat) : BitVec 8 := BitVec.ofNat 8 (2 ^ e - 1)

/-- The site count a cell reports, 0 without an identity. -/
def Cell.siteCount (x : Cell) : Nat := (x.reported.map Identity.siteCount).getD 0

/-- The kit code a cell reports. -/
def Cell.kitCode (x : Cell) : Option Nat := x.reported.map Identity.kitCode

/-- The LOAD command of an insertion (R61). -/
def State.loadCommand (s : State) (i : Insertion) : Command :=
  let r := s.recipe i.recipe
  .load r.programId r.temp i.siteMask i.expected ((s.lot i.lot).map Lot.lotNumber |>.getD (Vector.replicate 16 0))

/-- The insertion record as R62 fills it, before its command is requested. DESIGN CHOICE (log entry 37): the timers that the
first state does not use, which R62 and R63 give no value, are held at 7200 s, 30 s and 0. -/
def freshInsertion (l : LotSlot) (x : Lot) (r : Recipe) (cell : Cell) (set : LimitSet) : Insertion :=
  let st := x.step x.current
  { lot := l, step := x.current, runIndex := st.runs.length + 1, recipe := st.recipe,
    siteMask := sitesUpTo (min cell.siteCount r.maxSites), expected := st.remainder,
    unitsTested := 0, unitsSeen := 0, runGap := 0, runBins := Vector.replicate 16 0,
    siteTested := Vector.replicate 8 0, sitePassed := Vector.replicate 8 0, siteFailRun := Vector.replicate 8 0,
    retestsUsed := 0, quantityHold := false, downCounter := set.interval, armed := Vector.replicate 8 true,
    loadTag := cell.slot.tag, lastIndex := none, sampleVoid := false, firstSample := false, stalls := 0,
    pause := { hold := none, lineStop := none, cellOrder := none }, abortRequested := false,
    state := if cell.kitCode = some r.kitCode then .loading else .kitWait, before := none, resyncPending := false,
    kitTimer := Config.kitSeconds, loadTimer := Config.loadSeconds, soakTimer := 0, soakStarted := false }

/-- The Insertion Engine starts an insertion of a lot's current step on a cell (R62): the record, its command, the lot
IN_TEST, the cell BUSY, and INSERTION_EVENT ASSIGNED, in the order of R125. (No rule starts one for a free
slot; the cell's state is then derived all the same.) -/
def State.startInsertion (l : LotSlot) (c : CellNo) (s : State) : State :=
  match s.lot l with
  | none => s.deriveCell c .insertion
  | some x =>
    let r := s.recipe (x.step x.current).recipe
    let i := freshInsertion l x r (s.cell c) (s.limitSet (x.step x.current).limitSet)
    let s := s.setInsertion c (some i)
    let s := s.request c (if i.state = .kitWait then .kitRequest r.kitCode else s.loadCommand i)
    let s := (s.setLotState l .inTest).deriveCell c .insertion
    s.report (.insertionEvent c l none (some i.state) .assigned)

/-! ## Pausing and resuming (R66 to R68) -/

/-- The halt kind of a set: HALT_NOW when any reason asks for it, HALT_AT_INDEX when the set is not empty and none does. -/
def PauseSet.halt (p : PauseSet) : Option HaltKind :=
  if p.hold = some .haltNow ∨ p.lineStop = some .haltNow ∨ p.cellOrder = some .haltNow then some .haltNow
  else if p.hold.isSome ∨ p.lineStop.isSome ∨ p.cellOrder.isSome then some .haltAtIndex
  else none

/-- The command of a halt kind. -/
def HaltKind.command : HaltKind → Command
  | .haltAtIndex => .haltAtIndex
  | .haltNow => .haltNow

/-- The command of a pausing or paused insertion: its set's halt kind, or GO when the set is empty (R61, R68). -/
def PauseSet.command (p : PauseSet) : Command :=
  match p.halt with
  | some k => k.command
  | none => .go

/-- The desired command is GO: a resume is in progress (R67, R68). -/
def Cell.goDesired (x : Cell) : Bool := x.slot.desired = some .go

/-- A request of R66 on the pause-reason set of a cell's insertion. A request that changes the set sets sample void and
acts by the state (R67, R68); in the other states the command stays as R61 gives it. -/
def State.pauseRequest (c : CellNo) (f : PauseSet → PauseSet) (s : State) : State :=
  match s.insertion c with
  | none => s
  | some i =>
    let p := f i.pause
    if p = i.pause then s
    else
      let goDesired := (s.cell c).goDesired
      let s := s.modInsertion c fun i => { i with pause := p, sampleVoid := true }
      match i.state with
      | .running => if p.halt.isSome then (s.setInsState c .pausing .pause).request c p.command else s
      | .pausing => s.request c p.command
      | .paused =>
        if p.halt.isSome && goDesired then (s.setInsState c .pausing .pause).request c p.command
        else s.request c p.command
      | _ => s

/-- PAUSING or PAUSED on a delivered STATUS, the set being asked for by the desired command: HALTED ends PAUSING (R67), GO
applied with the handler INDEXING or IDLE ends a resume (R68). -/
def State.readPause (c : CellNo) (h : HandlerState) (f : StatusFrame) (s : State) : State :=
  match s.insertion c with
  | none => s
  | some i =>
    if (s.cell c).goDesired then
      if CommandKind.ofStatus? f.lastKind.toNat = some (some .go) ∧ f.lastTag = i.loadTag ∧
          (h = .indexing ∨ h = .idle) then
        s.setInsState c .running .resumed
      else s
    else if i.state = .pausing ∧ h = .halted then s.setInsState c .paused .halted
    else s

/-! ## Clearing, abandonment and abort (R30, R56, R65, R79) -/

/-- The insertion record cleared, and the desired command of the cell's slot with it (R56). -/
def State.clearInsertion (c : CellNo) (s : State) : State :=
  (s.setInsertion c none).modCell c fun x => { x with slot := { x.slot with desired := none } }

/-- The load-failure count raised, to at most 3, and the service flag cleared when it reaches 3 (R30). -/
def Cell.loadFailed (x : Cell) : Cell :=
  let n := min (x.loadFailures + 1) Config.loadFailureLimit
  { x with loadFailures := n, service := if n = Config.loadFailureLimit then false else x.service }

/-- An insertion's lot returns to QUEUED, unless it is SCRAPPED (R65, R77, R83, R114). -/
def State.returnLot (l : LotSlot) (s : State) : State :=
  match s.lot l with
  | none => s
  | some x => if x.state = .scrapped then s else s.setLotState l .queued

/-- An insertion abandoned before its load succeeds (R65): the record cleared, the lot QUEUED, the load failure of an
expired timer with LOAD_FAILED or else INSERTION_EVENT ABANDONED, and the cell's state derived once. -/
def State.abandon (c : CellNo) (timer : Option FailedTimer) (s : State) : State :=
  match s.insertion c with
  | none => s
  | some i =>
    let s := (s.clearInsertion c).returnLot i.lot
    match timer with
    | some t =>
      let s := s.modCell c Cell.loadFailed
      let n := (s.cell c).loadFailures
      (s.report (.loadFailed c i.lot t n)).deriveCell c
        (if n = Config.loadFailureLimit then .loadFailures else .insertion)
    | none => (s.report (.insertionEvent c i.lot (some i.state) none .abandoned)).deriveCell c .insertion

/-- FINISH, or ABORT when abort requested is set (R61, R74). -/
def Insertion.endCommand (i : Insertion) : Command := if i.abortRequested then .abort else .finish

/-- The abort request of a SCRAP (R79). DEDUCED (log entry 36): in SUSPENDED too the command becomes ABORT, which R114
step 5 says stays, and which R61 gives for the state before suspension that the request sets. -/
def State.abortRequest (c : CellNo) (s : State) : State :=
  match s.insertion c with
  | none => s
  | some i =>
    match i.takenBy with
    | .kitWait => s.abandon c none
    | .loading => s.abandon c none
    | _ =>
      let s := s.modInsertion c fun i => { i with abortRequested := true }
      if i.state = .suspended then (s.modInsertion c fun i => { i with before := some .ending }).request c .abort
      else if i.state = .ending then s.request c .abort
      else (s.setInsState c .ending .abort).request c .abort

/-! ## END_RUN, PAUSE_CELL, RESUME_CELL (R74, R84) -/

/-- A cell number, then a present insertion record: BAD_ARG, NOT_FOUND, or the order acts (R74, R84). -/
def withInsertion (cell : Byte) (act : CellNo → Insertion → State → Acted) (s : State) : Acted :=
  match ofNumber? 48 cell.toNat with
  | none => refuse .badArg s
  | some c =>
    match s.insertion c with
    | none => refuse .notFound s
    | some i => act c i s

/-- END_RUN (R74). DESIGN CHOICE (log entry 36): in SUSPENDED it leaves the command as it stands. -/
def actEndRun (cell : Byte) (s : State) : Acted :=
  withInsertion cell (fun c i s =>
    match i.takenBy with
    | .kitWait => doneOrder (s.abandon c none)
    | .loading => doneOrder (s.abandon c none)
    | _ =>
      (if i.state = .suspended then s.modInsertion c fun i => { i with before := some .ending }
       else if i.state = .ending then s
       else (s.setInsState c .ending .endRun).request c i.endCommand,
       Answer.plain .accepted)) s

/-- PAUSE_CELL: adds CELL_ORDER with HALT_AT_INDEX (R84). -/
def actPauseCell (cell : Byte) (s : State) : Acted :=
  withInsertion cell (fun c _ s =>
    doneOrder (s.pauseRequest c fun p => { p with cellOrder := some .haltAtIndex })) s

/-- RESUME_CELL: removes CELL_ORDER (R84). -/
def actResumeCell (cell : Byte) (s : State) : Acted :=
  withInsertion cell (fun c _ s => doneOrder (s.pauseRequest c fun p => { p with cellOrder := none })) s

end Sys2Proof.Machine
end

