-- ==== Sys2Proof/Machine/Shipments.lean ====
section
/-! DEFINITION. Chapter 8, the Release Unit: membership, readiness, release, auto-release, and the orders on ship
orders. -/

namespace Sys2Proof.Machine

/-! ## Readiness (R136) -/

/-- The lot is held (R102). -/
def Lot.held (x : Lot) : Bool := !x.holds.isEmpty || x.quarantined

/-- The lot is ready for release (R136). -/
def Lot.releaseReady (x : Lot) : Bool :=
  x.state = .complete && !x.empty && !x.held && x.steps.all fun st => st.gap = 0

/-- A lot slot holds a lot that is ready for release. -/
def State.readyAt (s : State) (l : LotSlot) : Bool :=
  match s.lot l with
  | none => false
  | some x => x.releaseReady

/-! ## Membership (R135) -/

/-- The end of a membership in an OPEN order (R135): the lot leaves the list where it stands, its ship-order field becomes
absent, and one SHIP_MEMBER_REMOVED record is written. -/
def State.removeMember (n : ShipNo) (l : LotSlot) (cause : RemovalCause) (s : State) : State :=
  match s.ship n with
  | none => s
  | some o =>
    let left := o.lots.erase l
    ((s.modShip n fun o => { o with lots := left }).modLot l fun x => { x with ship := none }).report
      (.shipMemberRemoved l n cause o.kind left.length)

/-! ## Release (R144, R145) -/

/-- A step's bin counts outside a pass set (Table 8-3). -/
def LotStep.failTotal (pass : BitVec 16) (st : LotStep) : Nat := maskSum (~~~ pass).toNat 0 st.bins.toList

/-- The content of a lot's RELEASE record (Table 8-3). -/
def State.releaseContent (s : State) (n : ShipNo) (o : Ship) (x : Lot) : ReleaseContent :=
  let last := x.step x.steps.length
  let pass := passSetOf s.lm.recipes last.recipe
  { lotNumber := x.lotNumber, ship := n, customer := o.customer, passSet := pass, bins := last.bins,
    released := last.gradeTotal pass, start := x.startQuantity,
    totalFail := (x.steps.map fun st => st.failTotal (passSetOf s.lm.recipes st.recipe)).sum,
    totalLoss := (x.steps.map LotStep.loss).sum, deviation := x.deviation, stepCount := x.steps.length }

/-- One member released: its RELEASE record, then the lot RELEASED with its LOT_STATE record (R144 step 1). -/
def State.releaseMember (n : ShipNo) (o : Ship) (s : State) (l : LotSlot) : State :=
  match s.lot l with
  | none => s
  | some x => (s.report (.release l (s.releaseContent n o x))).setLotState l .released

/-- The members' lot records, in list order. -/
def State.members (s : State) (o : Ship) : List Lot := o.lots.filterMap fun l => s.lot l

/-- A release of a ship order (R144, R145). -/
def State.releaseOrder (n : ShipNo) (manner : ReleaseManner) (takenOut : Nat) (s : State) : State :=
  match s.ship n with
  | none => s
  | some o =>
    let contents := (s.members o).map fun x => s.releaseContent n o x
    let s := o.lots.foldl (State.releaseMember n o) s
    let s := s.modShip n fun o => { o with state := .released, releasedSecond := some s.ft.clock }
    s.report (.shipReleased n o.kind o.customer manner o.lots.length takenOut
      (contents.map ReleaseContent.released).sum (contents.map ReleaseContent.start).sum)

/-- The condition of auto-release (R146): OPEN, the flag set, at least one lot, every member ready. -/
def State.autoReady (s : State) (o : Ship) : Bool :=
  o.state = .opened && o.auto && !o.lots.isEmpty && o.lots.all s.readyAt

/-- An examination of an order for auto-release (R146). -/
def State.examineAuto (n : ShipNo) (s : State) : State :=
  match s.ship n with
  | none => s
  | some o => if s.autoReady o then s.releaseOrder n .auto 0 else s

/-- A readiness notice for a lot (R137): a lot that is ready and belongs to an order has that order examined. -/
def State.notice (l : LotSlot) (s : State) : State :=
  match s.lot l with
  | none => s
  | some x =>
    match x.ship with
    | none => s
    | some n => if x.releaseReady then s.examineAuto n else s

/-- The order was released by an examination: the detail 1 of R139 and R140, else 0. -/
def State.releasedFlag (n : ShipNo) (s : State) : Nat :=
  match s.ship n with
  | none => 0
  | some o => if o.state = .released then 1 else 0

/-! ## Orders (R138 to R143) -/

/-- OPEN_SHIP (R138). DEDUCED (log entry 25): an auto-release flag byte other than 0 is set. -/
def actOpenShip (kind : Byte) (customer : Word) (auto : Byte) (s : State) : Acted :=
  match ShipKind.ofCode? kind.toNat with
  | none => refuse .badArg s
  | some k =>
    match firstFree s.ships with
    | none => refuse .noRoom s
    | some n =>
      (s.setShip n (some { customer := customer, kind := k, auto := auto ≠ 0, state := .opened, lots := [],
                           releasedSecond := none }),
       Answer.withDetail .done (number n))

/-- ADD_TO_SHIP (R139). -/
def actAddToShip (ship : Byte) (lot : Half) (s : State) : Acted :=
  match ofNumber? 32 ship.toNat, ofIndex? 512 lot.toNat with
  | some n, some l =>
    match s.ship n with
    | none => refuseWith .notFound 0 s
    | some o =>
      match s.lot l with
      | none => refuseWith .notFound 0 s
      | some x =>
        if o.state = .released then refuseWith .wrongState 0 s
        else if x.state = .scrapped ∨ x.state = .released ∨ x.empty = true then
          refuseWith .wrongState x.state.code s
        else match x.ship with
        | some m => refuseWith .inUse (number m) s
        | none =>
          if Config.shipLots ≤ o.lots.length then refuseWith .noRoom 0 s
          else if x.deviation = true ∧ o.kind = .normal then refuseWith .deviation 0 s
          else
            let s := (s.modShip n fun o => { o with lots := o.lots ++ [l] }).modLot l fun x => { x with ship := some n }
            let s := s.examineAuto n
            (s, Answer.withDetail .done (s.releasedFlag n))
  | _, _ => refuseWith .badArg 0 s

/-- REMOVE_FROM_SHIP (R140). DESIGN CHOICE (log entry 8): "In that case the outcome detail is 1, and otherwise 0" is read
of an order answered DONE; R140 states no detail for a refusal, whose detail stays a free value. -/
def actRemoveFromShip (ship : Byte) (lot : Half) (s : State) : Acted :=
  match ofNumber? 32 ship.toNat, ofIndex? 512 lot.toNat with
  | some n, some l =>
    match s.ship n with
    | none => refuse .notFound s
    | some o =>
      if o.state = .released then refuse .wrongState s
      else if l ∉ o.lots then refuse .notFound s
      else
        let s := (s.removeMember n l .removed).examineAuto n
        (s, Answer.withDetail .done (s.releasedFlag n))
  | _, _ => refuse .badArg s

/-- CANCEL_SHIP (R141). -/
def actCancelShip (ship : Byte) (s : State) : Acted :=
  match ofNumber? 32 ship.toNat with
  | none => refuse .badArg s
  | some n =>
    match s.ship n with
    | none => refuse .notFound s
    | some o =>
      if o.state = .released then refuse .wrongState s
      else
        ((o.lots.foldl (fun s l => s.removeMember n l .cancelled) s).setShip n none,
         Answer.withDetail .done o.lots.length)

/-- RELEASE_SHIP (R143). -/
def actReleaseShip (ship : Byte) (mode : Byte) (s : State) : Acted :=
  match ofNumber? 32 ship.toNat, ReleaseManner.ofCode? mode.toNat with
  | some n, some manner =>
    match s.ship n with
    | none => refuseWith .notFound 0 s
    | some o =>
      if o.state = .released then refuseWith .wrongState 0 s
      else match o.lots with
      | [] => refuseWith .notReady 512 s
      | first :: _ =>
        let unready := o.lots.filter fun l => !s.readyAt l
        if manner = .readyOnly then
          if unready.length = o.lots.length then refuseWith .notReady first.val s
          else
            let s := unready.foldl (fun s l => s.removeMember n l .notReady) s
            (s.releaseOrder n .readyOnly unready.length, Answer.withDetail .done (o.lots.length - unready.length))
        else match unready with
        | l :: _ => refuseWith .notReady l.val s
        | [] => (s.releaseOrder n manner 0, Answer.withDetail .done o.lots.length)
  | _, _ => refuseWith .badArg 0 s

end Sys2Proof.Machine
end

