-- ==== Sys2Proof/Machine/Holds.lean ====
section
/-! DEFINITION. Chapter 6, the Hold Manager: hold requests, quarantine, the HOLD pause reason, scrap and downgrade, and
the orders on holds. -/

namespace Sys2Proof.Machine

/-! ## The hold table (R100 to R102) -/

/-- The record that bears an id (R101). -/
def State.hold? (id : Nat) (s : State) : Option Hold := s.hm.holds.find? fun h => h.id = id

/-- The hold records of a lot, in hold-list order (R102). -/
def State.holdsOf (x : Lot) (s : State) : List Hold := x.holds.filterMap fun id => s.hold? id

/-- One more than an id, wrapping from 65535 to 1 (R101). -/
def nextHoldId (n : Nat) : Nat := if 65535 ≤ n then 1 else n + 1

/-- The id allotted: the first of the following values that no record bears (R101). With at most 255 other records, a
free value is met within 256. -/
def allotHoldId (holds : List Hold) : Nat → Nat → Nat
  | 0, last => nextHoldId last
  | fuel + 1, last =>
    if holds.any fun h => h.id = nextHoldId last then allotHoldId holds fuel (nextHoldId last) else nextHoldId last

/-! ## The HOLD pause reason (R108) -/

/-- The HOLD reason a lot calls for: HALT_NOW with a STOP_NOW hold or quarantine, HALT_AT_INDEX with a STOP_END hold,
none otherwise (R66, R108). -/
def State.holdReason (x : Lot) (s : State) : Option HaltKind :=
  let hs := s.holdsOf x
  if x.quarantined || hs.any fun h => h.holdClass = .stopNow then some .haltNow
  else if hs.any fun h => h.holdClass = .stopEnd then some .haltAtIndex
  else none

/-- The HOLD reason of a lot's insertion kept in step with the lot's holds and quarantine (R108). -/
def State.syncHold (l : LotSlot) (s : State) : State :=
  match s.lot l, s.insertionOf l with
  | some x, some c => s.pauseRequest c fun p => { p with hold := s.holdReason x }
  | _, _ => s

/-! ## Quarantine (R107) -/

/-- A quarantine (R107): the flag, the QUARANTINE record with action SET, the HOLD reason, and the reservation; discarded
for a lot that is SCRAPPED or RELEASED and for a free slot (R103). -/
def State.quarantine (l : LotSlot) (content : QuarantineMatter) (s : State) : State :=
  match s.lot l with
  | none => s
  | some x =>
    if x.state = .scrapped ∨ x.state = .released then s
    else
      let s := s.modLot l fun x => { x with quarantined := true }
      ((s.report (.quarantine l x.current content)).syncHold l).cancelOfLot l .quarantine

/-! ## Hold requests (R103 to R106) -/

/-- The OPEN LIMIT record of the same set and entry position that makes a request escalate (R104). -/
def State.escalates (x : Lot) (r : HoldRequest) (s : State) : Option Hold :=
  if r.origin = .limit then
    (s.holdsOf x).find? fun h =>
      h.origin = .limit && h.state = .opened &&
        h.limit.map (fun d => (d.set, d.position)) = r.limit.map fun d => (d.set, d.position)
  else none

/-- A hold made (R106): the record and its id, HOLD_RAISED, then the pause reason and the reservation. -/
def State.makeHold (l : LotSlot) (x : Lot) (r : HoldRequest) (s : State) : State × Nat :=
  let id := allotHoldId s.hm.holds Config.holdRecords s.hm.lastId
  let h : Hold :=
    { id := id, lot := l, step := x.current, origin := r.origin, limit := r.limit, reason := r.reason,
      holdClass := r.holdClass, cell := r.cell, raisedSecond := s.ft.clock, state := .opened }
  let s := { s with hm := { holds := s.hm.holds ++ [h], lastId := id } }
  let s := s.modLot l fun x => { x with holds := x.holds ++ [id] }
  (((s.report (.holdRaised l id x.current r)).syncHold l).cancelOfLot l .hold, id)

/-- A hold request taken by the first case of Table 6-2; the number is the new hold's id, 0 without one (R103 to R106,
R110). -/
def State.holdRequest (l : LotSlot) (r : HoldRequest) (s : State) : State × Nat :=
  match s.lot l with
  | none => (s, 0)
  | some x =>
    if x.state = .scrapped ∨ x.state = .released then (s, 0)
    else match s.escalates x r with
    | some h => (s.quarantine l (.escalation h.id r), 0)
    | none =>
      if Config.lotHolds ≤ x.holds.length then (s.quarantine l (.lotListFull r), 0)
      else if Config.holdRecords ≤ s.hm.holds.length then (s.quarantine l (.tableFull r), 0)
      else s.makeHold l x r

/-- A request of the Insertion Engine, which names the insertion's cell (R103). -/
def State.engineHold (l : LotSlot) (c : CellNo) (origin : HoldOrigin) (k : HoldClass) (s : State) : State :=
  (s.holdRequest l { origin := origin, limit := none, reason := none, holdClass := k, cell := some c }).1

/-- The Lot Manager's request for a step exhausted by a run close (R7): quarantine with cause EXHAUSTED (R107). -/
def State.quarantineExhausted (l : LotSlot) (s : State) : State :=
  match s.lot l with
  | none => s
  | some x => if (x.step x.current).exhausted then s.quarantine l (.exhausted Config.stepRuns) else s

/-! ## Deletion of holds (R112, R114, R115) -/

/-- A hold record deleted and its id removed from its lot's list, with HOLD_CLEARED (R102, R112). -/
def State.clearHold (d : Disposition) (s : State) (h : Hold) : State :=
  let s := { s with hm := { s.hm with holds := s.hm.holds.filter fun g => g.id ≠ h.id } }
  (s.modLot h.lot fun x => { x with holds := x.holds.erase h.id }).report
    (.holdCleared h.lot h.id h.origin h.holdClass d)

/-- Every hold of a lot deleted in hold-list order, then the quarantine cleared with its record (R114 steps 1 and 2, R115
steps 1 and 2). -/
def State.clearHolds (l : LotSlot) (x : Lot) (d : Disposition) (s : State) : State :=
  let s := (s.holdsOf x).foldl (State.clearHold d) s
  if x.quarantined then
    (s.modLot l fun x => { x with quarantined := false }).report (.quarantine l x.current (.cleared d))
  else s

/-- A lot that belongs to an OPEN order leaves it, when its kind asks for it (R142). -/
def State.expel (l : LotSlot) (x : Lot) (cause : RemovalCause) (leaves : Ship → Bool) (s : State) : State :=
  match x.ship with
  | none => s
  | some n =>
    match s.ship n with
    | none => s
    | some o => if o.state = .opened && leaves o then s.removeMember n l cause else s

/-- The order a lot belonged to before an expulsion took it out, examined for auto-release (R142, R146). -/
def State.examineFormer (l : LotSlot) (x : Lot) (s : State) : State :=
  match x.ship with
  | none => s
  | some n =>
    match s.ship n with
    | none => s
    | some o => if l ∈ o.lots then s else s.examineAuto n

/-- A lot is scrapped (R114). -/
def State.scrap (l : LotSlot) (s : State) : State :=
  match s.lot l with
  | none => s
  | some x =>
    let s := (s.clearHolds l x .scrap).setLotState l .scrapped
    let s := match s.insertionOf l with
      | none => s
      | some c => s.abortRequest c
    let s := s.syncHold l
    ((s.expel l x .scrapped fun _ => true).triggerPass).examineFormer l x

/-- A lot is downgraded (R115). -/
def State.downgrade (l : LotSlot) (s : State) : State :=
  match s.lot l with
  | none => s
  | some x =>
    let s := s.clearHolds l x .downgrade
    let s := s.modLot l fun x => { x with deviation := true }
    let s := s.expel l x .downgraded fun o => o.kind = .normal
    let st := x.step x.current
    let s :=
      if st.exhausted then (s.changeStep l x.current LotStep.remainderToLoss).closeStep l
      else if x.state = .queued ∧ x.closable = true then s.closeStep l
      else s
    let s := (s.syncHold l).triggerPass
    (s.notice l).examineFormer l x

/-! ## Orders (R110 to R115) -/

/-- PLACE_HOLD (R110): the cell named is that of the lot's insertion or reservation when one exists (R103). -/
def actPlaceHold (lot : Half) (holdClass : Byte) (reason : Half) (s : State) : Acted :=
  match HoldClass.ofCode? holdClass.toNat with
  | none => refuse .badArg s
  | some k =>
    match ofIndex? 512 lot.toNat with
    | none => refuse .notFound s
    | some l =>
      match s.lot l with
      | none => refuse .notFound s
      | some x =>
        if x.state = .released ∨ x.state = .scrapped then refuse .wrongState s
        else
          let cell := (s.insertionOf l).orElse fun _ => (s.reservationOfLot l).map Reservation.cell
          let r : HoldRequest :=
            { origin := .manual, limit := none, reason := some reason.toNat, holdClass := k, cell := cell }
          let (s, id) := s.holdRequest l r
          (s, Answer.withDetail .done id)

/-- ACK_HOLD (R111). -/
def actAckHold (hold : Half) (s : State) : Acted :=
  if hold = 0 then refuse .badArg s
  else match s.hold? hold.toNat with
  | none => refuse .notFound s
  | some h =>
    if h.state = .acknowledged then refuse .wrongState s
    else
      let holds := s.hm.holds.map fun g => if g.id = h.id then { g with state := .acknowledged } else g
      doneOrder { s with hm := { s.hm with holds := holds } }

/-- The CONTINUE of a hold of origin RECONCILE (R113): the gap of the step the hold names becomes loss, and the lot's
current step closes when that leaves it accounted for. -/
def State.convertGap (h : Hold) (s : State) : State :=
  let s := s.changeStep h.lot h.step LotStep.gapToLoss
  match s.lot h.lot with
  | none => s
  | some x => if x.current = h.step ∧ x.closable = true then s.closeStep h.lot else s

/-- The CONTINUE of a hold (R112). -/
def State.continueHold (h : Hold) (s : State) : State :=
  let s := s.clearHold .continue h
  let s := if h.origin = .reconcile then s.convertGap h else s
  ((s.syncHold h.lot).triggerPass).notice h.lot

/-- DISPOSE (R112). -/
def actDispose (hold : Half) (disposition : Byte) (s : State) : Acted :=
  match Disposition.ofHoldCode? disposition.toNat with
  | none => refuse .badArg s
  | some d =>
    if hold = 0 then refuse .badArg s
    else match s.hold? hold.toNat with
    | none => refuse .notFound s
    | some h =>
      if h.state = .opened then refuse .wrongState s
      else if d = .continue then
        if ((s.lot h.lot).map Lot.quarantined).getD false then refuse .quarantined s
        else doneOrder (s.continueHold h)
      else doneOrder (s.scrap h.lot)

/-- DISPOSE_LOT (R115). -/
def actDisposeLot (lot : Half) (disposition : Byte) (s : State) : Acted :=
  match Disposition.ofLotCode? disposition.toNat with
  | none => refuseWith .badArg 0 s
  | some d =>
    match ofIndex? 512 lot.toNat with
    | none => refuseWith .notFound 0 s
    | some l =>
      match s.lot l with
      | none => refuseWith .notFound 0 s
      | some x =>
        if !x.quarantined then refuseWith .wrongState 0 s
        else match (s.holdsOf x).find? fun h => h.state = .opened with
        | some h => refuseWith .wrongState h.id s
        | none => (if d = .scrap then s.scrap l else s.downgrade l, Answer.withDetail .done 0)

end Sys2Proof.Machine
end

