-- ==== Sys2Proof/Machine/Limits.lean ====
section
/-! DEFINITION. Chapter 5, the Limit Monitor: metrics, evaluations, trips and re-arming, and the orders on limit sets. -/

namespace Sys2Proof.Machine

/-! ## Metrics (R89 to R91) -/

/-- T, the step's first-pass tested count: the units tested of every run listed (R89). -/
def LotStep.tested (st : LotStep) : Nat := (st.runs.map Run.unitsTested).sum

/-- A fraction in ppm, rounded down, at most 1,000,000 (R89). -/
def ppm (part whole : Nat) : Nat := min 1000000 (part * 1000000 / whole)

/-- The sites of an insertion's site mask. -/
def Insertion.sites (i : Insertion) : List Site := (List.finRange 8).filter fun k => i.siteMask.getLsbD k.val

/-- The yields of the qualifying sites (R90). -/
def Insertion.yields (i : Insertion) (siteMin : Nat) : List Nat :=
  (i.sites.filter fun k => siteMin ≤ i.siteTested[k]).map fun k => i.sitePassed[k] * 1000000 / i.siteTested[k]

/-- SITE_SPREAD_PPM; no value with fewer than two qualifying sites (R90). -/
def Insertion.siteSpread (i : Insertion) (siteMin : Nat) : Option Nat :=
  let ys := i.yields siteMin
  if ys.length < 2 then none else some (ys.foldl max 0 - ys.foldl min 1000000)

/-- FAIL_RUN: the greatest site fail run of the enabled sites (R91). -/
def Insertion.failRun (i : Insertion) : Nat := (i.sites.map fun k => i.siteFailRun[k]).foldl max 0

/-- The value of a metric for an insertion and the step it works, with the step's pass set; none where the metric has no
value (R89 to R91). -/
def metricValue (set : LimitSet) (i : Insertion) (st : LotStep) (pass : BitVec 16) : Metric → Option Nat
  | .passPpm => some (ppm (st.gradeTotal pass) st.tested)
  | .binPpm b => some (ppm st.bins[b] st.tested)
  | .siteSpreadPpm => i.siteSpread set.siteMinUnits
  | .failRun => some i.failRun

/-! ## Trips and re-arming (R96, R97), in signed arithmetic -/

/-- The condition of an entry holds for a metric value (R96). -/
def LimitEntry.holdsFor (e : LimitEntry) (v : Nat) : Bool :=
  let v : Int := v
  let l1 : Int := e.level1
  let l2 : Int := e.level2
  match e.condition with
  | .aboveL1 => l1 < v
  | .belowL2 => v < l2
  | .inside => l2 < v && v < l1
  | .outside => l1 < v || v < l2

/-- A metric value clears an entry's condition by its re-arm band (R97). -/
def LimitEntry.clears (e : LimitEntry) (v : Nat) : Bool :=
  let v : Int := v
  let l1 : Int := e.level1
  let l2 : Int := e.level2
  let band : Int := e.band
  match e.condition with
  | .aboveL1 => v ≤ l1 - band
  | .belowL2 => l2 + band ≤ v
  | .inside => l1 + band ≤ v || v ≤ l2 - band
  | .outside => l2 + band ≤ v && v ≤ l1 - band

/-- An evaluation of a kind examines an entry (5.4). -/
def LimitEntry.examinedBy (e : LimitEntry) (kind : EvalKind) : Bool :=
  e.enabled && match kind with
    | .unit => e.metric = .failRun
    | .checkpoint => true
    | .final => e.metric ≠ .failRun

/-- The examination of one entry (R96, R97, R99): its outcome, the value carried, and its arm state afterwards. -/
def LimitEntry.examine (e : LimitEntry) (armed : Bool) (value : Option Nat) : EntryOutcome × Nat × Bool :=
  match value with
  | none => (.notEvaluated, 0, armed)
  | some v =>
    if armed then if e.holdsFor v then (.tripped, v, false) else (.noChange, v, true)
    else if e.clears v then (.reArmed, v, true) else (.noChange, v, false)

/-! ## Evaluations (R93 to R95, R98, R99) -/

/-- The examination of entry position p + 1 in an evaluation. -/
def examineAt (kind : EvalKind) (set : LimitSet) (i : Insertion) (st : LotStep) (pass : BitVec 16) (p : Fin 8) :
    EntryOutcome × Nat × Bool :=
  match set.entries[p.val]? with
  | none => (.notEvaluated, 0, i.armed[p])
  | some e =>
    if e.examinedBy kind then e.examine i.armed[p] (metricValue set i st pass e.metric)
    else (.notEvaluated, 0, i.armed[p])

/-- The hold request of a trip (R98). -/
def tripRequest (c : CellNo) (n : LimitNo) (t : Nat) (p : Fin 8) (v : Nat) (e : LimitEntry) : HoldRequest :=
  { origin := .limit,
    limit := some { set := n, position := number p, metric := e.metric, value := v, units := t },
    reason := none, holdClass := e.holdClass, cell := some c }

/-- One trip handed to the Hold Manager (R98). -/
def State.handTrip (l : LotSlot) (c : CellNo) (n : LimitNo) (set : LimitSet) (t : Nat)
    (results : Vector (EntryOutcome × Nat × Bool) 8) (s : State) (p : Fin 8) : State :=
  match set.entries[p.val]? with
  | none => s
  | some e => if results[p].1 = .tripped then (s.holdRequest l (tripRequest c n t p results[p].2.1 e)).1 else s

/-- One evaluation of an insertion's limit set (R93, R94): the arm states settled, the CHECKPOINT record where R99 calls for
one, then the trips in ascending entry position (R98). DEDUCED (log entry 43): a set with no entry, of which R85 says that its
insertions evaluate nothing, has the record that R99 writes always, with all eight positions NOT_EVALUATED. -/
def State.evaluate (kind : EvalKind) (c : CellNo) (s : State) : State :=
  match s.insertion c with
  | none => s
  | some i =>
    match s.lot i.lot with
    | none => s
    | some x =>
      let st := x.step i.step
      let set := s.limitSet st.limitSet
      let pass := passSetOf s.lm.recipes st.recipe
      let results : Vector (EntryOutcome × Nat × Bool) 8 := Vector.ofFn (examineAt kind set i st pass)
      let s := s.modInsertion c fun i => { i with armed := results.map fun r => r.2.2 }
      let s :=
        if kind = .unit && !(results.toList.any fun r => r.1 = .tripped || r.1 = .reArmed) then s
        else s.report (.checkpoint i.lot kind c (results.toList.map fun r => (r.1, r.2.1)))
      (List.finRange 8).foldl (State.handTrip i.lot c st.limitSet set st.tested results) s

/-- A counted first-pass unit handed to the Limit Monitor (R93): the down-counter lowered, and reloaded at 0, then a
CHECKPOINT or UNIT evaluation; none for a SCRAPPED lot (R95). -/
def State.monitorUnit (c : CellNo) (s : State) : State :=
  match s.insertion c with
  | none => s
  | some i =>
    match s.lot i.lot with
    | none => s
    | some x =>
      let st := x.step i.step
      let set := s.limitSet st.limitSet
      let due : Bool := i.downCounter - 1 = 0
      let s := s.modInsertion c fun i => { i with downCounter := if due then set.interval else i.downCounter - 1 }
      if x.state = .scrapped then s
      else s.evaluate (if due && set.minUnits ≤ st.tested then .checkpoint else .unit) c

/-- The final evaluation of a run (R94): made when T is at least 1. -/
def State.monitorClose (c : CellNo) (s : State) : State :=
  match s.insertion c with
  | none => s
  | some i =>
    match s.lot i.lot with
    | none => s
    | some x => if (x.step i.step).tested = 0 then s else s.evaluate .final c

/-! ## Orders (R86 to R88) -/

/-- An entry names a metric, a condition and a hold class, and a BIN_PPM entry a bin 1..16 (R86). -/
def entryNamed (a : EntryArgs) : Bool :=
  (Metric.ofCode? a.metric.toNat a.bin.toNat).isSome && (TripCondition.ofCode? a.condition.toNat).isSome &&
    (HoldClass.ofCode? a.holdClass.toNat).isSome

/-- An entry's levels and band lie in the range of its metric (R86). -/
def entryInRange (a : EntryArgs) : Bool :=
  match Metric.ofCode? a.metric.toNat a.bin.toNat with
  | none => false
  | some m => a.level1.toNat ≤ m.top && a.level2.toNat ≤ m.top && a.band.toNat ≤ m.top

/-- The entry that an entry's fields give (Table 5-2). DEDUCED (log entry 25): an enabled byte other than 0 is set. -/
def entryOfArgs (a : EntryArgs) : Option LimitEntry :=
  match Metric.ofCode? a.metric.toNat a.bin.toNat, TripCondition.ofCode? a.condition.toNat,
      HoldClass.ofCode? a.holdClass.toNat with
  | some m, some t, some k =>
    some { metric := m, level1 := a.level1.toNat, level2 := a.level2.toNat, condition := t, holdClass := k,
           band := a.band.toNat, enabled := a.enabled ≠ 0 }
  | _, _, _ => none

/-- The insertion of a cell uses a limit set (R85). -/
def State.usesSet (n : LimitNo) (i : Insertion) (s : State) : Bool :=
  match s.lot i.lot with
  | none => false
  | some x => (x.step i.step).limitSet = n

/-- The effect of a replacement on one insertion that uses the set (R87): every position ARMED, the down-counter brought
down to the new interval. -/
def Insertion.rearm (interval : Nat) (i : Insertion) : Insertion :=
  { i with armed := Vector.replicate 8 true, downCounter := min i.downCounter interval }

/-- Every insertion that uses a set re-armed (R87). -/
def State.rearmUsers (n : LimitNo) (interval : Nat) (s : State) : State :=
  { s with insertions := s.insertions.map fun o => o.map fun i => if s.usesSet n i then i.rearm interval else i }

/-- PUT_LIMIT_SET (R86, R87). -/
def actPutLimitSet (a : LimitSetArgs) (s : State) : Acted :=
  let given := a.entries.take a.entryCount.toNat
  match ofNumber? 64 a.number.toNat with
  | none => refuseWith .badArg 0 s
  | some n =>
    if a.minUnits = 0 ∨ a.siteMinUnits = 0 ∨ a.interval = 0 ∨ 2047 < a.interval.toNat ∨ 8 < a.entryCount.toNat then
      refuseWith .badArg 0 s
    else match firstBad entryNamed given with
    | some k => refuseWith .badArg k s
    | none =>
      match firstBad entryInRange given with
      | some k => refuseWith .badArg k s
      | none =>
        match firstBad (fun e => e.level2.toNat ≤ e.level1.toNat) given with
        | some k => refuseWith .badArg k s
        | none =>
          let set : LimitSet :=
            { minUnits := a.minUnits.toNat, interval := a.interval.toNat, siteMinUnits := a.siteMinUnits.toNat,
              entries := given.filterMap entryOfArgs }
          ((s.setLimitSet n (some set)).rearmUsers n set.interval, Answer.withDetail .done 0)

/-- Some step of some lot in the lot table names the limit set (R85). -/
def State.limitSetInUse (n : LimitNo) (s : State) : Bool :=
  s.lm.lots.toList.any fun o => match o with
    | none => false
    | some x => x.steps.any fun st => st.limitSet = n

/-- DROP_LIMIT_SET (R88). -/
def actDropLimitSet (limitSet : Byte) (s : State) : Acted :=
  match ofNumber? 64 limitSet.toNat with
  | none => refuse .badArg s
  | some n =>
    if (s.limitSet? n).isNone then refuse .notFound s
    else if s.limitSetInUse n then refuse .inUse s
    else doneOrder (s.setLimitSet n none)

end Sys2Proof.Machine
end

