-- ==== Sys2Proof/Machine/Runs.lean ====
section
/-! DEFINITION. Chapter 4 from the load on: SOAKING, STATUS, unit counting, retests, cycle time, the end of a run, resync,
and what the Insertion Engine does with an IDENT. -/

namespace Sys2Proof.Machine

/-- A frame discarded as a protocol error raises the cell's protocol-error count (R35, R69). -/
def State.protocolError (c : CellNo) (s : State) : State :=
  s.modCell c fun x => { x with protocolErrors := satInc x.protocolErrors }

/-! ## Load and soak (R7, R64, R65) -/

/-- The run entry of an insertion that reaches SOAKING, appended to its step's run list (R7); the cell's load-failure count
becomes 0 (R30). -/
def State.beginRun (c : CellNo) (i : Insertion) (s : State) : State :=
  let run : Run := { cell := c, startSecond := s.ft.clock, unitsTested := 0, endSecond := none, outcome := none }
  (s.changeStep i.lot i.step fun st => { st with runs := st.runs ++ [run] }).modCell c
    fun x => { x with loadFailures := 0 }

/-- This STATUS reports LOAD applied with the insertion's load tag (R64). -/
def Insertion.echoed (i : Insertion) (f : StatusFrame) : Bool :=
  CommandKind.ofStatus? f.lastKind.toNat = some (some .load) && f.lastTag = i.loadTag

/-- The soak timer's value when it starts: the recipe's soak minutes when the cell's last temperature class differs from
the recipe's, 0 when they are equal (R65). -/
def State.soakSeconds (c : CellNo) (i : Insertion) (s : State) : Nat :=
  let r := s.recipe i.recipe
  if (s.cell c).lastTemp = some r.temp then 0 else 60 * r.soakMinutes

/-- A STATUS read in SOAKING: the first that reports temperature reached starts the soak timer (R65). -/
def State.readSoaking (c : CellNo) (f : StatusFrame) (s : State) : State :=
  match s.insertion c with
  | none => s
  | some i =>
    if f.tempReached && !i.soakStarted then
      s.modInsertion c fun i => { i with soakStarted := true, soakTimer := s.soakSeconds c i }
    else s

/-- A JAMMED handler sets sample void, from SOAKING on (R72). -/
def State.readJam (c : CellNo) (h : HandlerState) (s : State) : State :=
  if h = .jammed then s.modInsertion c fun i => { i with sampleVoid := i.sampleVoid || i.state.hasRun } else s

/-- A STATUS as the rule of the insertion's state takes it (R64, R65, R67, R68, R72). -/
def State.readStatus (c : CellNo) (h : HandlerState) (f : StatusFrame) (s : State) : State :=
  match s.insertion c with
  | none => s
  | some i =>
    match i.state with
    | .loading =>
      if i.echoed f then
        (((s.setInsState c .soaking .loadEcho).beginRun c i).readSoaking c f).readJam c h
      else s
    | .soaking => (s.readSoaking c f).readJam c h
    | .running => s.readJam c h
    | .pausing => (s.readPause c h f).readJam c h
    | .paused => (s.readPause c h f).readJam c h
    | .ending => s.readJam c h
    | .kitWait => s
    | .suspended => s

/-! ## Quantity and gap (R70, R75, R82) -/

/-- A unit number above the expected quantity (R70): once in a run, a QUANTITY hold of class STOP_NOW. -/
def State.quantityExcess (c : CellNo) (s : State) : State :=
  match s.insertion c with
  | none => s
  | some i =>
    if i.quantityHold then s
    else (s.modInsertion c fun i => { i with quantityHold := true }).engineHold i.lot c .quantity .stopNow

/-- The tap's highest unit number h against units_seen (R75 step 1, R82 step 1): the units not seen become gap, up to the
expected quantity, and an h above it is R70's case. -/
def State.catchUp (c : CellNo) (h : Nat) (s : State) : State :=
  match s.insertion c with
  | none => s
  | some i =>
    if h ≤ i.unitsSeen then s
    else
      let seen := min h i.expected
      let n := seen - i.unitsSeen
      let s := s.modInsertion c fun i => { i with runGap := i.runGap + n, unitsSeen := seen }
      let s := s.changeStep i.lot i.step (LotStep.addGap n)
      if i.expected < h then s.quantityExcess c else s

/-! ## Resync (R82, Table 4-2) -/

/-- The restored insertion: the state before suspension taken away, resync pending cleared, INSERTION_EVENT RESTORE. -/
def State.restoreTo (c : CellNo) (new : InsState) (s : State) : State :=
  s.modInsertion c (fun i => { i with before := none, resyncPending := false }) |>.setInsState c new .restore

/-- A LOAD requested anew, with the load timer at 30 s (R64, Table 4-2). -/
def State.requestLoad (c : CellNo) (s : State) : State :=
  match s.insertion c with
  | none => s
  | some i => (s.modInsertion c fun i => { i with loadTimer := Config.loadSeconds }).request c (s.loadCommand i)

/-- The restore of Table 4-2 from a state before suspension. -/
def State.restore (c : CellNo) (f : StatusFrame) (s : State) : State :=
  match s.insertion c with
  | none => s
  | some i =>
    match i.before.getD .suspended with
    | .kitWait =>
      if (s.cell c).kitCode = some (s.recipe i.recipe).kitCode then (s.restoreTo c .loading).requestLoad c
      else (s.restoreTo c .kitWait).request c (.kitRequest (s.recipe i.recipe).kitCode)
    | .loading =>
      if i.echoed f then (s.restoreTo c .soaking).beginRun c i
      else (s.restoreTo c .loading).requestLoad c
    | .soaking => s.restoreTo c .soaking
    | .running =>
      if i.pause.halt.isSome then (s.restoreTo c .pausing).request c i.pause.command
      else (s.restoreTo c .running).request c .go
    | .pausing => (s.restoreTo c .pausing).request c i.pause.command
    | .paused => (s.restoreTo c .paused).request c i.pause.command
    | .ending => (s.restoreTo c .ending).request c i.endCommand
    | .suspended => s

/-- The first STATUS delivered while resync pending is set (R82): the gap of units not seen, the restore, then the rest of
the same STATUS. -/
def State.resync (c : CellNo) (h : HandlerState) (f : StatusFrame) (s : State) : State :=
  match s.insertion c with
  | none => s
  | some i =>
    let s := if i.takenBy.hasRun then s.catchUp c f.highest.toNat else s
    (s.restore c f).readStatus c h f

/-- A STATUS delivered to the Insertion Engine (R48): resync, or the rule of the state. -/
def State.deliverStatus (c : CellNo) (h : HandlerState) (f : StatusFrame) (s : State) : State :=
  match s.insertion c with
  | none => s
  | some i =>
    if i.state = .suspended then if i.resyncPending then s.resync c h f else s
    else s.readStatus c h f

/-! ## Units (R69, R71) -/

/-- The counts of the insertion for a counted unit n of a site and bin (R69 step 4). -/
def Insertion.countUnit (site : Site) (b : Bin) (n : Nat) (passed : Bool) (i : Insertion) : Insertion :=
  { i with
    runGap := i.runGap + (n - i.unitsSeen - 1)
    unitsSeen := n
    unitsTested := i.unitsTested + 1
    runBins := i.runBins.set b.val (i.runBins[b] + 1) b.isLt
    siteTested := i.siteTested.set site.val (i.siteTested[site] + 1) site.isLt
    sitePassed := if passed then i.sitePassed.set site.val (i.sitePassed[site] + 1) site.isLt else i.sitePassed
    siteFailRun := i.siteFailRun.set site.val (if passed then 0 else satInc i.siteFailRun[site]) site.isLt }

/-- The counts of the step for the same unit: the numbering gap, the bin, and the open run's units tested (R69, R7). -/
def LotStep.countInRun (b : Bin) (gap tested : Nat) (st : LotStep) : LotStep :=
  { (st.addGap gap).countUnit b with runs := modLastRun (fun r => { r with unitsTested := tested }) st.runs }

/-- A counted first-pass unit (R69 step 4), then the Limit Monitor. -/
def State.countUnit (c : CellNo) (i : Insertion) (site : Site) (b : Bin) (n : Nat) (s : State) : State :=
  let passed := (s.recipe i.recipe).passSet.getLsbD b.val
  let s := s.modInsertion c (Insertion.countUnit site b n passed)
  let s := s.changeStep i.lot i.step (LotStep.countInRun b (n - i.unitsSeen - 1) (i.unitsTested + 1))
  s.monitorUnit c

/-- A site number that lies in an insertion's site mask (R69, R71). -/
def Insertion.site? (i : Insertion) (site : Nat) : Option Site :=
  match ofNumber? 8 site with
  | none => none
  | some k => if i.siteMask.getLsbD k.val then some k else none

/-- A first-pass UNIT by the checks of R69 in order. -/
def State.takeUnit (c : CellNo) (site bin number : Nat) (s : State) : State :=
  match s.insertion c with
  | none => s
  | some i =>
    if !i.takenBy.hasRun then s.protocolError c
    else match i.site? site, ofNumber? 16 bin with
    | some k, some b =>
      if number = 0 then s.protocolError c
      else if number ≤ i.unitsSeen then s.protocolError c
      else if i.expected < number then s.quantityExcess c
      else s.countUnit c i k b number
    | _, _ => s.protocolError c

/-- A retest UNIT (R71): accepted, it moves one unit's result from its original bin; otherwise it is a protocol error. -/
def State.takeRetest (c : CellNo) (site bin original : Nat) (s : State) : State :=
  match s.insertion c with
  | none => s
  | some i =>
    if !i.takenBy.hasRun then s.protocolError c
    else match i.site? site, ofNumber? 16 bin, ofNumber? 16 original with
    | some _, some b, some o =>
      let r := s.recipe i.recipe
      if r.retestSet.getLsbD o.val ∧ 0 < i.runBins[o] ∧ i.retestsUsed < r.retestCap then
        let s := s.modInsertion c fun i => { i with runBins := moveOne o b i.runBins, retestsUsed := i.retestsUsed + 1 }
        s.changeStep i.lot i.step (LotStep.moveCount o b)
      else s.protocolError c
    | _, _, _ => s.protocolError c

/-- A UNIT frame by its unit kind: FIRST_PASS 0, RETEST 1, anything else a protocol error (R45, R69). -/
def State.takeUnitFrame (c : CellNo) (site bin kind number : Nat) (s : State) : State :=
  match kind with
  | 0 => s.takeUnit c site bin number
  | 1 => s.takeRetest c site bin number
  | _ => s.protocolError c

/-! ## Cycle time (R72, R73) -/

/-- The measured cycle time after a valid sample (R73). -/
def newMeasured (first differs : Bool) (m sample : Nat) : Nat :=
  if first && differs then sample else if m = 0 then sample else (7 * m + sample + 4) / 8

/-- A START_INDEX (R72): no sample, a void sample, a stall, or a valid sample; then the timestamp is taken. -/
def State.takeStartIndex (c : CellNo) (t : Word) (mask : BitVec 8) (s : State) : State :=
  match s.insertion c with
  | none => s
  | some i =>
    if !i.takenBy.hasRun then s.protocolError c
    else if mask &&& ~~~ i.siteMask ≠ 0 then s.protocolError c
    else
      let s :=
        match i.lastIndex with
        | none => s
        | some t1 =>
          let sample := clamp 1 60000 (t - t1).toNat
          if i.sampleVoid then s
          else if 4 * (s.recipe i.recipe).cycleTime < sample then
            (s.modInsertion c fun i => { i with stalls := satInc i.stalls }).changeStep i.lot i.step LotStep.addStall
          else
            (s.modCell c fun x =>
              { x with measured := newMeasured (!i.firstSample) (x.lastRecipe ≠ some i.recipe) x.measured sample
              }).modInsertion c fun i => { i with firstSample := true }
      s.modInsertion c fun i => { i with lastIndex := some t, sampleVoid := false }

/-! ## The end of a run (R75 to R79, R83) -/

/-- Adoption of the tap's totals, or the KF-740's own counts with a RECONCILE hold (R75 steps 2 and 3). -/
def State.reconcile (c : CellNo) (f : EndFrame) (s : State) : State :=
  match s.insertion c with
  | none => s
  | some i =>
    if (f.totals.toList.map BitVec.toNat).sum = i.unitsTested + i.runGap then
      let totals := f.totals.map BitVec.toNat
      (s.changeStep i.lot i.step (LotStep.adoptTotals i.runBins totals i.runGap)).modInsertion c
        fun i => { i with runBins := totals, runGap := 0 }
    else s.engineHold i.lot c .reconcile .soft

/-- The loss count taken (R76). DEDUCED (log entry 23): the step's room is its units_in minus its accounted quantity, so
that loss recorded by earlier runs is not counted twice. -/
def State.takeLoss (c : CellNo) (loss : Nat) (s : State) : State :=
  match s.insertion c with
  | none => s
  | some i =>
    match s.lot i.lot with
    | none => s
    | some x =>
      let accepted := min loss (x.step i.step).remainder
      let s := s.changeStep i.lot i.step (LotStep.addLoss accepted)
      if accepted < loss then s.engineHold i.lot c .quantity .soft else s

/-- The lot's record says SCRAPPED. -/
def State.scrappedAt (l : LotSlot) (s : State) : Bool :=
  match s.lot l with
  | none => true
  | some x => x.state = .scrapped

/-- The run entry closed: end second and outcome (R77 step 1). -/
def State.closeRun (i : Insertion) (outcome : RunOutcome) (s : State) : State :=
  s.changeStep i.lot i.step fun st =>
    { st with runs := modLastRun (fun r => { r with endSecond := some s.ft.clock, outcome := some outcome }) st.runs }

/-- The cell's last recipe and last temperature class (R31, R77 step 4). -/
def State.setHistory (c : CellNo) (i : Insertion) (s : State) : State :=
  s.modCell c fun x => { x with lastRecipe := some i.recipe, lastTemp := some (s.recipe i.recipe).temp }

/-- The end of a run close (R78): the record cleared, the cell's state derived, STEP_RESULT, and the readiness notice once
the whole action is complete (R137). -/
def State.finishClose (c : CellNo) (i : Insertion) (outcome : RunOutcome) (s : State) : State :=
  let st := ((s.lot i.lot).map fun x => x.step i.step).getD LotStep.blank
  let s := (s.clearInsertion c).deriveCell c .insertion
  (s.report (.stepResult i.lot c i.step i.runIndex outcome i.unitsTested st.gap st.loss st.accounted st.unitsIn)).notice
    i.lot

/-- The run closed CLOSED or SHORT (R77): the step closure with its LOSS hold, or the lot back to QUEUED with the
quarantine of an exhausted step (R7). DEDUCED (log entry 26): the LOSS hold names the insertion's cell. (No run is one of a
free slot's lot; its record is then cleared all the same.) -/
def State.settleRun (c : CellNo) (i : Insertion) (s : State) : State :=
  match s.lot i.lot with
  | none => (s.setHistory c i).finishClose c i .aborted
  | some x =>
    let st := x.step i.step
    if x.closable then
      let s := (s.closeRun i .closed).closeStep i.lot
      let s := if st.lossAllowance < st.loss then s.engineHold i.lot c .loss .soft else s
      (s.setHistory c i).finishClose c i .closed
    else
      (((s.closeRun i .short).returnLot i.lot).quarantineExhausted i.lot |>.setHistory c i).finishClose c i .short

/-- An END frame (R75 to R79). -/
def State.takeEnd (c : CellNo) (f : EndFrame) (s : State) : State :=
  match s.insertion c with
  | none => s
  | some i0 =>
    if !i0.takenBy.hasRun then s.protocolError c
    else
      let s := ((s.catchUp c f.highest.toNat).reconcile c f).takeLoss c f.loss.toNat
      match s.insertion c with
      | none => s
      | some i =>
        if s.scrappedAt i.lot then ((s.closeRun i .aborted).setHistory c i).finishClose c i .aborted
        else
          let s := s.monitorClose c
          match s.insertion c with
          | none => s
          | some i => s.settleRun c i

/-- A run aborted by a fresh tap (R83). -/
def State.freshAbort (c : CellNo) (i : Insertion) (s : State) : State :=
  let s := s.closeRun i .aborted
  let s :=
    if s.scrappedAt i.lot then s
    else ((s.engineHold i.lot c .reconcile .soft).returnLot i.lot).quarantineExhausted i.lot
  (s.setHistory c i).finishClose c i .aborted

/-! ## IDENT at the Insertion Engine (R64, R82, R83) -/

/-- An IDENT passed on by the Cell Manager (R24): a fresh tap aborts a run, a SUSPENDED insertion of a cell that is not
MISMATCH gets resync pending, and KIT_WAIT ends when the recipe's kit is reported. -/
def State.deliverIdent (c : CellNo) (fresh : Bool) (s : State) : State :=
  match s.insertion c with
  | none => s
  | some i =>
    if fresh && i.takenBy.hasRun then s.freshAbort c i
    else if i.state = .suspended then
      if (s.cell c).state = .mismatch then s else s.modInsertion c fun i => { i with resyncPending := true }
    else if i.state = .kitWait ∧ (s.cell c).kitCode = some (s.recipe i.recipe).kitCode then
      (s.setInsState c .loading .kitReady).requestLoad c
    else s

/-! ## Timer expiries (R63, R65) -/

/-- The kit timer expires: the insertion is abandoned with LOAD_FAILED (R65). -/
def State.kitExpiry (c : CellNo) (s : State) : State :=
  match s.insertion c with
  | none => s
  | some i => if i.state = .kitWait ∧ i.kitTimer = 0 then s.abandon c (some .kit) else s

/-- The load timer expires: the insertion is abandoned with LOAD_FAILED (R65). -/
def State.loadExpiry (c : CellNo) (s : State) : State :=
  match s.insertion c with
  | none => s
  | some i => if i.state = .loading ∧ i.loadTimer = 0 then s.abandon c (some .load) else s

/-- The LINE_STOP halt kind of a stop policy; none for EXEMPT (R66, Table 2-3). -/
def StopPolicy.halt : StopPolicy → Option HaltKind
  | .exempt => none
  | .endOfIndex => some .haltAtIndex
  | .immediate => some .haltNow

/-- The soak timer expires (R65): in LINE_STOP the reason of a cell that is not EXEMPT is added first; then RUNNING with
GO, or PAUSING with the set's halt kind. -/
def State.soakExpiry (c : CellNo) (s : State) : State :=
  match s.insertion c with
  | none => s
  | some i =>
    if i.state = .soaking ∧ i.soakStarted = true ∧ i.soakTimer = 0 then
      let s :=
        if s.ft.mode = .lineStop ∧ (s.cell c).policy ≠ .exempt then
          s.pauseRequest c fun p => { p with lineStop := (s.cell c).policy.halt }
        else s
      match s.insertion c with
      | none => s
      | some i =>
        if i.pause.halt.isSome then (s.setInsState c .pausing .soakDone).request c i.pause.command
        else (s.setInsState c .running .soakDone).request c .go
    else s

end Sys2Proof.Machine
end

