-- ==== Sys2Proof/Machine/Cells.lean ====
section
/-! DEFINITION. Chapter 2, the Cell Manager: mapping, identity, freeze, service and stop policy, link loss. -/

namespace Sys2Proof.Machine

/-! ## MAP_CELL and UNMAP_CELL (R22, R23) -/

/-- An insertion record bears the cell's number, or a reservation entry names the cell (R22, R23). -/
def State.cellTaken (c : CellNo) (s : State) : Bool := (s.insertion c).isSome || (s.reservationOf c).isSome

/-- Another cell mapped to a port and tap address (R22). -/
def State.otherAt (c : CellNo) (m : Mapping) (s : State) : Option CellNo :=
  allCells.find? fun d => d ≠ c && (s.cell d).mapping = some m

/-- The cell record as MAP_CELL leaves it (R22, R51, R56). -/
def Cell.mapTo (m : Mapping) (x : Cell) : Cell :=
  { x with mapping := some m, heard := false, reported := none, loadFailures := 0, crcErrors := 0, protocolErrors := 0,
           slot := x.slot.clear, silence := 0 }

/-- The cell record as UNMAP_CELL leaves it (R23, R51, R56). -/
def Cell.unmap (x : Cell) : Cell :=
  { x with mapping := none, heard := false, reported := none, slot := x.slot.clear, silence := 0 }

/-- MAP_CELL (R22). -/
def actMapCell (cell port tap : Byte) (s : State) : Acted :=
  match ofNumber? 48 cell.toNat, ofIndex? 4 port.toNat with
  | some c, some p =>
    if tap.toNat < 1 ∨ 15 < tap.toNat then refuseWith .badArg 0 s
    else if s.cellTaken c then refuseWith .busy 0 s
    else match s.otherAt c { port := p, tap := tap.toNat } with
    | some d => refuseWith .inUse (number d) s
    | none =>
      ((s.modCell c (Cell.mapTo { port := p, tap := tap.toNat })).deriveCell c .mapping, Answer.withDetail .done 0)
  | _, _ => refuseWith .badArg 0 s

/-- UNMAP_CELL (R23). -/
def actUnmapCell (cell : Byte) (s : State) : Acted :=
  match ofNumber? 48 cell.toNat with
  | none => refuse .badArg s
  | some c =>
    if (s.cell c).mapping.isNone then refuse .wrongState s
    else if s.cellTaken c then refuse .busy s
    else doneOrder ((s.modCell c Cell.unmap).deriveCell c .mapping)

/-! ## FREEZE (R26, R27) -/

/-- The cell's state derived anew after a FREEZE; when it leaves MISMATCH so, its SUSPENDED insertion gets resync pending
(R27, R82). -/
def State.deriveFrozen (c : CellNo) (s : State) : State :=
  let before := (s.cell c).state
  let s := s.deriveCell c .freeze
  if before = .mismatch ∧ (s.cell c).state ≠ .mismatch then
    s.modInsertion c fun i => if i.state = .suspended then { i with resyncPending := true } else i
  else s

/-- FREEZE (R26). -/
def actFreeze (cell action : Byte) (s : State) : Acted :=
  match ofNumber? 48 cell.toNat, onOff? action.toNat with
  | some c, some true =>
    let x := s.cell c
    if x.mapping.isNone ∨ x.reported.isNone then refuse .wrongState s
    else doneOrder
      ((s.modCell c fun x => { x with freeze := true, frozen := x.reported.map Identity.compared }).deriveFrozen c)
  | some c, some false =>
    doneOrder ((s.modCell c fun x => { x with freeze := false, frozen := none }).deriveFrozen c)
  | _, _ => refuse .badArg s

/-! ## SET_CELL_SERVICE (R28, R29) -/

/-- The LINE_STOP reason after a change of stop policy in LINE_STOP: removed for EXEMPT, added when EXEMPT is left, and
of the new kind where it stands (R29). -/
def policyReason (old new : StopPolicy) (reason : Option HaltKind) : Option HaltKind :=
  if old = .exempt then new.halt else reason.bind fun _ => new.halt

/-- A change of stop policy in LINE_STOP applied to the cell's insertion, when it is RUNNING, PAUSING or PAUSED, or
SUSPENDED from one of these (R29). -/
def State.applyPolicy (c : CellNo) (old new : StopPolicy) (s : State) : State :=
  match s.insertion c with
  | none => s
  | some i =>
    if i.takenBy.onHandler then s.pauseRequest c fun p => { p with lineStop := policyReason old new p.lineStop } else s

/-- The stop policy replaced, with R29 in LINE_STOP. -/
def State.setPolicy (c : CellNo) (new : StopPolicy) (s : State) : State :=
  let old := (s.cell c).policy
  let s := s.modCell c fun x => { x with policy := new }
  if s.ft.mode = .lineStop ∧ new ≠ old then s.applyPolicy c old new else s

/-- The service flag set, with the load-failure count zeroed, or cleared (R28). -/
def Cell.setService (on : Bool) (x : Cell) : Cell :=
  { x with service := on, loadFailures := if on then 0 else x.loadFailures }

/-- SET_CELL_SERVICE (R28). -/
def actSetCellService (cell action policy : Byte) (s : State) : Acted :=
  match ofNumber? 48 cell.toNat, onOff? action.toNat, StopPolicy.ofCode? policy.toNat with
  | some c, some on, some p => doneOrder (((s.setPolicy c p).modCell c (Cell.setService on)).deriveCell c .service)
  | _, _, _ => refuse .badArg s

/-! ## IDENT (R24) -/

/-- The identity of an IDENT frame when every field lies in its range (Table 2-2). -/
def identityOf (f : IdentFrame) : Option Identity :=
  if (1 ≤ f.testerClass.toNat ∧ f.testerClass.toNat ≤ 15) ∧ (1 ≤ f.handlerClass.toNat ∧ f.handlerClass.toNat ≤ 15) ∧
      (1 ≤ f.siteCount.toNat ∧ f.siteCount.toNat ≤ 8) ∧ (1 ≤ f.temps.toNat ∧ f.temps.toNat ≤ 7) ∧
      (1 ≤ f.kitCode.toNat ∧ f.kitCode.toNat ≤ 4095) then
    some { serial := f.serial, testerClass := f.testerClass.toNat, handlerClass := f.handlerClass.toNat,
           siteCount := f.siteCount.toNat, temps := f.temps.setWidth 3, kitCode := f.kitCode.toNat }
  else none

/-- The cell record as an IDENT in range leaves it: history cleared for another serial, the identity adopted, the heard
flag set (R24 steps 1 to 3). -/
def Cell.adopt (d : Identity) (x : Cell) : Cell :=
  let x :=
    if x.reported.any fun old => old.serial ≠ d.serial then
      { x with measured := 0, lastRecipe := none, lastTemp := none }
    else x
  { x with reported := some d, heard := true }

/-- A good IDENT at the Cell Manager (R24), then at the Insertion Engine. -/
def State.takeIdent (c : CellNo) (f : IdentFrame) (s : State) : State :=
  match identityOf f with
  | none => s.protocolError c
  | some d => ((s.modCell c (Cell.adopt d)).deriveCell c .ident).deliverIdent c f.fresh

/-! ## Silence and link loss (R52) -/

/-- The silence timer reaches 5000 ms (R52): it is reset, and a heard cell has lost its link: LINK_LOST, the heard flag
cleared, and the cell's state derived anew. -/
def State.silenceExpired (c : CellNo) (s : State) : State :=
  let x := s.cell c
  let s := s.modCell c fun x => { x with silence := 0 }
  match x.mapping with
  | none => s
  | some m =>
    if x.heard then
      ((s.report (.linkLost c m.port m.tap x.state x.crcErrors)).modCell c fun x => { x with heard := false }).deriveCell c
        .linkLoss
    else s

end Sys2Proof.Machine
end

