-- ==== Sys2Proof/Machine/Frames.lean ====
section
/-! DEFINITION. The bytes of the frames the KF-740 sends (R42, R43, R45, Table 3-3) and the CRC of R46. -/

namespace Sys2Proof.Machine

/-- One step of the CRC's division: a bit in, most significant bit first (R46). -/
def crcBit (crc : Half) (bit : Bool) : Half :=
  if (crc.msb != bit) then (crc <<< 1) ^^^ 0x1021#16 else crc <<< 1

/-- A byte taken into the CRC, most significant bit first. -/
def crcByte (crc : Half) (b : Byte) : Half := [7, 6, 5, 4, 3, 2, 1, 0].foldl (fun crc i => crcBit crc (b.getLsbD i)) crc

/-- The CRC of R46: generator x^16 + x^12 + x^5 + 1, starting value all ones, no final inversion. -/
def crc16 (bs : List Byte) : Half := bs.foldl crcByte 0xFFFF#16

/-- The outer form of a frame: address, kind, length, body, CRC (R45). -/
def frameBytes (address kind : Nat) (body : List Byte) : List Byte :=
  let head := BitVec.ofNat 8 address :: BitVec.ofNat 8 kind :: BitVec.ofNat 8 body.length :: body
  head ++ leBytes 2 (crc16 head).toNat

/-- The arguments of a command after its load tag, in the order of Table 3-3. -/
def Command.args : Command → List Byte
  | .kitRequest kit => leBytes 2 kit
  | .load program temp sites expected lot =>
    leBytes 4 program.toNat ++ leBytes 1 temp.code ++ leBytes 1 sites.toNat ++ leBytes 2 expected ++ lot.toList
  | .go => []
  | .haltAtIndex => []
  | .haltNow => []
  | .finish => []
  | .abort => []

/-- A command frame: the load tag, then the command's arguments (R42, Table 3-3). -/
def commandFrame (address : Nat) (tag : Half) (cmd : Command) : List Byte :=
  frameBytes address cmd.kind.code (leBytes 2 tag.toNat ++ cmd.args)

/-- A POLL frame with its identify request (R43); POLL is kind 7. -/
def pollFrame (address : Nat) (identify : Bool) : List Byte := frameBytes address 7 (flagByte identify)

/-- The frames a turn sends: the desired command when the cell is heard and the tap has not applied it, then the POLL
(R42, R43). -/
def turnFrames (address : Nat) (x : Cell) : List (List Byte) :=
  let poll := pollFrame address !x.heard
  match x.slot.desired with
  | none => [poll]
  | some cmd => if x.heard && x.slot.differs then [commandFrame address x.slot.tag cmd, poll] else [poll]

/-- The body length of the six kinds a tap sends (Table 3-2); none for another kind. -/
def tapBodyLength : Nat → Option Nat
  | 1 => some 7
  | 2 => some 11
  | 3 => some 5
  | 4 => some 5
  | 5 => some 36
  | 6 => some 0
  | _ => none

end Sys2Proof.Machine
end

