-- ==== Sys2Proof/Machine/CellLink.lean ====
section
/-! DEFINITION. Chapter 3, the CellLink Controller: turns, the frames of an answer, routing, silence, and the link
counts. -/

namespace Sys2Proof.Machine

/-! ## Turns (R40 to R43) -/

/-- A cell is polled on a port: mapped to it, inside its window (R40); its tap address. -/
def State.polledTap (p : PortNo) (c : CellNo) (s : State) : Option Nat :=
  match (s.cell c).mapping with
  | none => none
  | some m => if m.port = p ∧ (s.port p).inWindow m.tap = true then some m.tap else none

/-- The polled cells of a port with their tap addresses. -/
def State.polled (p : PortNo) (s : State) : List (Nat × CellNo) :=
  allCells.filterMap fun c => (s.polledTap p c).map fun tap => (tap, c)

/-- The pair of lowest tap address. -/
def lowestTap : List (Nat × CellNo) → Option (Nat × CellNo)
  | [] => none
  | x :: xs => match lowestTap xs with
    | none => some x
    | some y => if y.1 < x.1 then some y else some x

/-- The cell that has the port's next turn (R41). -/
def State.nextTurn (p : PortNo) (s : State) : Option (Nat × CellNo) :=
  let above := (s.polled p).filter fun x => match (s.port p).arbiter with
    | none => true
    | some a => a < x.1
  (lowestTap above).orElse fun _ => lowestTap (s.polled p)

/-- The port takes turns (R40). -/
def State.takesTurns (p : PortNo) (s : State) : Bool := s.working && !s.backpressure && !(s.polled p).isEmpty

/-- A turn begins (R41 to R43): the arbiter position is set, the frames are sent, and the port listens. -/
def State.beginTurn (p : PortNo) (s : State) : State :=
  if s.takesTurns p = true ∧ (s.port p).turn = none then
    match s.nextTurn p with
    | none => s
    | some (tap, c) =>
      s.modPort p fun x =>
        { x with arbiter := some tap, turn := some { cell := c, frames := 0, wait := 0 }, sent := turnFrames tap (s.cell c) }
  else s

/-! ## The frames of an answer (R44, R46, R47) -/

/-- The turn ends (R44). -/
def Port.endTurn (x : Port) : Port := { x with turn := none }

/-- A frame takes one of the four places of the turn; after the fourth, any frame ends the turn (R44). -/
def Port.takePlace (x : Port) : Port :=
  match x.turn with
  | none => x
  | some t =>
    { x with turn := if Config.turnFrames ≤ t.frames then none else some { t with frames := t.frames + 1, wait := 0 } }

/-- The stray-frame count grows by 1 (R47). -/
def Port.countStray (x : Port) : Port := { x with strayFrames := satInc x.strayFrames }

/-- A stray frame (R47); DEDUCED (log entry 16): one that is a TURN_END ends the turn (R44 case 3). -/
def Port.takeStray (ends : Bool) (x : Port) : Port := if ends then x.countStray.endTurn else x.countStray.takePlace

/-- The address and mapping tests of R47: the frame's address is that of the open turn, which is the arbiter position
(R41), and the turn's cell is still mapped to this port and address. -/
def State.addressGood (p : PortNo) (t : Turn) (address : Byte) (s : State) : Bool :=
  (s.port p).arbiter = some address.toNat && (s.cell t.cell).mapping = some { port := p, tap := address.toNat }

/-- A frame with a correct CRC and the form of its kind: a good frame is handled by `act` for its cell after the silence
timer is reset, any other is stray (R44, R47). Without an open turn nothing is received (log entry 17). -/
def State.receive (p : PortNo) (address : Byte) (act : CellNo → State → State) (s : State) : State :=
  match (s.port p).turn with
  | none => s
  | some t =>
    if s.addressGood p t address = true ∧ t.frames < Config.turnFrames then
      act t.cell ((s.modPort p Port.takePlace).modCell t.cell fun x => { x with silence := 0 })
    else s.modPort p (Port.takeStray false)

/-- A TURN_END frame with a correct CRC (R44). -/
def State.receiveTurnEnd (p : PortNo) (address : Byte) (s : State) : State :=
  match (s.port p).turn with
  | none => s
  | some t =>
    if s.addressGood p t address then (s.modPort p Port.endTurn).modCell t.cell fun x => { x with silence := 0 }
    else s.modPort p (Port.takeStray true)

/-- A frame with a correct CRC that is no good frame, of a given kind and body length; a frame that would be good is not
this event (R47). DEDUCED (log entry 16): a frame of kind 6 whose body length is not 0 is no TURN_END, and only takes a
place. -/
def State.receiveStray (p : PortNo) (address kind length : Byte) (s : State) : State :=
  match (s.port p).turn with
  | none => s
  | some t =>
    let formed : Bool := tapBodyLength kind.toNat = some length.toNat
    if formed && s.addressGood p t address then s
    else s.modPort p (Port.takeStray (formed && kind = 6))

/-- A frame with a bad CRC or a broken frame (R46). -/
def State.receiveBad (p : PortNo) (s : State) : State :=
  match (s.port p).turn with
  | none => s
  | some t =>
    (s.modPort p fun x => { x with crcErrors := satInc x.crcErrors }.takePlace).modCell t.cell
      fun x => { x with crcErrors := satInc x.crcErrors }

/-- No frame begins within 2 ms in LISTEN (R44). -/
def State.listenExpired (p : PortNo) (s : State) : State :=
  match (s.port p).turn with
  | none => s
  | some t =>
    s.modPort p fun x =>
      { x with turn := none, missedTurns := if t.frames = 0 then satInc x.missedTurns else x.missedTurns }

/-! ## Routing (R48, R49) -/

/-- The condition for delivery to the Insertion Engine (R48): an insertion record bears the cell's number, and the cell is
neither SILENT nor MISMATCH. -/
def State.delivers (c : CellNo) (s : State) : Bool :=
  (s.insertion c).isSome && (s.cell c).state ≠ .silent && (s.cell c).state ≠ .mismatch

/-- A frame handed to the Insertion Engine, or discarded (R48). -/
def State.deliver (act : CellNo → State → State) (c : CellNo) (s : State) : State := if s.delivers c then act c s else s

/-- A good STATUS (R49): its values checked, the last applied command replaced, then delivered. -/
def State.takeStatus (f : StatusFrame) (c : CellNo) (s : State) : State :=
  match HandlerState.ofCode? f.handler.toNat, CommandKind.ofStatus? f.lastKind.toNat with
  | some h, some k =>
    (s.modCell c fun x => { x with slot := { x.slot with lastKind := k, lastTag := f.lastTag } }).deliver
      (fun c s => s.deliverStatus c h f) c
  | _, _ => s.protocolError c

/-! ## CLEAR_LINK_COUNTS (R57) -/

/-- A cell's counts zeroed when it is mapped to a port (R57). -/
def Cell.clearLinkCounts (p : PortNo) (x : Cell) : Cell :=
  if x.mapping.any fun m => m.port = p then { x with crcErrors := 0, protocolErrors := 0 } else x

/-- CLEAR_LINK_COUNTS (R57). -/
def actClearLinkCounts (port : Byte) (s : State) : Acted :=
  match ofIndex? 4 port.toNat with
  | none => refuse .badArg s
  | some p =>
    let x := s.port p
    let s' := s.modPort p fun x => { x with crcErrors := 0, missedTurns := 0, strayFrames := 0 }
    ({ s' with cells := s'.cells.map (Cell.clearLinkCounts p) },
     Answer.withFields (leBytes 2 x.crcErrors ++ leBytes 2 x.missedTurns ++ leBytes 2 x.strayFrames))

end Sys2Proof.Machine
end

