-- ==== Sys2Proof/Machine/Passes.lean ====
section
/-! DEFINITION. Chapter 7, the Dispatch Engine: eligibility, the dispatch score, the pass, and reservations. -/

namespace Sys2Proof.Machine

/-! ## Eligibility (R117, R118) -/

/-- The bar entry lets a lot pair with a cell (R118). -/
def Lot.barLets (x : Lot) (c : CellNo) (now : Nat) : Bool :=
  match x.bar with
  | none => true
  | some b => b.cell ≠ c || b.expiry ≤ now

/-- The lot's side of Table 7-2: QUEUED, no hold, not quarantined, a remainder in 1..65535. -/
def Lot.dispatchable (x : Lot) : Bool :=
  x.state = .queued && !x.held && 1 ≤ (x.step x.current).remainder && (x.step x.current).remainder ≤ 65535

/-- The identity's side of Table 7-2 against a recipe. -/
def Identity.fits (d : Identity) (r : Recipe) : Bool :=
  d.testerClass = r.testerClass && d.handlerClass = r.handlerClass && d.temps.getLsbD r.temp.code &&
    r.minSites ≤ d.siteCount

/-! ## The dispatch score (R119 to R121) -/

/-- Stage 5: the run in minutes (R119). -/
def runMinutes (sites remainder cycleTime : Nat) : Nat := ceilDiv (ceilDiv remainder sites * cycleTime) 60000

/-- Stage 4: the cycle time of a pair (R119). -/
def pairCycle (x : Cell) (n : RecipeNo) (r : Recipe) : Nat :=
  if x.measured ≠ 0 ∧ x.lastRecipe = some n then x.measured else r.cycleTime

/-- COLD and HOT, in either order. -/
def TempClass.opposite : TempClass → TempClass → Bool
  | .cold, .hot => true
  | .hot, .cold => true
  | _, _ => false

/-- Stage 6: the setup in minutes (R120). -/
def setupMinutes (q : DispatchParams) (x : Cell) (r : Recipe) : Nat :=
  (if x.kitCode = some r.kitCode then 0 else q.kitMinutes) + (if x.lastTemp = some r.temp then 0 else r.soakMinutes) +
    (if x.lastTemp.any fun t => t.opposite r.temp then q.transitionMinutes else 0)

/-- A value clamped in signed arithmetic. -/
def clampInt (lo hi x : Int) : Int := min hi (max lo x)

/-- Stages 7 and 8: the slack (R121). -/
def slackOf (now setup run : Nat) (x : Lot) : Int :=
  clampInt (-4096) 4095 ((x.due : Int) - ((now : Int) + setup + run + x.tail))

/-- Stages 9 to 11: the score from the slack, priority, age and setup (R121). -/
def scoreOf (q : DispatchParams) (now setup : Nat) (slack : Int) (x : Lot) : Nat :=
  let raw : Int := 8192 - slack + x.priority * q.priorityWeight + min (now - x.ready) 1023 - setup * q.setupWeight
  (clampInt 0 65535 raw).toNat

/-- A scored pair. -/
structure Pair where
  lot : LotSlot
  cell : CellNo
  due : Nat
  score : Nat
  slack : Int
  setup : Nat
  run : Nat
  deriving DecidableEq, Repr

/-- The score of a lot and a cell of given identity at the present floor minute (R119 to R121). -/
def State.scorePair (s : State) (l : LotSlot) (c : CellNo) (x : Lot) (d : Identity) : Pair :=
  let st := x.step x.current
  let r := s.recipe st.recipe
  let setup := setupMinutes s.de.params (s.cell c) r
  let run := runMinutes (min d.siteCount r.maxSites) st.remainder (pairCycle (s.cell c) st.recipe r)
  let slack := slackOf s.minute setup run x
  { lot := l, cell := c, due := x.due, score := scoreOf s.de.params s.minute setup slack x, slack := slack,
    setup := setup, run := run }

/-- The pair of a lot and a cell when it is eligible (R117). -/
def State.pair? (s : State) (l : LotSlot) (c : CellNo) : Option Pair :=
  match s.lot l, (s.cell c).reported with
  | some x, some d =>
    if s.ft.mode = .run ∧ (s.cell c).state = .idle ∧ x.dispatchable = true ∧ x.barLets c s.minute = true ∧
        d.fits (s.recipe (x.step x.current).recipe) = true then
      some (s.scorePair l c x d)
    else none
  | _, _ => none

/-! ## The pass (R123 to R125) -/

/-- The candidates (R124 step 1), by queue position and then cell number. -/
def State.candidates (s : State) : List Pair :=
  (s.lm.queue.flatMap fun l => allCells.filterMap (s.pair? l)).filter fun q => q.score ≠ 0

/-- A candidate that goes before another that stands earlier in the list: a higher score, or the same and an earlier due
minute (R124 step 2). -/
def Pair.beats (a b : Pair) : Bool := b.score < a.score || (a.score = b.score && a.due < b.due)

/-- The candidate taken next. -/
def bestPair : List Pair → Option Pair
  | [] => none
  | x :: xs => match bestPair xs with
    | none => some x
    | some y => if y.beats x then some y else some x

/-- A reservation entry made, the lot RESERVED, and the cell's state derived (R125, CONFIRM mode). -/
def State.reserve (q : Pair) (expiry : Nat) (s : State) : State :=
  let e : Reservation := { cell := q.cell, lot := q.lot, expiry := expiry, score := q.score }
  let s := { s with de := { s.de with reservations := s.de.reservations ++ [e] } }
  (s.setLotState q.lot .reserved).deriveCell q.cell .reservation

/-- One assignment (R125). -/
def State.assign (q : Pair) (s : State) : State :=
  let step := ((s.lot q.lot).map Lot.current).getD 1
  match s.de.params.mode with
  | .auto =>
    (s.report (.proposal q.lot q.cell step q.score q.slack q.setup q.run .auto 0)).startInsertion q.lot q.cell
  | .confirm =>
    let expiry := s.minute + s.de.params.window
    (s.report (.proposal q.lot q.cell step q.score q.slack q.setup q.run .confirm expiry)).reserve q expiry

/-- Steps 2 to 5 of a pass over the candidates left, at most `fuel` times (R124). -/
def State.assignAll : Nat → List Pair → State → State
  | 0, _, s => s
  | fuel + 1, cs, s =>
    match bestPair cs with
    | none => s
    | some q =>
      if s.backpressure then s.triggerPass
      else State.assignAll fuel (cs.filter fun o => o.lot ≠ q.lot && o.cell ≠ q.cell) (s.assign q)

/-- The conditions for a pass to start (R123). -/
def State.startsPass (s : State) : Bool :=
  s.de.passPending && s.running && s.ft.mode = .run && !s.backpressure

/-- A dispatch pass (R123, R124). -/
def State.runPass (s : State) : State :=
  if s.startsPass then
    let s := { s with de := { s.de with passPending := false } }
    State.assignAll s.candidates.length s.candidates s
  else s

/-! ## Reservations (R127 to R132) -/

/-- A cell number and a lot slot in range and an entry that names both, or the refusal (R127, R128). -/
def withReservation (cell : Byte) (lot : Half) (act : CellNo → LotSlot → State → Acted) (s : State) : Acted :=
  match ofNumber? 48 cell.toNat, ofIndex? 512 lot.toNat with
  | some c, some l =>
    if s.de.reservations.any fun r => r.cell = c && r.lot = l then act c l s else refuse .wrongState s
  | _, _ => refuse .badArg s

/-- CONFIRM (R127). -/
def actConfirm (cell : Byte) (lot : Half) (s : State) : Acted :=
  withReservation cell lot
    (fun c l s => ((s.deleteReservation c).startInsertion l c, Answer.plain .accepted)) s

/-- DECLINE (R128). -/
def actDecline (cell : Byte) (lot : Half) (s : State) : Acted :=
  withReservation cell lot
    (fun c l s =>
      let bar : Bar := { cell := c, expiry := s.minute + s.de.params.window }
      let s := (s.deleteReservation c).modLot l fun x => { x with bar := some bar }
      doneOrder ((s.setLotState l .queued).deriveCell c .reservation)) s

/-- DISPATCH_NOW (R132). -/
def actDispatchNow (s : State) : Acted :=
  (s.triggerPass, Answer.withDetail .done (if s.ft.mode = .run then 1 else 0))

/-- An entry may expire now (R129). -/
def State.expires (r : Reservation) (s : State) : Bool := s.working && !s.backpressure && r.expiry ≤ s.minute

/-- The entry of a cell expires (R129). -/
def State.expireReservation (c : CellNo) (s : State) : State :=
  match s.reservationOf c with
  | none => s
  | some r =>
    if s.expires r then
      (((s.deleteReservation c).report (.reservationExpired r.lot c r.expiry r.score)).setLotState r.lot .queued).deriveCell
        c .reservation
    else s

end Sys2Proof.Machine
end

