-- ==== Sys2Proof/Machine/Floor.lean ====
section
/-! DEFINITION. Chapter 9, the Floor Timer: the floor clock, the dispatch pacer and the floor modes. -/

namespace Sys2Proof.Machine

/-! ## The floor clock and the dispatch pacer (R147 to R149) -/

/-- The dispatch pacer takes a minute notice from SET_CLOCK or the wrap: the next-firing minute becomes the new minute
plus the interval, while the part is RUNNING or FAULTED and it is present (R149). -/
def State.rebasePacer (s : State) : State :=
  if s.working then
    { s with ft := { s.ft with nextFiring := s.ft.nextFiring.map fun _ => s.minute + s.de.params.pacer } }
  else s

/-- The floor clock grows by 1, passing from 4,294,967,295 to 0 (R147); the wrap re-bases the pacer (R149). -/
def State.countSecond (s : State) : State :=
  let wraps : Bool := s.ft.clock = BitVec.allOnes 32
  let s := { s with ft := { s.ft with clock := s.ft.clock + 1 } }
  if wraps then s.rebasePacer else s

/-- The next count of the clock changes the floor minute (R147). -/
def State.minuteEnds (s : State) : Bool := (s.ft.clock + 1).toNat / 60 ≠ s.minute

/-- The dispatch pacer takes a minute notice from counting (R149): with the part RUNNING or FAULTED and the next-firing
minute reached, it is to fire. DEDUCED (log entry 15): the firing is an event of its own. -/
def State.notifyPacer (s : State) : State :=
  if s.working && s.ft.nextFiring.any fun m => m ≤ s.minute then { s with ft := { s.ft with firing := true } } else s

/-- The second that ends is counted, with the minute notice when the floor minute changes (R147): at the wrap the pacer is
re-based by `countSecond`, at any other such count it takes the notice (R149). -/
def State.countWithNotice (s : State) : State :=
  let t := s.countSecond
  let t := { t with ft := { t.ft with ms := 0 } }
  if s.minuteEnds && s.ft.clock ≠ BitVec.allOnes 32 then t.notifyPacer else t

/-- The count that changes the floor minute (R147), at the end of its second. DEDUCED (log entry 14): the second count and
its minute notice are one event; expiries and the pacer's firing follow as events of their own. A second that is still to be
counted when SET_CLOCK loads another clock is counted all the same (R148: "the clock counts on from it"). -/
def State.minuteNotice (s : State) : State := if 1000 ≤ s.ft.ms then s.countWithNotice else s

/-- The dispatch pacer is to fire (R149). -/
def State.pacerDue (s : State) : Bool := s.working && s.ft.firing

/-- The dispatch pacer fires (R149). -/
def State.firePacer (s : State) : State :=
  if s.pacerDue then
    let s := s.triggerPass
    { s with ft := { s.ft with nextFiring := s.ft.nextFiring.map fun _ => s.minute + s.de.params.pacer, firing := false } }
  else s

/-- SET_CLOCK (R148). The entries that have reached their expiry minute then expire as events of their own (R129, log
entry 13). -/
def actSetClock (seconds : Word) (s : State) : Acted :=
  let before := s.minute
  let old := s.ft.clock
  let s := { s with ft := { s.ft with clock := seconds } }
  (if s.minute = before then s else s.rebasePacer, Answer.withFields (leBytes 4 old.toNat))

/-! ## Floor modes (R150 to R152) -/

/-- The LINE_STOP reason applied to one cell's insertion (R151). -/
def State.applyLineStop (s : State) (c : CellNo) : State :=
  match s.insertion c with
  | none => s
  | some i =>
    if i.takenBy.onHandler = true ∧ (s.cell c).policy ≠ .exempt then
      s.pauseRequest c fun p => { p with lineStop := (s.cell c).policy.halt }
    else s

/-- The LINE_STOP reason withdrawn from one cell's insertion (R152). -/
def State.withdrawLineStop (s : State) (c : CellNo) : State := s.pauseRequest c fun p => { p with lineStop := none }

/-- The action on a change of floor mode (R150). -/
def State.changeMode (old new : FloorMode) (s : State) : State :=
  let s :=
    if old ≠ .lineStop ∧ new = .lineStop then allCells.foldl State.applyLineStop s
    else if old = .lineStop ∧ new ≠ .lineStop then allCells.foldl State.withdrawLineStop s
    else s
  if old ≠ .run ∧ new = .run then s.triggerPass else s

/-- SET_FLOOR_MODE (R150). -/
def actSetFloorMode (mode : Byte) (s : State) : Acted :=
  match FloorMode.ofCode? mode.toNat with
  | none => refuse .badArg s
  | some m =>
    let old := s.ft.mode
    (({ s with ft := { s.ft with mode := m } }).changeMode old m, Answer.withDetail .done old.code)

end Sys2Proof.Machine
end

