-- ==== Sys2Proof/Machine/Reports.lean ====
section
/-! DEFINITION. Chapter 11, the record format: the bytes of every report record (R163, R164, Table 11-2). The layouts that
the tables leave open are marked with their log entries. -/

namespace Sys2Proof.Machine

/-! ## Codes (R158, R163: the place in the list where the owning chapter names the value) -/

/-- Cell states, in the order of Table 2-1. -/
def CellState.code : CellState → Nat
  | .detached => 0
  | .parked => 1
  | .silent => 2
  | .mismatch => 3
  | .busy => 4
  | .reserved => 5
  | .outOfService => 6
  | .idle => 7

/-- CELL_STATE causes (Table 2-5). -/
def CellCause.code : CellCause → Nat
  | .mapping => 0
  | .ident => 1
  | .linkLoss => 2
  | .freeze => 3
  | .service => 4
  | .insertion => 5
  | .reservation => 6
  | .loadFailures => 7
  | .start => 8

/-- Insertion states (Table 4-1). -/
def InsState.code : InsState → Nat
  | .kitWait => 0
  | .loading => 1
  | .soaking => 2
  | .running => 3
  | .pausing => 4
  | .paused => 5
  | .ending => 6
  | .suspended => 7

/-- INSERTION_EVENT causes (R60). -/
def InsCause.code : InsCause → Nat
  | .assigned => 0
  | .kitReady => 1
  | .loadEcho => 2
  | .soakDone => 3
  | .pause => 4
  | .halted => 5
  | .resumed => 6
  | .endRun => 7
  | .abort => 8
  | .suspend => 9
  | .restore => 10
  | .abandoned => 11

/-- The timers of LOAD_FAILED (R65). -/
def FailedTimer.code : FailedTimer → Nat
  | .kit => 0
  | .load => 1

/-- Evaluation kinds (5.4). -/
def EvalKind.code : EvalKind → Nat
  | .unit => 0
  | .checkpoint => 1
  | .final => 2

/-- Outcomes of an entry position (R99). -/
def EntryOutcome.code : EntryOutcome → Nat
  | .notEvaluated => 0
  | .noChange => 1
  | .tripped => 2
  | .reArmed => 3

/-- Run outcomes (R7). -/
def RunOutcome.code : RunOutcome → Nat
  | .closed => 0
  | .short => 1
  | .aborted => 2

/-- Hold origins (Table 6-1). -/
def HoldOrigin.code : HoldOrigin → Nat
  | .limit => 0
  | .reconcile => 1
  | .quantity => 2
  | .loss => 3
  | .manual => 4

/-- Dispositions in a HOLD_CLEARED record. DEDUCED (log entry 20): CONTINUE, SCRAP (R112), then DOWNGRADE (R115). -/
def Disposition.code : Disposition → Nat
  | .continue => 0
  | .scrap => 1
  | .downgrade => 2

/-- Dispatch modes (Table 7-1). -/
def DispatchMode.code : DispatchMode → Nat
  | .auto => 0
  | .confirm => 1

/-- RESERVATION_CANCELLED causes (R130). -/
def CancelCause.code : CancelCause → Nat
  | .hold => 0
  | .quarantine => 1
  | .silent => 2
  | .mismatch => 3

/-- SHIP_MEMBER_REMOVED causes (Table 8-2). -/
def RemovalCause.code : RemovalCause → Nat
  | .removed => 0
  | .cancelled => 1
  | .scrapped => 2
  | .downgraded => 3
  | .notReady => 4

/-- Manners of release (R145). -/
def ReleaseManner.code : ReleaseManner → Nat
  | .all => 0
  | .readyOnly => 1
  | .auto => 2

/-! ## Fields -/

/-- A lot state of a LOT_STATE record; FREE has a code of its own (R8, log entry 21). -/
def lotStateByte : Option LotState → List Byte
  | none => [Config.freeLotStateCode]
  | some x => leBytes 1 x.code

/-- An optional insertion state: its range holds 0, so a presence flag precedes it (R60, R158). -/
def insStateBytes (x : Option InsState) : List Byte := optBytes 1 (x.map fun x => leBytes 1 x.code)

/-- An optional cell, 0 when absent (R158). -/
def cellByte (c : Option CellNo) : List Byte := leBytes 1 ((c.map number).getD 0)

/-- The limit detail of Table 6-1 as an optional group of fields (R158). -/
def limitDetailBytes (x : Option LimitDetail) : List Byte :=
  optBytes 10 (x.map fun d =>
    leBytes 1 (number d.set) ++ leBytes 1 d.position ++ leBytes 1 d.metric.code ++ leBytes 1 d.metric.binCode ++
      leBytes 4 d.value ++ leBytes 2 d.units)

/-- The reason code as an optional field whose range holds 0 (R158). -/
def reasonBytes (x : Option Nat) : List Byte := optBytes 2 (x.map (leBytes 2))

/-- A signed value of two bytes in two's complement (R158). -/
def signedBytes (x : Int) : List Byte := leBytes 2 (BitVec.ofInt 16 x).toNat

/-- The body of a QUARANTINE record: action, cause, step, and the matter of the cause (R104, R105, R107). DEDUCED (log
entry 20): action SET 0, CLEARED 1. Free values (log entry 21): the codes of the causes. DESIGN CHOICE (log entry 22): the
matter's fields stand in the order of the rule's sentence, and the new request's limit detail of an ESCALATION is the whole
group of Table 6-1. -/
def quarantineBody (step : Nat) : QuarantineMatter → List Byte
  | .escalation id r => [0, Config.quarantineCauseCode 0] ++ leBytes 1 step ++ leBytes 2 id ++ limitDetailBytes r.limit
  | .lotListFull r =>
    [0, Config.quarantineCauseCode 1] ++ leBytes 1 step ++ leBytes 1 r.origin.code ++ leBytes 1 r.holdClass.code ++
      cellByte r.cell ++ limitDetailBytes r.limit ++ reasonBytes r.reason
  | .tableFull r =>
    [0, Config.quarantineCauseCode 2] ++ leBytes 1 step ++ leBytes 1 r.origin.code ++ leBytes 1 r.holdClass.code ++
      cellByte r.cell ++ limitDetailBytes r.limit ++ reasonBytes r.reason
  | .exhausted runs => [0, Config.quarantineCauseCode 3] ++ leBytes 1 step ++ leBytes 1 runs
  | .cleared d => [1, Config.quarantineCauseCode (4 + d.code)] ++ leBytes 1 step

/-- The eight 22-bit fields of a CHECKPOINT record: the value in the low 20 bits, the outcome in the top 2 (R163). -/
def checkpointFields : List (EntryOutcome × Nat) → Nat
  | [] => 0
  | (o, v) :: rest => v % 2 ^ 20 + o.code * 2 ^ 20 + 2 ^ 22 * checkpointFields rest

/-- The grade quantities: one count for each bin of the pass set in ascending order (R164). -/
def gradeBytes (x : ReleaseContent) : List Byte :=
  ((List.finRange 16).filter fun b => x.passSet.getLsbD b.val).flatMap fun b => leBytes 2 x.bins[b]

/-! ## Records -/

/-- Record kinds (Table 11-2). -/
def Report.kind : Report → Nat
  | .cellState .. => 1
  | .linkLost .. => 2
  | .insertionEvent .. => 3
  | .loadFailed .. => 4
  | .checkpoint .. => 5
  | .stepResult .. => 6
  | .holdRaised .. => 7
  | .holdCleared .. => 8
  | .quarantine .. => 9
  | .proposal .. => 10
  | .reservationExpired .. => 11
  | .reservationCancelled .. => 12
  | .lotState .. => 13
  | .release .. => 14
  | .shipReleased .. => 15
  | .shipMemberRemoved .. => 16

/-- Urgent kinds (Table 11-2). -/
def Report.urgent : Report → Bool
  | .holdRaised .. => true
  | .quarantine .. => true
  | .shipReleased .. => true
  | _ => false

/-- The subject: a cell number, a lot slot or a ship-order number by kind (Table 11-2). -/
def Report.subject : Report → Nat
  | .cellState c .. => number c
  | .linkLost c .. => number c
  | .insertionEvent c .. => number c
  | .loadFailed c .. => number c
  | .checkpoint l .. => l.val
  | .stepResult l .. => l.val
  | .holdRaised l .. => l.val
  | .holdCleared l .. => l.val
  | .quarantine l .. => l.val
  | .proposal l .. => l.val
  | .reservationExpired l .. => l.val
  | .reservationCancelled l .. => l.val
  | .lotState l .. => l.val
  | .release l .. => l.val
  | .shipReleased n .. => number n
  | .shipMemberRemoved l .. => l.val

/-- The fields of a record's body in the order of Table 11-2 and R164. DEDUCED (log entry 22): the origin's detail in
HOLD_RAISED is the limit detail and the reason code, each as an optional group. -/
def Report.body : Report → List Byte
  | .cellState _ before after cause => leBytes 1 before.code ++ leBytes 1 after.code ++ leBytes 1 cause.code
  | .linkLost _ port tap before crc => leBytes 1 port.val ++ leBytes 1 tap ++ leBytes 1 before.code ++ leBytes 2 crc
  | .insertionEvent _ lot before after cause =>
    leBytes 2 lot.val ++ insStateBytes before ++ insStateBytes after ++ leBytes 1 cause.code
  | .loadFailed _ lot timer count => leBytes 2 lot.val ++ leBytes 1 timer.code ++ leBytes 1 count
  | .checkpoint _ kind cell entries =>
    leBytes 1 kind.code ++ leBytes 1 (number cell) ++ leBytes 22 (checkpointFields entries)
  | .stepResult _ cell step runIndex outcome tested gap loss accounted unitsIn =>
    leBytes 1 (number cell) ++ leBytes 1 step ++ leBytes 1 runIndex ++ leBytes 1 outcome.code ++ leBytes 2 tested ++
      leBytes 2 gap ++ leBytes 2 loss ++ leBytes 2 accounted ++ leBytes 2 unitsIn
  | .holdRaised _ hold step r =>
    leBytes 2 hold ++ leBytes 1 step ++ leBytes 1 r.origin.code ++ limitDetailBytes r.limit ++ reasonBytes r.reason ++
      leBytes 1 r.holdClass.code ++ cellByte r.cell
  | .holdCleared _ hold origin holdClass d =>
    leBytes 2 hold ++ leBytes 1 origin.code ++ leBytes 1 holdClass.code ++ leBytes 1 d.code
  | .quarantine _ step content => quarantineBody step content
  | .proposal _ cell step score slack setup run mode expiry =>
    leBytes 1 (number cell) ++ leBytes 1 step ++ leBytes 2 score ++ signedBytes slack ++ leBytes 2 setup ++ leBytes 2 run ++
      leBytes 1 mode.code ++ leBytes 4 expiry
  | .reservationExpired _ cell expiry score => leBytes 1 (number cell) ++ leBytes 4 expiry ++ leBytes 2 score
  | .reservationCancelled _ cell cause score => leBytes 1 (number cell) ++ leBytes 1 cause.code ++ leBytes 2 score
  | .lotState _ before after step => lotStateByte before ++ lotStateByte after ++ leBytes 1 step
  | .release _ x =>
    leBytes 1 (number x.ship) ++ leBytes 1 x.stepCount ++ flagByte x.deviation ++ [0] ++ leBytes 2 x.passSet.toNat ++
      leBytes 2 x.released ++ leBytes 2 x.start ++ leBytes 4 x.customer.toNat ++ leBytes 4 x.totalFail ++
      leBytes 4 x.totalLoss
  | .shipReleased _ kind customer manner released takenOut releasedSum startSum =>
    leBytes 1 kind.code ++ leBytes 4 customer.toNat ++ leBytes 1 manner.code ++ leBytes 1 released ++ leBytes 1 takenOut ++
      leBytes 4 releasedSum ++ leBytes 4 startSum
  | .shipMemberRemoved _ ship cause kind left =>
    leBytes 1 (number ship) ++ leBytes 1 cause.code ++ leBytes 1 kind.code ++ leBytes 1 left

/-- The second and third places of a RELEASE record (R164); none for the other kinds. -/
def Report.morePlaces : Report → List Byte
  | .release _ x => padTo 32 x.lotNumber.toList ++ padTo 32 (gradeBytes x)
  | _ => []

/-- The bytes of a record as its places hold them: header, body, further places (Table 11-1, R163, R164). -/
def Record.bytes (r : Record) : List Byte :=
  leBytes 1 r.report.kind ++ flagByte r.report.urgent ++ leBytes 2 r.report.subject ++ leBytes 4 r.second.toNat ++
    padTo 24 r.report.body ++ r.report.morePlaces

end Sys2Proof.Machine
end

