-- ==== Sys2Proof/Machine/Images.lean ====
section
/-! DEFINITION. The record images of READ (R161): the fields of Tables 1-2, 2-1, 4-1, 6-1 and 8-1 in their order, encoded
as R158 lays down. DESIGN CHOICE (log entry 22): a list of varying length is a count byte and then its members. -/

namespace Sys2Proof.Machine

/-! ## Parts of images -/

/-- A list of varying length (log entry 22). -/
def listBytes {α : Type} (f : α → List Byte) (xs : List α) : List Byte := leBytes 1 xs.length ++ xs.flatMap f

/-- A pause reason: 0 absent, 1 with HALT_AT_INDEX, 2 with HALT_NOW (R158). -/
def reasonByte : Option HaltKind → List Byte
  | none => [0]
  | some .haltAtIndex => [1]
  | some .haltNow => [2]

/-- A pause-reason set (R158). -/
def PauseSet.bytes (p : PauseSet) : List Byte := reasonByte p.hold ++ reasonByte p.lineStop ++ reasonByte p.cellOrder

/-- A run entry (R7). -/
def Run.bytes (r : Run) : List Byte :=
  leBytes 1 (number r.cell) ++ leBytes 4 r.startSecond.toNat ++ leBytes 2 r.unitsTested ++
    optBytes 4 (r.endSecond.map fun x => leBytes 4 x.toNat) ++ optBytes 1 (r.outcome.map fun x => leBytes 1 x.code)

/-- Codes of a step state (R5). -/
def StepState.code : StepState → Nat
  | .opened => 0
  | .closed => 1
  | .skipped => 2

/-- A step result record (R5). -/
def LotStep.resultBytes (st : LotStep) : List Byte :=
  leBytes 1 st.state.code ++ leBytes 2 st.unitsIn ++ st.bins.toList.flatMap (leBytes 2) ++ leBytes 2 st.gap ++
    leBytes 2 st.loss ++ leBytes 2 st.stalls ++ listBytes Run.bytes st.runs

/-- A route step: recipe, limit set, loss allowance (Table 1-2). -/
def LotStep.routeBytes (st : LotStep) : List Byte :=
  leBytes 1 (number st.recipe) ++ leBytes 1 (number st.limitSet) ++ leBytes 2 st.lossAllowance

/-- The five compared fields (Table 2-2). -/
def FrozenIdentity.bytes (x : FrozenIdentity) : List Byte :=
  leBytes 4 x.serial.toNat ++ leBytes 1 x.testerClass ++ leBytes 1 x.handlerClass ++ leBytes 1 x.siteCount ++
    leBytes 1 x.temps.toNat

/-- The six fields of a reported identity (Table 2-2). -/
def Identity.bytes (x : Identity) : List Byte := x.compared.bytes ++ leBytes 2 x.kitCode

/-- A desired command, an optional group of its kind and arguments (Table 3-5): the presence flag, then the group, written 0
when absent (R158). DESIGN CHOICE (log entry 22): the kind stands first, and the arguments in room for the longest. -/
def desiredBytes (x : Option Command) : List Byte :=
  optBytes 25 (x.map fun cmd => padTo 25 (leBytes 1 cmd.kind.code ++ cmd.args))

/-- A command slot (Table 3-5): desired command, last applied kind and tag, load tag. DESIGN CHOICE (log entry 38): a command
kind takes its frame kind code, and the last applied kind 0 for none, as a STATUS carries it (R45). -/
def CommandSlot.bytes (x : CommandSlot) : List Byte :=
  desiredBytes x.desired ++ leBytes 1 ((x.lastKind.map CommandKind.code).getD 0) ++ leBytes 2 x.lastTag.toNat ++
    leBytes 2 x.tag.toNat

/-- The site counts: a pair of counts for each site (Table 4-1). -/
def Insertion.siteBytes (i : Insertion) : List Byte :=
  (List.finRange 8).flatMap fun k => leBytes 2 i.siteTested[k] ++ leBytes 2 i.sitePassed[k]

/-- An insertion record (Table 4-1); ARMED is 0 and DISARMED 1 (R92). -/
def Insertion.bytes (i : Insertion) : List Byte :=
  leBytes 2 i.lot.val ++ leBytes 1 i.step ++ leBytes 1 i.runIndex ++ leBytes 1 (number i.recipe) ++
    leBytes 1 i.siteMask.toNat ++ leBytes 2 i.expected ++ leBytes 2 i.unitsTested ++ leBytes 2 i.unitsSeen ++
    leBytes 2 i.runGap ++ i.runBins.toList.flatMap (leBytes 2) ++ i.siteBytes ++
    i.siteFailRun.toList.flatMap (leBytes 2) ++ leBytes 2 i.retestsUsed ++ flagByte i.quantityHold ++
    leBytes 2 i.downCounter ++ i.armed.toList.flatMap (fun a => flagByte !a) ++ leBytes 2 i.loadTag.toNat ++
    optBytes 4 (i.lastIndex.map fun t => leBytes 4 t.toNat) ++ flagByte i.sampleVoid ++ flagByte i.firstSample ++
    leBytes 2 i.stalls ++ i.pause.bytes ++ flagByte i.abortRequested ++ leBytes 1 i.state.code ++
    insStateBytes i.before ++ flagByte i.resyncPending ++ leBytes 2 i.kitTimer ++ leBytes 1 i.loadTimer ++
    leBytes 2 i.soakTimer ++ flagByte i.soakStarted

/-! ## The four images (R161) -/

/-- The LOT image: Table 1-2, the step result records, and a RESERVED lot's cell and expiry minute. -/
def State.lotImage (l : LotSlot) (x : Lot) (s : State) : List Byte :=
  let reservation := if x.state = .reserved then s.reservationOfLot l else none
  padTo 512 (x.lotNumber.toList ++ leBytes 2 x.startQuantity ++ leBytes 4 x.due ++ leBytes 1 x.priority ++
    listBytes LotStep.routeBytes x.steps ++ leBytes 1 x.current ++ leBytes 1 x.state.code ++ flagByte x.empty ++
    flagByte x.deviation ++ flagByte x.quarantined ++ listBytes (leBytes 2) x.holds ++
    leBytes 1 ((x.ship.map number).getD 0) ++ leBytes 4 x.ready ++ leBytes 4 x.admission.toNat ++ leBytes 4 x.tail ++
    optBytes 5 (x.bar.map fun b => leBytes 1 (number b.cell) ++ leBytes 4 b.expiry) ++
    x.steps.flatMap LotStep.resultBytes ++
    optBytes 5 (reservation.map fun r => leBytes 1 (number r.cell) ++ leBytes 4 r.expiry))

/-- The CELL image: Table 2-1 except the silence timer, and the insertion record when present. DESIGN CHOICE (log entry 38): the
last temperature class is a presence flag and a class code. -/
def State.cellImage (c : CellNo) (s : State) : List Byte :=
  let x := s.cell c
  padTo 256 (optBytes 1 (x.mapping.map fun m => leBytes 1 m.port.val) ++ leBytes 1 ((x.mapping.map Mapping.tap).getD 0) ++
    leBytes 1 x.policy.code ++ flagByte x.service ++ flagByte x.heard ++ optBytes 10 (x.reported.map Identity.bytes) ++
    flagByte x.freeze ++ optBytes 8 (x.frozen.map FrozenIdentity.bytes) ++
    leBytes 1 ((x.lastRecipe.map number).getD 0) ++ optBytes 1 (x.lastTemp.map fun t => leBytes 1 t.code) ++
    leBytes 2 x.measured ++ leBytes 1 x.loadFailures ++ leBytes 2 x.crcErrors ++ leBytes 2 x.protocolErrors ++
    x.slot.bytes ++ leBytes 1 x.state.code ++
    match s.insertion c with
    | none => [0]
    | some i => 1 :: i.bytes)

/-- Codes of a hold's state (Table 6-1). -/
def HoldState.code : HoldState → Nat
  | .opened => 0
  | .acknowledged => 1

/-- The HOLD image: Table 6-1. -/
def Hold.image (h : Hold) : List Byte :=
  padTo 32 (leBytes 2 h.id ++ leBytes 2 h.lot.val ++ leBytes 1 h.step ++ leBytes 1 h.origin.code ++
    limitDetailBytes h.limit ++ reasonBytes h.reason ++ leBytes 1 h.holdClass.code ++ cellByte h.cell ++
    leBytes 4 h.raisedSecond.toNat ++ leBytes 1 h.state.code)

/-- Codes of a ship order's state (Table 8-1). -/
def ShipState.code : ShipState → Nat
  | .opened => 0
  | .released => 1

/-- The SHIP image: Table 8-1. -/
def Ship.image (n : ShipNo) (o : Ship) : List Byte :=
  padTo 64 (leBytes 1 (number n) ++ leBytes 4 o.customer.toNat ++ leBytes 1 o.kind.code ++ flagByte o.auto ++
    leBytes 1 o.state.code ++ listBytes (fun l => leBytes 2 l.val) o.lots ++
    optBytes 4 (o.releasedSecond.map fun t => leBytes 4 t.toNat))

/-- What READ finds: an image, or the outcome that refuses it (R161). -/
inductive ImageResult
  | image (bytes : List Byte)
  | refused (o : OrderOutcome)
  deriving DecidableEq, Repr

/-- An index in range whose record exists, or the refusal (R161). -/
def imageAt {α : Type} (index : Option α) (find : α → Option (List Byte)) : ImageResult :=
  match index with
  | none => .refused .badArg
  | some i => match find i with
    | none => .refused .notFound
    | some bs => .image bs

/-- The image that READ's kind and index name: LOT 0, CELL 1, HOLD 2, SHIP 3 (R161). -/
def State.imageOf (kind : Nat) (index : Nat) (s : State) : ImageResult :=
  match kind with
  | 0 => imageAt (ofIndex? 512 index) fun l => (s.lot l).map fun x => s.lotImage l x
  | 1 => imageAt (ofNumber? 48 index) fun c => some (s.cellImage c)
  | 2 => if index = 0 then .refused .badArg else imageAt (some index) fun id => (s.hold? id).map Hold.image
  | 3 => imageAt (ofNumber? 32 index) fun n => (s.ship n).map (Ship.image n)
  | _ => .refused .badArg

/-- READ (R161): the image is written into the buffer; the answer fields carry its length and the floor second. -/
def actRead (kind : Byte) (index : Half) (buffer : Addr) (s : State) : Acted :=
  match s.imageOf kind.toNat index.toNat with
  | .refused o => refuse o s
  | .image bs =>
    (s.hostWrite buffer.toNat bs, Answer.withFields (leBytes 2 bs.length ++ leBytes 4 s.ft.clock.toNat))

end Sys2Proof.Machine
end

