-- ==== Sys2Proof/Machine/Pages.lean ====
section
/-! DEFINITION. Chapter 11, the report pages: headers, opening and closing, record moves, the idle timer and PAGE_RETURN,
each with the failures of its writes. -/

namespace Sys2Proof.Machine

/-! ## Pages and their headers (R165) -/

/-- A page of the Report Unit. -/
def ReportUnit.page (u : ReportUnit) : PageId → Page
  | .a => u.pageA
  | .b => u.pageB

/-- A page replaced. -/
def ReportUnit.setPage (p : PageId) (x : Page) (u : ReportUnit) : ReportUnit :=
  match p with
  | .a => { u with pageA := x }
  | .b => { u with pageB := x }

/-- A page's base. -/
def ReportUnit.base (u : ReportUnit) : PageId → Addr
  | .a => u.baseA
  | .b => u.baseB

/-- The other page. -/
def otherPage : PageId → PageId
  | .a => .b
  | .b => .a

/-- A change of the Report Unit. -/
def State.modReports (f : ReportUnit → ReportUnit) (s : State) : State := { s with ru := f s.ru }

/-- Codes of the page state in a header (R165). -/
def PageState.code : PageState → Nat
  | .free => 0
  | .filling => 1
  | .closed => 2

/-- Codes of the close reason in a header (R165). -/
def CloseReason.code : CloseReason → Nat
  | .none => 0
  | .full => 1
  | .urgent => 2
  | .idle => 3

/-- The 32 bytes of a page's header place (R165). -/
def headerBytes (x : Page) (reason : CloseReason) : List Byte :=
  padTo 32 (leBytes 1 x.state.code ++ leBytes 1 reason.code ++ leBytes 2 x.used ++ leBytes 4 x.sequence.toNat)

/-- A page's header written from the page as the Report Unit holds it. -/
def State.writeHeader (p : PageId) (reason : CloseReason) (s : State) : State :=
  s.hostWrite (s.ru.base p).toNat (headerBytes (s.ru.page p) reason)

/-! ## Opening a page (R165) -/

/-- The next page sequence, passing from 4,294,967,295 to 1 (R165). -/
def nextSequence (n : Word) : Word := if n = BitVec.allOnes 32 then 1 else n + 1

/-- The page that enters FILLING (R165): FREE, while no page is FILLING and the part is RUNNING; of two, the one other
than the last page closed, or page A. -/
def State.pageToOpen (s : State) : Option PageId :=
  if s.ru.filling.isSome || !s.running then none
  else
    let first : PageId := match s.ru.lastClosed with
      | none => .a
      | some p => otherPage p
    if (s.ru.page first).state = .free then some first
    else if (s.ru.page (otherPage first)).state = .free then some (otherPage first)
    else none

/-- A page enters FILLING in the Report Unit's state (R165). -/
def ReportUnit.fill (p : PageId) (u : ReportUnit) : ReportUnit :=
  let n := nextSequence u.sequence
  { u with sequence := n, filling := some p }.setPage p { state := .filling, used := 0, sequence := n }

/-- A page enters FILLING and its header is written (R165). -/
def State.openPage (p : PageId) (s : State) : State := (s.modReports (ReportUnit.fill p)).writeHeader p .none

/-- A page enters FILLING when one may (R165). -/
def State.openNext (s : State) : State :=
  match s.pageToOpen with
  | none => s
  | some p => s.openPage p

/-- The header write of a page that opens fails (R166): the page is FILLING in the Report Unit's state, and the part
FAULTED. -/
def State.openFails (p : PageId) (s : State) : State := (s.modReports (ReportUnit.fill p)).enterFaulted .page

/-! ## Closing a page (R166) -/

/-- A page closes (R166): its header, its state, the last page closed, the PAGE_CLOSED cause. DESIGN CHOICE (log entry 41):
the idle timer stands at 0 from the close on. -/
def State.closePage (p : PageId) (reason : CloseReason) (s : State) : State :=
  let closed : Page := { s.ru.page p with state := .closed }
  let s := s.hostWrite (s.ru.base p).toNat (headerBytes closed reason)
  s.modReports fun u =>
    ({ u with filling := none, lastClosed := some p, idle := 0 }.setPage p closed).setCause .pageClosed

/-! ## Record moves (R166) -/

/-- What a record move finds: nothing to do; the head record does not fit and the page closes FULL first; or the head
record is written. -/
inductive MoveCase
  | nothing
  | noRoom (p : PageId)
  | write (p : PageId) (r : Record) (rest : List Record)
  deriving DecidableEq, Repr

/-- The case of the next move (R166). -/
def State.moveCase (s : State) : MoveCase :=
  match s.ru.filling, s.ru.fifo with
  | some p, r :: rest =>
    if !s.running then .nothing
    else if s.ru.pageLength < (s.ru.page p).used + r.report.places then .noRoom p
    else .write p r rest
  | _, _ => .nothing

/-- The head record written into the FILLING page: its places, the URGENT cause, and the record out of the FIFO
(R166). -/
def State.writeRecord (p : PageId) (r : Record) (rest : List Record) (s : State) : State :=
  let x := s.ru.page p
  let s := s.hostWrite ((s.ru.base p).toNat + 32 * (1 + x.used)) r.bytes
  s.modReports fun u =>
    let u := { u with fifo := rest }.setPage p { x with used := x.used + r.report.places }
    if r.report.urgent then u.setCause .urgent else u

/-- The close that follows a move: FULL, URGENT, or none (R166). -/
def State.closeAfter (p : PageId) (r : Record) (s : State) : Option CloseReason :=
  if s.ru.pageLength ≤ (s.ru.page p).used then some .full
  else if r.report.urgent && s.ru.closeOnUrgent then some .urgent
  else none

/-- The idle timer restarts from 0 (R166). -/
def State.restartIdle (s : State) : State := s.modReports fun u => { u with idle := 0 }

/-- One record move (R166). -/
def State.moveRecord (s : State) : State :=
  match s.moveCase with
  | .nothing => s
  | .noRoom p => (s.closePage p .full).openNext
  | .write p r rest =>
    let s := s.writeRecord p r rest
    match s.closeAfter p r with
    | some reason => (s.closePage p reason).openNext
    | none => s.restartIdle

/-- A move up to the close that follows it or that makes room, with that page and reason; none when no close follows. -/
def State.moveToClose (s : State) : Option (State × PageId × CloseReason) :=
  match s.moveCase with
  | .nothing => none
  | .noRoom p => some (s, p, .full)
  | .write p r rest => ((s.writeRecord p r rest).closeAfter p r).map fun reason => (s.writeRecord p r rest, p, reason)

/-- The write of the head record's places fails: the record stays at the head (R166). DESIGN CHOICE (log entry 6): the three
places of a RELEASE are one write, so none of them is left in host memory. -/
def State.recordFails (s : State) : State :=
  match s.moveCase with
  | .write _ _ _ => s.enterFaulted .page
  | .noRoom _ => s
  | .nothing => s

/-- A header write that closes a page fails: the page stays FILLING (R166). -/
def State.closeFails : Option (State × PageId × CloseReason) → State → State
  | none, s => s
  | some (s', _, _), _ => s'.enterFaulted .page

/-- The header write of the page that opens after a close fails (R165, R166). -/
def State.openAfterFails : Option (State × PageId × CloseReason) → State → State
  | none, s => s
  | some (s', p, reason), s =>
    let s' := s'.closePage p reason
    match s'.pageToOpen with
    | none => s
    | some q => s'.openFails q

/-! ## The idle timer (R166) -/

/-- The close of the idle timer, when it has reached the idle-close time on a page with a place used. -/
def State.idleClose (s : State) : Option (State × PageId × CloseReason) :=
  match s.ru.filling with
  | none => none
  | some p =>
    if s.running && 1 ≤ (s.ru.page p).used && s.ru.idleClose ≤ s.ru.idle then some (s, p, .idle) else none

/-- The idle timer expires (R166). -/
def State.expireIdle (s : State) : State :=
  match s.idleClose with
  | none => s
  | some (s, p, reason) => (s.closePage p reason).openNext

/-! ## PAGE_RETURN (R167) -/

/-- The page that PAGE_RETURN names by bit 0 (R167). -/
def returnedPage (value : Word) : PageId := if value.getLsbD 0 then .b else .a

/-- A page becomes FREE in the Report Unit's state (its places and sequence: log entry 45). -/
def State.freePage (p : PageId) (s : State) : State := s.modReports (ReportUnit.setPage p Page.initial)

/-- PAGE_RETURN (R167). -/
def State.returnPage (p : PageId) (s : State) : State :=
  if !s.working then s
  else if (s.ru.page p).state ≠ .closed then s.modReports (ReportUnit.setCause .badReturn)
  else if !s.running then s.freePage p
  else
    let s := (s.freePage p).writeHeader p .none
    if s.ru.filling.isNone then s.openPage p else s

/-- The FREE header write of a returned page fails (R167): the page is FREE in the Report Unit's state. -/
def State.returnFreeFails (p : PageId) (s : State) : State :=
  if s.running && (s.ru.page p).state = .closed then (s.freePage p).enterFaulted .page else s

/-- The header write of a returned page as it opens fails (R167, R165). -/
def State.returnOpenFails (p : PageId) (s : State) : State :=
  if s.running && (s.ru.page p).state = .closed && s.ru.filling.isNone then
    ((s.freePage p).writeHeader p .none).openFails p
  else s

/-! ## START at the Report Unit (R155, R165) -/

/-- The setup values taken, both pages FREE, the last page closed none (R165). -/
def ReportUnit.takeSetup (q : Setup) (u : ReportUnit) : ReportUnit :=
  { u with baseA := q.baseA, baseB := q.baseB, pageLength := q.pageLength, closeOnUrgent := q.closeOnUrgent,
           idleClose := q.idleClose, pageA := Page.initial, pageB := Page.initial, filling := none,
           lastClosed := none }

/-- The header writes of START, after the entry to RUNNING: both FREE, then page A FILLING (R165). DESIGN CHOICE (log entry
6): of the FREE headers page A's is written first. -/
def State.startPages (s : State) : State := ((s.writeHeader .a .none).writeHeader .b .none).openNext

/-- One of the header writes of START fails (R165), in the order of `State.startPages` (log entry 6). -/
def State.startPagesFail (which : Fin 3) (s : State) : State :=
  match which with
  | 0 => s.enterFaulted .page
  | 1 => (s.writeHeader .a .none).enterFaulted .page
  | 2 => ((s.writeHeader .a .none).writeHeader .b .none).openFails .a

/-- A soft reset at the Report Unit (R170; the FREE pages' places and sequence: log entry 45). -/
def ReportUnit.softReset (u : ReportUnit) : ReportUnit :=
  { u with fifo := [], pageA := Page.initial, pageB := Page.initial, filling := none, lastClosed := none, idle := 0,
           cause := 0, causeEnable := 0 }

end Sys2Proof.Machine
end

