-- ==== Sys2Proof/Machine/Slot.lean ====
section
/-! DEFINITION. The work board's slots as bytes (R158, Table 10-4): an order's code and argument bytes, their reading, and
the command that a posted order becomes. -/

namespace Sys2Proof.Machine

/-! ## Order codes and argument bytes (Table 10-5, R158) -/

/-- Order codes (Table 10-5). -/
def orderCode : Order → Byte
  | .bad code => code
  | .putRecipe _ => 1
  | .dropRecipe _ => 2
  | .admitLot _ => 3
  | .amendLot _ _ _ => 4
  | .retireLot _ => 5
  | .mapCell _ _ _ => 6
  | .unmapCell _ => 7
  | .freeze _ _ => 8
  | .setCellService _ _ _ => 9
  | .clearLinkCounts _ => 10
  | .endRun _ => 11
  | .pauseCell _ => 12
  | .resumeCell _ => 13
  | .putLimitSet _ => 14
  | .dropLimitSet _ => 15
  | .placeHold _ _ _ => 16
  | .ackHold _ => 17
  | .dispose _ _ => 18
  | .disposeLot _ _ => 19
  | .confirm _ _ => 20
  | .decline _ _ => 21
  | .dispatchNow => 22
  | .openShip _ _ _ => 23
  | .addToShip _ _ => 24
  | .removeFromShip _ _ => 25
  | .cancelShip _ => 26
  | .releaseShip _ _ => 27
  | .setClock _ => 28
  | .setFloorMode _ => 29
  | .read _ _ _ => 30

/-- A two-byte field. -/
def halfBytes (x : Half) : List Byte := leBytes 2 x.toNat
/-- A four-byte field. -/
def wordBytes (x : Word) : List Byte := leBytes 4 x.toNat
/-- An eight-byte field. -/
def addrBytes (x : Addr) : List Byte := leBytes 8 x.toNat

/-- A step of ADMIT_LOT. -/
def stepArgBytes (a : StepArgs) : List Byte := a.recipe :: a.limitSet :: halfBytes a.lossAllowance

/-- An entry of PUT_LIMIT_SET's buffer. -/
def entryArgBytes (e : EntryArgs) : List Byte :=
  e.metric :: e.bin :: (wordBytes e.level1 ++ (wordBytes e.level2 ++ (e.condition :: e.holdClass ::
    (wordBytes e.band ++ [e.enabled]))))

/-- The argument bytes of an order, in the sequence in which its rule lists them (R158); for PUT_LIMIT_SET, those of its
buffer. -/
def orderArgBytes : Order → List Byte
  | .bad _ => []
  | .putRecipe a =>
    a.number :: (wordBytes a.programId ++ (a.testerClass :: a.handlerClass :: a.tempClass :: a.soakMinutes ::
      (halfBytes a.kitCode ++ (a.minSites :: a.maxSites :: (halfBytes a.cycleTime ++ (halfBytes a.passSet ++
        (halfBytes a.retestSet ++ halfBytes a.retestCap)))))))
  | .dropRecipe r => [r]
  | .admitLot a =>
    a.lotNumber.toList ++ (halfBytes a.startQuantity ++ (wordBytes a.dueMinute ++ (a.priority :: a.stepCount ::
      (stepArgBytes a.steps[0] ++ (stepArgBytes a.steps[1] ++ (stepArgBytes a.steps[2] ++ stepArgBytes a.steps[3]))))))
  | .amendLot lot due priority => halfBytes lot ++ (wordBytes due ++ [priority])
  | .retireLot lot => halfBytes lot
  | .mapCell cell port tap => [cell, port, tap]
  | .unmapCell cell => [cell]
  | .freeze cell action => [cell, action]
  | .setCellService cell action policy => [cell, action, policy]
  | .clearLinkCounts port => [port]
  | .endRun cell => [cell]
  | .pauseCell cell => [cell]
  | .resumeCell cell => [cell]
  | .putLimitSet a =>
    a.number :: (halfBytes a.minUnits ++ (halfBytes a.interval ++ (halfBytes a.siteMinUnits ++ (a.entryCount ::
      a.entries.flatMap entryArgBytes))))
  | .dropLimitSet n => [n]
  | .placeHold lot holdClass reason => halfBytes lot ++ (holdClass :: halfBytes reason)
  | .ackHold hold => halfBytes hold
  | .dispose hold disposition => halfBytes hold ++ [disposition]
  | .disposeLot lot disposition => halfBytes lot ++ [disposition]
  | .confirm cell lot => cell :: halfBytes lot
  | .decline cell lot => cell :: halfBytes lot
  | .dispatchNow => []
  | .openShip kind customer auto => kind :: (wordBytes customer ++ [auto])
  | .addToShip ship lot => ship :: halfBytes lot
  | .removeFromShip ship lot => ship :: halfBytes lot
  | .cancelShip ship => [ship]
  | .releaseShip ship mode => [ship, mode]
  | .setClock seconds => wordBytes seconds
  | .setFloorMode mode => [mode]
  | .read kind index buffer => kind :: (halfBytes index ++ addrBytes buffer)

/-! ## Reading argument bytes -/

/-- The byte at an offset, 0 beyond the end. -/
def byteAt (bs : List Byte) (i : Nat) : Byte := bs[i]?.getD 0
/-- The two-byte field at an offset. -/
def halfAt (bs : List Byte) (i : Nat) : Half := BitVec.ofNat 16 (ofLeBytes ((bs.drop i).take 2))
/-- The four-byte field at an offset. -/
def wordAt (bs : List Byte) (i : Nat) : Word := BitVec.ofNat 32 (ofLeBytes ((bs.drop i).take 4))
/-- The eight-byte field at an offset. -/
def addrAt (bs : List Byte) (i : Nat) : Addr := BitVec.ofNat 64 (ofLeBytes ((bs.drop i).take 8))

/-- A step of ADMIT_LOT at an offset. -/
def stepAt (bs : List Byte) (i : Nat) : StepArgs :=
  { recipe := byteAt bs i, limitSet := byteAt bs (i + 1), lossAllowance := halfAt bs (i + 2) }

/-- An entry of PUT_LIMIT_SET's buffer at the front of bytes. -/
def entryAt (bs : List Byte) : EntryArgs :=
  { metric := byteAt bs 0, bin := byteAt bs 1, level1 := wordAt bs 2, level2 := wordAt bs 6, condition := byteAt bs 10,
    holdClass := byteAt bs 11, band := wordAt bs 12, enabled := byteAt bs 16 }

/-- So many entries, one after another, 17 bytes each. -/
def entriesAt : Nat → List Byte → List EntryArgs
  | 0, _ => []
  | n + 1, bs => entryAt bs :: entriesAt n (bs.drop 17)

/-- The order that a code and argument bytes spell (R158, Table 10-5); for PUT_LIMIT_SET the bytes of its buffer. -/
def readOrder (code : Byte) (bs : List Byte) : Order :=
  match code.toNat with
  | 1 => .putRecipe
      { number := byteAt bs 0, programId := wordAt bs 1, testerClass := byteAt bs 5, handlerClass := byteAt bs 6,
        tempClass := byteAt bs 7, soakMinutes := byteAt bs 8, kitCode := halfAt bs 9, minSites := byteAt bs 11,
        maxSites := byteAt bs 12, cycleTime := halfAt bs 13, passSet := halfAt bs 15, retestSet := halfAt bs 17,
        retestCap := halfAt bs 19 }
  | 2 => .dropRecipe (byteAt bs 0)
  | 3 => .admitLot
      { lotNumber := Vector.ofFn fun i => byteAt bs i.val, startQuantity := halfAt bs 16, dueMinute := wordAt bs 18,
        priority := byteAt bs 22, stepCount := byteAt bs 23,
        steps := Vector.ofFn fun i => stepAt bs (24 + 4 * i.val) }
  | 4 => .amendLot (halfAt bs 0) (wordAt bs 2) (byteAt bs 6)
  | 5 => .retireLot (halfAt bs 0)
  | 6 => .mapCell (byteAt bs 0) (byteAt bs 1) (byteAt bs 2)
  | 7 => .unmapCell (byteAt bs 0)
  | 8 => .freeze (byteAt bs 0) (byteAt bs 1)
  | 9 => .setCellService (byteAt bs 0) (byteAt bs 1) (byteAt bs 2)
  | 10 => .clearLinkCounts (byteAt bs 0)
  | 11 => .endRun (byteAt bs 0)
  | 12 => .pauseCell (byteAt bs 0)
  | 13 => .resumeCell (byteAt bs 0)
  | 14 => .putLimitSet
      { number := byteAt bs 0, minUnits := halfAt bs 1, interval := halfAt bs 3, siteMinUnits := halfAt bs 5,
        entryCount := byteAt bs 7, entries := entriesAt (byteAt bs 7).toNat (bs.drop 8) }
  | 15 => .dropLimitSet (byteAt bs 0)
  | 16 => .placeHold (halfAt bs 0) (byteAt bs 2) (halfAt bs 3)
  | 17 => .ackHold (halfAt bs 0)
  | 18 => .dispose (halfAt bs 0) (byteAt bs 2)
  | 19 => .disposeLot (halfAt bs 0) (byteAt bs 2)
  | 20 => .confirm (byteAt bs 0) (halfAt bs 1)
  | 21 => .decline (byteAt bs 0) (halfAt bs 1)
  | 22 => .dispatchNow
  | 23 => .openShip (byteAt bs 0) (wordAt bs 1) (byteAt bs 5)
  | 24 => .addToShip (byteAt bs 0) (halfAt bs 1)
  | 25 => .removeFromShip (byteAt bs 0) (halfAt bs 1)
  | 26 => .cancelShip (byteAt bs 0)
  | 27 => .releaseShip (byteAt bs 0) (byteAt bs 1)
  | 28 => .setClock (wordAt bs 0)
  | 29 => .setFloorMode (byteAt bs 0)
  | 30 => .read (byteAt bs 0) (halfAt bs 1) (addrAt bs 3)
  | _ => .bad code

/-- The command that an order posted in a slot becomes. -/
def orderCommand (slot : BoardSlot) : Order → Instr
  | .bad code => .badOrder slot code
  | .putRecipe a => .putRecipe slot a
  | .dropRecipe r => .dropRecipe slot r
  | .admitLot a => .admitLot slot a
  | .amendLot lot due priority => .amendLot slot lot due priority
  | .retireLot lot => .retireLot slot lot
  | .mapCell cell port tap => .mapCell slot cell port tap
  | .unmapCell cell => .unmapCell slot cell
  | .freeze cell action => .freeze slot cell action
  | .setCellService cell action policy => .setCellService slot cell action policy
  | .clearLinkCounts port => .clearLinkCounts slot port
  | .endRun cell => .endRun slot cell
  | .pauseCell cell => .pauseCell slot cell
  | .resumeCell cell => .resumeCell slot cell
  | .putLimitSet a => .putLimitSet slot a
  | .dropLimitSet n => .dropLimitSet slot n
  | .placeHold lot holdClass reason => .placeHold slot lot holdClass reason
  | .ackHold hold => .ackHold slot hold
  | .dispose hold disposition => .dispose slot hold disposition
  | .disposeLot lot disposition => .disposeLot slot lot disposition
  | .confirm cell lot => .confirm slot cell lot
  | .decline cell lot => .decline slot cell lot
  | .dispatchNow => .dispatchNow slot
  | .openShip kind customer auto => .openShip slot kind customer auto
  | .addToShip ship lot => .addToShip slot ship lot
  | .removeFromShip ship lot => .removeFromShip slot ship lot
  | .cancelShip ship => .cancelShip slot ship
  | .releaseShip ship mode => .releaseShip slot ship mode
  | .setClock seconds => .setClock slot seconds
  | .setFloorMode mode => .setFloorMode slot mode
  | .read kind index buffer => .read slot kind index buffer

end Sys2Proof.Machine
end

