-- ==== Sys2Proof/Machine/Board.lean ====
section
/-! DEFINITION. Chapter 10, the Order Scanner: scan passes, the taking of an order, its effect on the block that owns it,
and the failures of the accesses it makes. -/

namespace Sys2Proof.Machine

/-! ## Scan passes (R159) -/

/-- A change of the Order Scanner. -/
def State.modScanner (f : Scanner → Scanner) (s : State) : State := { s with os := f s.os }

/-- The next slot a pass reads after a slot: none at the end of the scan window. -/
def Scanner.nextSlot (x : Scanner) (i : Nat) : Option Nat := if i ≤ x.winStop then some i else none

/-- CONTROL.SCAN sets the flag while RUNNING (R159). -/
def State.scan (s : State) : State := if s.running then s.modScanner fun x => { x with scanPending := true } else s

/-- The scan pacer has reached its interval while RUNNING (R159). -/
def State.scanPacerDue (s : State) : Bool := s.running && s.os.pacerInterval ≤ s.os.pacer

/-- The scan pacer reaches its interval: the flag is set and it starts again from 0 (R159). -/
def State.expireScanPacer (s : State) : State :=
  if s.scanPacerDue then s.modScanner fun x => { x with scanPending := true, pacer := 0 } else s

/-- The conditions for a pass to start, besides that none is in progress (R159). -/
def State.startsScan (s : State) : Bool := s.os.scanPending && s.running && !s.backpressure

/-- A scan pass starts (R159): the flag is cleared and the window's first slot is next; an empty window reads no slot.
DEDUCED (log entry 4): a pass still in progress has found no further POSTED slot and has ended. -/
def State.startScan (s : State) : State :=
  if s.startsScan then s.modScanner fun x => { x with scanPending := false, scanAt := x.nextSlot x.winStart }
  else s.modScanner fun x => { x with scanAt := none }

/-! ## Taking an order (R158, R160) -/

/-- The host address of a slot (R158). -/
def State.slotAddr (s : State) (slot : BoardSlot) : Nat := s.os.boardBase.toNat + 64 * slot.val

/-- The pass in progress reaches a slot: RUNNING, a pass in progress, the slot not read yet and inside the window. -/
def State.reaches (slot : BoardSlot) (s : State) : Bool :=
  s.running && match s.os.scanAt with
    | none => false
    | some i => i ≤ slot.val && slot.val ≤ s.os.winStop

/-- The pass ends at a POSTED slot for backpressure, and sets the flag (R159). -/
def State.endScan (s : State) : State := s.modScanner fun x => { x with scanAt := none, scanPending := true }

/-- The order is counted and the pass goes on to the next slot (R158, R159). -/
def State.countOrder (slot : BoardSlot) (s : State) : State :=
  s.modScanner fun x => { x with orderCount := x.orderCount + 1, scanAt := x.nextSlot (slot.val + 1) }

/-- Step 1 of R160: TAKEN, the floor second and the new order count are written. -/
def State.takeSlot (slot : BoardSlot) (s : State) : State :=
  let s := s.countOrder slot
  let a := s.slotAddr slot
  ((s.hostWrite a [2]).hostWrite (a + 8) (leBytes 4 s.ft.clock.toNat)).hostWrite (a + 12) (leBytes 4 s.os.orderCount.toNat)

/-- The detail of an answer: the one its rule states, or a free value (log entry 8). -/
def State.detailOf (s : State) (w : Answer) : Word :=
  match w.detail with
  | some d => BitVec.ofNat 32 d
  | none => Config.freeDetail s.freeIx

/-- The index of the next free value after an answer (log entry 8). -/
def State.useDetail (w : Answer) (s : State) : State :=
  { s with freeIx := if w.detail.isNone then s.freeIx + 1 else s.freeIx }

/-- Step 3 of R160: the outcome code, the answer length, the outcome detail and the answer fields are written. -/
def State.writeOutcome (slot : BoardSlot) (w : Answer) (s : State) : State :=
  let a := s.slotAddr slot
  (((s.hostWrite (a + 2) (leBytes 1 w.outcome.code)).hostWrite (a + 3) (leBytes 1 w.fields.length)).hostWrite (a + 4)
    (leBytes 4 (s.detailOf w).toNat)).hostWrite (a + 16) w.fields |>.useDetail w

/-- Step 4 of R160: ANSWERED is written. -/
def State.writeAnswered (slot : BoardSlot) (s : State) : State := s.hostWrite (s.slotAddr slot) [3]

/-- Steps 1 to 3 of R160 with what the order's owner does. -/
def State.actInSlot (slot : BoardSlot) (act : State → Acted) (s : State) : State :=
  let r := act (s.takeSlot slot)
  r.1.writeOutcome slot r.2

/-- An order POSTED in a slot (R159, R160): taken and answered by `act` when the pass in progress reaches it; with the FIFO
at 800 the pass ends there; a slot that no pass reaches is left as it stands. -/
def State.takeOrder (slot : BoardSlot) (act : State → Acted) (s : State) : State :=
  if !s.reaches slot then s
  else if s.backpressure then s.endScan
  else (s.actInSlot slot act).writeAnswered slot

/-! ## The owners of the orders (Table 10-5) -/

/-- A code of no order is answered BAD_ORDER with detail 0 (R160). -/
def actBadOrder (s : State) : Acted := refuseWith .badOrder 0 s

/-- What the owner of an order does with it. -/
def actOf (o : Order) (s : State) : Acted :=
  match o with
  | .bad _ => actBadOrder s
  | .putRecipe a => actPutRecipe a s
  | .dropRecipe r => actDropRecipe r s
  | .admitLot a => actAdmitLot a s
  | .amendLot lot due priority => actAmendLot lot due priority s
  | .retireLot lot => actRetireLot lot s
  | .mapCell cell port tap => actMapCell cell port tap s
  | .unmapCell cell => actUnmapCell cell s
  | .freeze cell action => actFreeze cell action s
  | .setCellService cell action policy => actSetCellService cell action policy s
  | .clearLinkCounts port => actClearLinkCounts port s
  | .endRun cell => actEndRun cell s
  | .pauseCell cell => actPauseCell cell s
  | .resumeCell cell => actResumeCell cell s
  | .putLimitSet a => actPutLimitSet a s
  | .dropLimitSet n => actDropLimitSet n s
  | .placeHold lot holdClass reason => actPlaceHold lot holdClass reason s
  | .ackHold hold => actAckHold hold s
  | .dispose hold disposition => actDispose hold disposition s
  | .disposeLot lot disposition => actDisposeLot lot disposition s
  | .confirm cell lot => actConfirm cell lot s
  | .decline cell lot => actDecline cell lot s
  | .dispatchNow => actDispatchNow s
  | .openShip kind customer auto => actOpenShip kind customer auto s
  | .addToShip ship lot => actAddToShip ship lot s
  | .removeFromShip ship lot => actRemoveFromShip ship lot s
  | .cancelShip ship => actCancelShip ship s
  | .releaseShip ship mode => actReleaseShip ship mode s
  | .setClock seconds => actSetClock seconds s
  | .setFloorMode mode => actSetFloorMode mode s
  | .read kind index buffer => actRead kind index buffer s

/-! ## Failed accesses of the scanner (R154, R159, R160, R161) -/

/-- A slot read of a pass in progress fails (R159). -/
def State.slotReadFails (s : State) : State :=
  if s.running && s.os.scanAt.isSome then s.enterFaulted .board else s

/-- An action that takes a POSTED slot, made when the pass reaches it without backpressure. -/
def State.whenTaken (slot : BoardSlot) (f : State → State) (s : State) : State :=
  if !s.reaches slot then s else if s.backpressure then s.endScan else f s

/-- The write of step 1 fails: the order is not executed (R160). DESIGN CHOICE (log entry 6): step 1 is one write, so no
TAKEN is left either. Free value (log entry 7): whether the order is counted. -/
def State.takeFails (s : State) : State :=
  let counted := Config.failedTakeCounts s.freeIx
  let s := { s with freeIx := s.freeIx + 1 }
  (s.modScanner fun x => if counted then { x with orderCount := x.orderCount + 1 } else x).enterFaulted .board

/-- The read or write of an order's buffer fails: PUT_LIMIT_SET is not executed, and the slot is left TAKEN (R160, R161).
DEDUCED (log entry 44): PUT_LIMIT_SET's buffer is read after step 1, so its slot is TAKEN and the order is counted. DESIGN
CHOICE (log entry 6): READ's image is one write, so no byte of it is left. -/
def State.bufferFails (slot : BoardSlot) (s : State) : State := (s.takeSlot slot).enterFaulted .buffer

/-- The write of step 3 fails: the order's effects stand (R160). DESIGN CHOICE (log entry 6): step 3 is one write, so no
outcome byte is left either. -/
def State.outcomeFails (slot : BoardSlot) (o : Order) (s : State) : State :=
  (actOf o (s.takeSlot slot)).1.enterFaulted .board

/-- The write of step 4 fails: the order's effects and its outcome stand (R160). -/
def State.answerFails (slot : BoardSlot) (o : Order) (s : State) : State :=
  (s.actInSlot slot (actOf o)).enterFaulted .board

end Sys2Proof.Machine
end

