-- ==== Sys2Proof/Machine/Control.lean ====
section
/-! DEFINITION. Chapter 10, the part: START, resets, register writes and failed accesses to host memory. -/

namespace Sys2Proof.Machine

/-! ## START (R155) -/

/-- The host address that START reads: SETUP_ADDR_HI over SETUP_ADDR_LO, with bits 0..5 taken as 0 (Table 10-1, R155). -/
def Scanner.setupBlock (x : Scanner) : Addr := (x.setupHi ++ x.setupLo) &&& ~~~63#64

/-- The setup block's values taken by the blocks that hold them (R155 step 1, R39, R116, R156). -/
def State.takeSetup (q : Setup) (s : State) : State :=
  { s with
    os := { s.os with boardBase := q.boardBase, slotCount := q.slotCount, winStart := q.winStart, winStop := q.winStop,
                      pacerInterval := q.scanPacer }
    ru := s.ru.takeSetup q
    ports := Vector.ofFn fun p : Fin 4 =>
      { s.port p with winStart := q.windows[p].1, winStop := q.windows[p].2, arbiter := none }
    de := { s.de with params := q.params } }

/-- A mapped cell's heard flag cleared and its silence timer at 0 (R25, R51). -/
def Cell.unhear (x : Cell) : Cell := if x.mapping.isSome then { x with heard := false, silence := 0 } else x

/-- Every mapped cell unheard, then every cell's state derived with the new windows (R155 step 2). -/
def State.startCells (s : State) : State :=
  allCells.foldl (fun s c => s.deriveCell c .start) { s with cells := s.cells.map Cell.unhear }

/-- The pacers set, the scan-pending flag set, and RUNNING (R155 steps 3 and 4, R149, R159). -/
def State.startTimers (s : State) : State :=
  { s with
    ft := { s.ft with nextFiring := if s.de.params.pacer = 0 then none else some (s.minute + s.de.params.pacer) }
    os := { s.os with pacer := 0, scanPending := true, part := .running } }

/-- START up to the header writes (R155). -/
def State.startUp (b : SetupBytes) (s : State) : State := ((s.takeSetup (Setup.ofBytes b)).startCells).startTimers

/-- START (R155): taken in HALTED, where `setup` is what the read of the 64 bytes at `Scanner.setupBlock` gives
(`State.startCommand`); a failed read puts the part in FAULTED. -/
def State.start (setup : Option SetupBytes) (s : State) : State :=
  if s.os.part = .halted then
    match setup with
    | none => s.enterFaulted .setup
    | some b => (s.startUp b).startPages
  else s

/-! ## Soft reset (R20, R37, R38, R53, R58, R81, R133, R149, R157, R170) -/

/-- Every RESERVED lot enters QUEUED and joins the queue, without records (R20, log entry 11). -/
def State.returnReserved (s : State) : State :=
  allLots.foldl (fun s l => if (s.lot l).any fun x => x.state = .reserved then s.requeue l else s) s

/-- A cell record at a soft reset before its state is derived (R37, R53, R58). -/
def Cell.softReset (x : Cell) : Cell :=
  { x with heard := false, crcErrors := 0, protocolErrors := 0, slot := x.slot.clear, silence := 0 }

/-- A port record at a soft reset (R38, R58). -/
def Port.softReset (x : Port) : Port :=
  { x with arbiter := none, turn := none, crcErrors := 0, missedTurns := 0, strayFrames := 0 }

/-- An insertion record at a soft reset: SUSPENDED, with the state before its first suspension (R80, R81). -/
def Insertion.softReset (i : Insertion) : Insertion :=
  { i with before := if i.state = .suspended then i.before else some i.state, state := .suspended,
           sampleVoid := i.sampleVoid || i.state ≠ .suspended, resyncPending := false }

/-- One insertion suspended, and HALT_NOW requested when its state before suspension calls for it (R61, R81). -/
def State.suspendAtReset (s : State) (c : CellNo) : State :=
  match s.insertion c with
  | none => s
  | some i =>
    let s := s.setInsertion c (some i.softReset)
    if i.takenBy.onHandler then s.request c .haltNow else s

/-- The cells' states derived from the values of the reset, without records (R37, log entry 11). -/
def State.rederiveCells (s : State) : State :=
  { s with cells := Vector.ofFn fun c : Fin 48 => { s.cell c with state := s.derivedState c } }

/-- The Order Scanner and the part at a soft reset (R157). DESIGN CHOICE (log entry 42): the count of the stopped scan pacer
is 0. -/
def Scanner.softReset (x : Scanner) : Scanner :=
  { x with part := .halted, faultSource := .none, scanPending := false, pacer := 0, scanAt := none }

/-- A soft reset (R157). -/
def State.softReset (s : State) : State :=
  let s := s.returnReserved
  let s := { s with
    cells := s.cells.map Cell.softReset
    ports := s.ports.map Port.softReset
    de := { s.de with passPending := false, reservations := [] }
    ft := { s.ft with nextFiring := none, firing := false }
    os := s.os.softReset
    ru := s.ru.softReset }
  (allCells.foldl State.suspendAtReset s).rederiveCells

/-! ## Power-on reset (R157) -/

/-- A power-on reset: every block at its power-on values. Host memory is not touched; DEDUCED (log entry 32): the model's
own counts and the queue are kept. -/
def State.powerOn (s : State) : State :=
  { State.reset with
    ru := { ReportUnit.initial with msi := s.ru.msi }
    host := s.host
    freeIx := s.freeIx
    pending := s.pending }

/-! ## Register writes (R153) -/

/-- A write of CONTROL: SOFT_RESET, START, SCAN, each for its bit written 1 (R153). -/
def State.writeControl (value : Word) (setup : Option SetupBytes) (s : State) : State :=
  let s := if value.getLsbD 1 then s.softReset else s
  let s := if value.getLsbD 0 then s.start setup else s
  if value.getLsbD 2 then s.scan else s

/-- A register write (R153): a read-only register ignores it. -/
def State.writeRegister (r : Reg) (value : Word) (setup : Option SetupBytes) (s : State) : State :=
  match r with
  | .ident => s
  | .setupAddrLo => s.modScanner fun x => { x with setupLo := value }
  | .setupAddrHi => s.modScanner fun x => { x with setupHi := value }
  | .control => s.writeControl value setup
  | .status => s
  | .cause => s.modReports (ReportUnit.clearCauses value)
  | .causeEnable => s.modReports (ReportUnit.writeEnable value)
  | .pageReturn => s.returnPage (returnedPage value)

/-! ## Failed accesses (R154) -/

/-- A failed access to host memory, within the action that makes it; an access that the part would not make does not fail
(log entry 6). -/
def State.failAccess (x : FailedAccess) (s : State) : State :=
  match x with
  | .slotRead => s.slotReadFails
  | .slotTaken slot => s.whenTaken slot State.takeFails
  | .limitBuffer slot => s.whenTaken slot (State.bufferFails slot)
  | .imageBuffer slot => s.whenTaken slot (State.bufferFails slot)
  | .slotOutcome slot o => s.whenTaken slot (State.outcomeFails slot o)
  | .slotAnswered slot o => s.whenTaken slot (State.answerFails slot o)
  | .startHeader b which => if s.os.part = .halted then (s.startUp b).startPagesFail which else s
  | .recordPlaces => s.recordFails
  | .moveClose => State.closeFails s.moveToClose s
  | .moveOpen => State.openAfterFails s.moveToClose s
  | .idleClose => State.closeFails s.idleClose s
  | .idleOpen => State.openAfterFails s.idleClose s
  | .returnFree p => s.returnFreeFails p
  | .returnOpen p => s.returnOpenFails p

end Sys2Proof.Machine
end

