-- ==== Sys2Proof/Machine/Commands.lean ====
section
/-! DEFINITION. The meaning of every command, one definition for each row of the command table, over the operations of the
chapters. No meaning stops the part (log entry 1). -/

namespace Sys2Proof.Machine

/-- The silence timer of a cell has reached 5000 ms (R52). DEDUCED (log entry 33): an expiry at its value is taken even where
backpressure that has begun since holds the timer (R51). -/
def State.expireSilence (c : CellNo) (s : State) : State :=
  if Config.silenceMs ≤ (s.cell c).silence then s.silenceExpired c else s

/-! ## Resets, START and register writes -/

/-- A power-on reset (R157). -/
def execPowerOnReset (s : State) : Host.Outcome State Fault Refusal :=
  .next s.powerOn

/-- A PCIe hot reset is taken as a soft reset (R157). -/
def execPcieHotReset (s : State) : Host.Outcome State Fault Refusal :=
  .next s.softReset

/-- CONTROL.SOFT_RESET (R153, R157). -/
def execSoftReset (s : State) : Host.Outcome State Fault Refusal :=
  .next s.softReset

/-- CONTROL.START (R155). -/
def execStart (setup : Option SetupBytes) (s : State) : Host.Outcome State Fault Refusal :=
  .next (s.start setup)

/-- CONTROL.SCAN (R159). -/
def execScan (s : State) : Host.Outcome State Fault Refusal :=
  .next s.scan

/-- A write of CAUSE (R169). -/
def execCauseWrite (value : Word) (s : State) : Host.Outcome State Fault Refusal :=
  .next (s.modReports (ReportUnit.clearCauses value))

/-- A write of CAUSE_ENABLE (R169). -/
def execCauseEnableWrite (value : Word) (s : State) : Host.Outcome State Fault Refusal :=
  .next (s.modReports (ReportUnit.writeEnable value))

/-- A write of PAGE_RETURN (R167). -/
def execPageReturn (value : Word) (s : State) : Host.Outcome State Fault Refusal :=
  .next (s.returnPage (returnedPage value))

/-- A register write (R153). -/
def execRegisterWrite (reg : Reg) (value : Word) (setup : Option SetupBytes) (s : State) :
    Host.Outcome State Fault Refusal :=
  .next (s.writeRegister reg value setup)

/-- A failed access to host memory (R154). -/
def execHostAccessFail (access : FailedAccess) (s : State) : Host.Outcome State Fault Refusal :=
  .next (s.failAccess access)

/-! ## Scanning and the orders of the work board -/

/-- The scan pacer reaches its interval (R159). -/
def execScanPacerExpiry (s : State) : Host.Outcome State Fault Refusal :=
  .next s.expireScanPacer

/-- A scan pass starts (R159). -/
def execScanPass (s : State) : Host.Outcome State Fault Refusal :=
  .next s.startScan

/-- A POSTED slot with an unknown order code, whatever the code (R160). -/
def execBadOrder (slot : BoardSlot) (_code : Byte) (s : State) : Host.Outcome State Fault Refusal :=
  .next (s.takeOrder slot actBadOrder)

/-- PUT_RECIPE (R2) in a slot (R160). -/
def execPutRecipe (slot : BoardSlot) (a : RecipeArgs) (s : State) : Host.Outcome State Fault Refusal :=
  .next (s.takeOrder slot (actPutRecipe a))

/-- DROP_RECIPE (R3) in a slot (R160). -/
def execDropRecipe (slot : BoardSlot) (recipe : Byte) (s : State) : Host.Outcome State Fault Refusal :=
  .next (s.takeOrder slot (actDropRecipe recipe))

/-- ADMIT_LOT (R10) in a slot (R160). -/
def execAdmitLot (slot : BoardSlot) (a : LotArgs) (s : State) : Host.Outcome State Fault Refusal :=
  .next (s.takeOrder slot (actAdmitLot a))

/-- AMEND_LOT (R11) in a slot (R160). -/
def execAmendLot (slot : BoardSlot) (lot : Half) (due : Word) (priority : Byte) (s : State) :
    Host.Outcome State Fault Refusal :=
  .next (s.takeOrder slot (actAmendLot lot due priority))

/-- RETIRE_LOT (R12) in a slot (R160). -/
def execRetireLot (slot : BoardSlot) (lot : Half) (s : State) : Host.Outcome State Fault Refusal :=
  .next (s.takeOrder slot (actRetireLot lot))

/-- MAP_CELL (R22) in a slot (R160). -/
def execMapCell (slot : BoardSlot) (cell port tap : Byte) (s : State) : Host.Outcome State Fault Refusal :=
  .next (s.takeOrder slot (actMapCell cell port tap))

/-- UNMAP_CELL (R23) in a slot (R160). -/
def execUnmapCell (slot : BoardSlot) (cell : Byte) (s : State) : Host.Outcome State Fault Refusal :=
  .next (s.takeOrder slot (actUnmapCell cell))

/-- FREEZE (R26) in a slot (R160). -/
def execFreeze (slot : BoardSlot) (cell action : Byte) (s : State) : Host.Outcome State Fault Refusal :=
  .next (s.takeOrder slot (actFreeze cell action))

/-- SET_CELL_SERVICE (R28) in a slot (R160). -/
def execSetCellService (slot : BoardSlot) (cell action policy : Byte) (s : State) :
    Host.Outcome State Fault Refusal :=
  .next (s.takeOrder slot (actSetCellService cell action policy))

/-- CLEAR_LINK_COUNTS (R57) in a slot (R160). -/
def execClearLinkCounts (slot : BoardSlot) (port : Byte) (s : State) : Host.Outcome State Fault Refusal :=
  .next (s.takeOrder slot (actClearLinkCounts port))

/-- END_RUN (R74) in a slot (R160). -/
def execEndRun (slot : BoardSlot) (cell : Byte) (s : State) : Host.Outcome State Fault Refusal :=
  .next (s.takeOrder slot (actEndRun cell))

/-- PAUSE_CELL (R84) in a slot (R160). -/
def execPauseCell (slot : BoardSlot) (cell : Byte) (s : State) : Host.Outcome State Fault Refusal :=
  .next (s.takeOrder slot (actPauseCell cell))

/-- RESUME_CELL (R84) in a slot (R160). -/
def execResumeCell (slot : BoardSlot) (cell : Byte) (s : State) : Host.Outcome State Fault Refusal :=
  .next (s.takeOrder slot (actResumeCell cell))

/-- PUT_LIMIT_SET (R86) in a slot (R160). -/
def execPutLimitSet (slot : BoardSlot) (a : LimitSetArgs) (s : State) : Host.Outcome State Fault Refusal :=
  .next (s.takeOrder slot (actPutLimitSet a))

/-- DROP_LIMIT_SET (R88) in a slot (R160). -/
def execDropLimitSet (slot : BoardSlot) (limitSet : Byte) (s : State) : Host.Outcome State Fault Refusal :=
  .next (s.takeOrder slot (actDropLimitSet limitSet))

/-- PLACE_HOLD (R110) in a slot (R160). -/
def execPlaceHold (slot : BoardSlot) (lot : Half) (holdClass : Byte) (reason : Half) (s : State) :
    Host.Outcome State Fault Refusal :=
  .next (s.takeOrder slot (actPlaceHold lot holdClass reason))

/-- ACK_HOLD (R111) in a slot (R160). -/
def execAckHold (slot : BoardSlot) (hold : Half) (s : State) : Host.Outcome State Fault Refusal :=
  .next (s.takeOrder slot (actAckHold hold))

/-- DISPOSE (R112) in a slot (R160). -/
def execDispose (slot : BoardSlot) (hold : Half) (disposition : Byte) (s : State) :
    Host.Outcome State Fault Refusal :=
  .next (s.takeOrder slot (actDispose hold disposition))

/-- DISPOSE_LOT (R115) in a slot (R160). -/
def execDisposeLot (slot : BoardSlot) (lot : Half) (disposition : Byte) (s : State) :
    Host.Outcome State Fault Refusal :=
  .next (s.takeOrder slot (actDisposeLot lot disposition))

/-- CONFIRM (R127) in a slot (R160). -/
def execConfirm (slot : BoardSlot) (cell : Byte) (lot : Half) (s : State) : Host.Outcome State Fault Refusal :=
  .next (s.takeOrder slot (actConfirm cell lot))

/-- DECLINE (R128) in a slot (R160). -/
def execDecline (slot : BoardSlot) (cell : Byte) (lot : Half) (s : State) : Host.Outcome State Fault Refusal :=
  .next (s.takeOrder slot (actDecline cell lot))

/-- DISPATCH_NOW (R132) in a slot (R160). -/
def execDispatchNow (slot : BoardSlot) (s : State) : Host.Outcome State Fault Refusal :=
  .next (s.takeOrder slot actDispatchNow)

/-- OPEN_SHIP (R138) in a slot (R160). -/
def execOpenShip (slot : BoardSlot) (kind : Byte) (customer : Word) (auto : Byte) (s : State) :
    Host.Outcome State Fault Refusal :=
  .next (s.takeOrder slot (actOpenShip kind customer auto))

/-- ADD_TO_SHIP (R139) in a slot (R160). -/
def execAddToShip (slot : BoardSlot) (ship : Byte) (lot : Half) (s : State) : Host.Outcome State Fault Refusal :=
  .next (s.takeOrder slot (actAddToShip ship lot))

/-- REMOVE_FROM_SHIP (R140) in a slot (R160). -/
def execRemoveFromShip (slot : BoardSlot) (ship : Byte) (lot : Half) (s : State) : Host.Outcome State Fault Refusal :=
  .next (s.takeOrder slot (actRemoveFromShip ship lot))

/-- CANCEL_SHIP (R141) in a slot (R160). -/
def execCancelShip (slot : BoardSlot) (ship : Byte) (s : State) : Host.Outcome State Fault Refusal :=
  .next (s.takeOrder slot (actCancelShip ship))

/-- RELEASE_SHIP (R143) in a slot (R160). -/
def execReleaseShip (slot : BoardSlot) (ship mode : Byte) (s : State) : Host.Outcome State Fault Refusal :=
  .next (s.takeOrder slot (actReleaseShip ship mode))

/-- SET_CLOCK (R148) in a slot (R160). -/
def execSetClock (slot : BoardSlot) (seconds : Word) (s : State) : Host.Outcome State Fault Refusal :=
  .next (s.takeOrder slot (actSetClock seconds))

/-- SET_FLOOR_MODE (R150) in a slot (R160). -/
def execSetFloorMode (slot : BoardSlot) (mode : Byte) (s : State) : Host.Outcome State Fault Refusal :=
  .next (s.takeOrder slot (actSetFloorMode mode))

/-- READ (R161) in a slot (R160). -/
def execRead (slot : BoardSlot) (kind : Byte) (index : Half) (buffer : Addr) (s : State) :
    Host.Outcome State Fault Refusal :=
  .next (s.takeOrder slot (actRead kind index buffer))

/-! ## Frames, timer expiries, dispatch and report pages -/

/-- A turn begins (R41 to R43). -/
def execTurnStart (port : PortNo) (s : State) : Host.Outcome State Fault Refusal :=
  .next (s.beginTurn port)

/-- No frame begins within 2 ms (R44). -/
def execListenTimeout (port : PortNo) (s : State) : Host.Outcome State Fault Refusal :=
  .next (s.listenExpired port)

/-- A frame with a bad CRC, or a broken frame (R46). -/
def execBadCrcFrame (port : PortNo) (s : State) : Host.Outcome State Fault Refusal :=
  .next (s.receiveBad port)

/-- A stray frame (R47). -/
def execStrayFrame (port : PortNo) (address kind length : Byte) (s : State) : Host.Outcome State Fault Refusal :=
  .next (s.receiveStray port address kind length)

/-- A TURN_END frame (R44). -/
def execTurnEnd (port : PortNo) (address : Byte) (s : State) : Host.Outcome State Fault Refusal :=
  .next (s.receiveTurnEnd port address)

/-- A STATUS frame (R49). -/
def execStatus (port : PortNo) (address : Byte) (frame : StatusFrame) (s : State) :
    Host.Outcome State Fault Refusal :=
  .next (s.receive port address (State.takeStatus frame))

/-- An IDENT frame (R24). -/
def execIdent (port : PortNo) (address : Byte) (frame : IdentFrame) (s : State) : Host.Outcome State Fault Refusal :=
  .next (s.receive port address (fun c s => s.takeIdent c frame))

/-- A START_INDEX frame (R72). -/
def execStartIndex (port : PortNo) (address : Byte) (timestamp : Word) (siteMask : Byte) (s : State) :
    Host.Outcome State Fault Refusal :=
  .next (s.receive port address (State.deliver fun c s => s.takeStartIndex c timestamp siteMask))

/-- A UNIT frame (R69). -/
def execUnit (port : PortNo) (address site bin kind : Byte) (number : Half) (s : State) :
    Host.Outcome State Fault Refusal :=
  .next (s.receive port address
    (State.deliver fun c s => s.takeUnitFrame c site.toNat bin.toNat kind.toNat number.toNat))

/-- A UNIT frame of kind RETEST (R71). -/
def execUnitRetest (port : PortNo) (address site bin : Byte) (original : Half) (s : State) :
    Host.Outcome State Fault Refusal :=
  .next (s.receive port address (State.deliver fun c s => s.takeRetest c site.toNat bin.toNat original.toNat))

/-- An END frame (R75 to R79). -/
def execEndOfRun (port : PortNo) (address : Byte) (frame : EndFrame) (s : State) : Host.Outcome State Fault Refusal :=
  .next (s.receive port address (State.deliver fun c s => s.takeEnd c frame))

/-- A silence timer reaches 5000 ms (R52). -/
def execSilenceExpiry (cell : CellNo) (s : State) : Host.Outcome State Fault Refusal :=
  .next (s.expireSilence cell)

/-- A kit timer expires (R65). -/
def execKitTimerExpiry (cell : CellNo) (s : State) : Host.Outcome State Fault Refusal :=
  .next (s.kitExpiry cell)

/-- A load timer expires (R65). -/
def execLoadTimerExpiry (cell : CellNo) (s : State) : Host.Outcome State Fault Refusal :=
  .next (s.loadExpiry cell)

/-- A soak timer expires (R65). -/
def execSoakTimerExpiry (cell : CellNo) (s : State) : Host.Outcome State Fault Refusal :=
  .next (s.soakExpiry cell)

/-- A dispatch pass (R123, R124). -/
def execDispatchPass (s : State) : Host.Outcome State Fault Refusal :=
  .next s.runPass

/-- The count that changes the floor minute (R147). -/
def execMinuteNotice (s : State) : Host.Outcome State Fault Refusal :=
  .next s.minuteNotice

/-- A reservation entry expires (R129). -/
def execReservationExpiry (cell : CellNo) (s : State) : Host.Outcome State Fault Refusal :=
  .next (s.expireReservation cell)

/-- The dispatch pacer fires (R149). -/
def execDispatchPacerFire (s : State) : Host.Outcome State Fault Refusal :=
  .next s.firePacer

/-- One record move (R166). -/
def execRecordMove (s : State) : Host.Outcome State Fault Refusal :=
  .next s.moveRecord

/-- The idle timer expires (R166). -/
def execIdleTimerExpiry (s : State) : Host.Outcome State Fault Refusal :=
  .next s.expireIdle

end Sys2Proof.Machine
end

