-- ==== Sys2Proof/Machine/Dispatch.lean ====
section
/-! DEFINITION. The meaning of each command: one direct call for each constructor. -/

namespace Sys2Proof.Machine

def exec (i : Instr) (s : State) : Host.Outcome State Fault Refusal :=
  match i with
  | .powerOnReset => Sys2Proof.Machine.execPowerOnReset s
  | .pcieHotReset => Sys2Proof.Machine.execPcieHotReset s
  | .softReset => Sys2Proof.Machine.execSoftReset s
  | .start setup => Sys2Proof.Machine.execStart setup s
  | .scan => Sys2Proof.Machine.execScan s
  | .causeWrite value => Sys2Proof.Machine.execCauseWrite value s
  | .causeEnableWrite value => Sys2Proof.Machine.execCauseEnableWrite value s
  | .pageReturn value => Sys2Proof.Machine.execPageReturn value s
  | .registerWrite reg value setup => Sys2Proof.Machine.execRegisterWrite reg value setup s
  | .hostAccessFail access => Sys2Proof.Machine.execHostAccessFail access s
  | .scanPacerExpiry => Sys2Proof.Machine.execScanPacerExpiry s
  | .scanPass => Sys2Proof.Machine.execScanPass s
  | .badOrder slot code => Sys2Proof.Machine.execBadOrder slot code s
  | .putRecipe slot a => Sys2Proof.Machine.execPutRecipe slot a s
  | .dropRecipe slot recipe => Sys2Proof.Machine.execDropRecipe slot recipe s
  | .admitLot slot a => Sys2Proof.Machine.execAdmitLot slot a s
  | .amendLot slot lot due priority => Sys2Proof.Machine.execAmendLot slot lot due priority s
  | .retireLot slot lot => Sys2Proof.Machine.execRetireLot slot lot s
  | .mapCell slot cell port tap => Sys2Proof.Machine.execMapCell slot cell port tap s
  | .unmapCell slot cell => Sys2Proof.Machine.execUnmapCell slot cell s
  | .freeze slot cell action => Sys2Proof.Machine.execFreeze slot cell action s
  | .setCellService slot cell action policy => Sys2Proof.Machine.execSetCellService slot cell action policy s
  | .clearLinkCounts slot port => Sys2Proof.Machine.execClearLinkCounts slot port s
  | .endRun slot cell => Sys2Proof.Machine.execEndRun slot cell s
  | .pauseCell slot cell => Sys2Proof.Machine.execPauseCell slot cell s
  | .resumeCell slot cell => Sys2Proof.Machine.execResumeCell slot cell s
  | .putLimitSet slot a => Sys2Proof.Machine.execPutLimitSet slot a s
  | .dropLimitSet slot limitSet => Sys2Proof.Machine.execDropLimitSet slot limitSet s
  | .placeHold slot lot holdClass reason => Sys2Proof.Machine.execPlaceHold slot lot holdClass reason s
  | .ackHold slot hold => Sys2Proof.Machine.execAckHold slot hold s
  | .dispose slot hold disposition => Sys2Proof.Machine.execDispose slot hold disposition s
  | .disposeLot slot lot disposition => Sys2Proof.Machine.execDisposeLot slot lot disposition s
  | .confirm slot cell lot => Sys2Proof.Machine.execConfirm slot cell lot s
  | .decline slot cell lot => Sys2Proof.Machine.execDecline slot cell lot s
  | .dispatchNow slot => Sys2Proof.Machine.execDispatchNow slot s
  | .openShip slot kind customer auto => Sys2Proof.Machine.execOpenShip slot kind customer auto s
  | .addToShip slot ship lot => Sys2Proof.Machine.execAddToShip slot ship lot s
  | .removeFromShip slot ship lot => Sys2Proof.Machine.execRemoveFromShip slot ship lot s
  | .cancelShip slot ship => Sys2Proof.Machine.execCancelShip slot ship s
  | .releaseShip slot ship mode => Sys2Proof.Machine.execReleaseShip slot ship mode s
  | .setClock slot seconds => Sys2Proof.Machine.execSetClock slot seconds s
  | .setFloorMode slot mode => Sys2Proof.Machine.execSetFloorMode slot mode s
  | .read slot kind index buffer => Sys2Proof.Machine.execRead slot kind index buffer s
  | .turnStart port => Sys2Proof.Machine.execTurnStart port s
  | .listenTimeout port => Sys2Proof.Machine.execListenTimeout port s
  | .badCrcFrame port => Sys2Proof.Machine.execBadCrcFrame port s
  | .strayFrame port address kind length => Sys2Proof.Machine.execStrayFrame port address kind length s
  | .turnEnd port address => Sys2Proof.Machine.execTurnEnd port address s
  | .status port address frame => Sys2Proof.Machine.execStatus port address frame s
  | .ident port address frame => Sys2Proof.Machine.execIdent port address frame s
  | .startIndex port address timestamp siteMask => Sys2Proof.Machine.execStartIndex port address timestamp siteMask s
  | .unit port address site bin kind number => Sys2Proof.Machine.execUnit port address site bin kind number s
  | .unitRetest port address site bin original => Sys2Proof.Machine.execUnitRetest port address site bin original s
  | .endOfRun port address frame => Sys2Proof.Machine.execEndOfRun port address frame s
  | .silenceExpiry cell => Sys2Proof.Machine.execSilenceExpiry cell s
  | .kitTimerExpiry cell => Sys2Proof.Machine.execKitTimerExpiry cell s
  | .loadTimerExpiry cell => Sys2Proof.Machine.execLoadTimerExpiry cell s
  | .soakTimerExpiry cell => Sys2Proof.Machine.execSoakTimerExpiry cell s
  | .dispatchPass => Sys2Proof.Machine.execDispatchPass s
  | .minuteNotice => Sys2Proof.Machine.execMinuteNotice s
  | .reservationExpiry cell => Sys2Proof.Machine.execReservationExpiry cell s
  | .dispatchPacerFire => Sys2Proof.Machine.execDispatchPacerFire s
  | .recordMove => Sys2Proof.Machine.execRecordMove s
  | .idleTimerExpiry => Sys2Proof.Machine.execIdleTimerExpiry s

end Sys2Proof.Machine
end

