-- ==== Sys2Proof/Machine/Time.lean ====
section
/-! DEFINITION. The part's time base: what passes in one millisecond, and the part's own events that are due. DESIGN
CHOICE (log entries 2 and 3): on an empty queue the part raises its due events in the order below, and otherwise one
millisecond passes. -/

namespace Sys2Proof.Machine

/-! ## One millisecond -/

/-- The kit and load timers run (R63). -/
def State.timersRun (s : State) : Bool := s.working && !s.backpressure

/-- An insertion's timers one second on (R63). -/
def Insertion.second (runs : Bool) (i : Insertion) : Insertion :=
  { i with
    kitTimer := if runs && i.state = .kitWait then i.kitTimer - 1 else i.kitTimer
    loadTimer := if runs && i.state = .loading then i.loadTimer - 1 else i.loadTimer
    soakTimer := if i.state = .soaking && i.soakStarted then i.soakTimer - 1 else i.soakTimer }

/-- A second of the part's time base passes: the insertion timers count (R63), and the floor clock counts (R147). A count
that changes the floor minute is the MINUTE_NOTICE event, which is then due (log entry 14). -/
def State.passSecond (s : State) : State :=
  let s := { s with insertions := s.insertions.map (Option.map (Insertion.second s.timersRun)) }
  if s.minuteEnds then s
  else
    let s := s.countSecond
    { s with ft := { s.ft with ms := 0 } }

/-- A cell's silence timer runs: the cell is polled and its port takes turns (R51). -/
def State.silenceRuns (c : CellNo) (s : State) : Bool :=
  match (s.cell c).mapping with
  | none => false
  | some m => (s.polledTap m.port c).isSome && s.takesTurns m.port

/-- The silence timers one millisecond on (R51). -/
def State.passSilence (s : State) : State :=
  { s with cells := Vector.ofFn fun c : Fin 48 =>
      let x := s.cell c
      if s.silenceRuns c then { x with silence := x.silence + 1 } else x }

/-- A port's reply wait one millisecond on (R44). -/
def Port.passWait (x : Port) : Port := { x with turn := x.turn.map fun t => { t with wait := t.wait + 1 } }

/-- The scan pacer runs while RUNNING (R159). -/
def State.passScanPacer (s : State) : State :=
  s.modScanner fun x => { x with pacer := if s.running then x.pacer + 1 else x.pacer }

/-- The idle timer runs: a page FILLING with at least one place used, and the part RUNNING (R166). -/
def State.idleRuns (s : State) : Bool :=
  s.running && match s.ru.filling with
    | none => false
    | some p => 1 ≤ (s.ru.page p).used

/-- The idle timer one millisecond on (R166). -/
def State.passIdle (s : State) : State :=
  s.modReports fun u => { u with idle := if s.idleRuns then u.idle + 1 else u.idle }

/-- One millisecond of the part's time base. -/
def State.tick (s : State) : State :=
  let s := { s.passSilence with ports := s.ports.map Port.passWait }
  let s := s.passScanPacer.passIdle
  let s := { s with ft := { s.ft with ms := s.ft.ms + 1 } }
  if 1000 ≤ s.ft.ms then s.passSecond else s

/-! ## The part's own events that are due -/

/-- A condition as a list of one event or none. -/
def eventIf (b : Bool) (i : Instr) : List Instr := if b then [i] else []

/-- The expiries due for one cell. -/
def State.dueOfCell (s : State) (c : CellNo) : List Instr :=
  eventIf (Config.silenceMs ≤ (s.cell c).silence) (.silenceExpiry c) ++
    match s.insertion c with
    | none => []
    | some i =>
      eventIf (i.state = .kitWait && i.kitTimer = 0) (.kitTimerExpiry c) ++
        eventIf (i.state = .loading && i.loadTimer = 0) (.loadTimerExpiry c) ++
        eventIf (i.state = .soaking && i.soakStarted && i.soakTimer = 0) (.soakTimerExpiry c)

/-- The events due for one port: a turn that no frame has answered in time, or a turn that may begin. -/
def State.dueOfPort (s : State) (p : PortNo) : List Instr :=
  match (s.port p).turn with
  | some t => eventIf (Config.listenMs ≤ t.wait) (.listenTimeout p)
  | none => eventIf (s.takesTurns p) (.turnStart p)

/-- The part's own events that are due. -/
def State.due (s : State) : List Instr :=
  eventIf (1000 ≤ s.ft.ms) .minuteNotice ++
    (s.de.reservations.filter fun r => s.expires r).map (fun r => .reservationExpiry r.cell) ++
    eventIf s.pacerDue .dispatchPacerFire ++
    allCells.flatMap s.dueOfCell ++
    eventIf s.scanPacerDue .scanPacerExpiry ++
    eventIf s.idleClose.isSome .idleTimerExpiry ++
    eventIf (s.moveCase ≠ .nothing) .recordMove ++
    eventIf s.startsScan .scanPass ++
    eventIf s.startsPass .dispatchPass ++
    (List.finRange 4).flatMap s.dueOfPort

/-- What the part does on an empty queue: its due events wait in the queue, or a millisecond passes (log entry 2). -/
def State.idle (s : State) : State :=
  match s.due with
  | [] => s.tick
  | i :: rest => { s with pending := i :: rest }

end Sys2Proof.Machine
end

