-- ==== Sys2Proof/Machine/HostReads.lean ====
section
/-! DEFINITION. What the part reads of host memory, and where: the setup block, the slots of the work board, and
PUT_LIMIT_SET's buffer, each with the command that its bytes make; and the register window's writes by byte offset. Host memory
is outside the part (log entry 5), so it stands here as an argument: none is a byte whose read fails (R154). -/

namespace Sys2Proof.Machine

/-! ## Reading host memory -/

/-- Host memory as the part would read it: the byte at an address, or a failed read. -/
abbrev HostView := Nat → Option Byte

/-- The `n` bytes from an address upwards; none when the read of one of them fails (R154). -/
def HostView.read (mem : HostView) (a n : Nat) : Option (Vector Byte n) :=
  if (List.range n).all fun k => (mem (a + k)).isSome then some (Vector.ofFn fun k => (mem (a + k.val)).getD 0) else none

/-! ## START and the register window (R153, R155) -/

/-- What START's read of the setup block gives: the 64 bytes at the address in SETUP_ADDR (R155). -/
def State.setupRead (mem : HostView) (s : State) : Option SetupBytes := mem.read s.os.setupBlock.toNat 64

/-- The START that the part takes over a host memory (R155). -/
def State.startCommand (mem : HostView) (s : State) : Instr := .start (s.setupRead mem)

/-- A write of 32 bits at a byte offset of the register window; none where no register stands (R153, Table 10-1). -/
def State.windowWrite (mem : HostView) (offset : Nat) (value : Word) (s : State) : Option Instr :=
  (Reg.ofOffset? offset).map fun r => .registerWrite r value (s.setupRead mem)

/-! ## The slots of the work board (R158, R159) -/

/-- The state byte of a POSTED slot (Table 10-4). -/
def postedState : Byte := 1

/-- The code of PUT_LIMIT_SET, whose arguments stand in a buffer (Table 10-5, R158). -/
def putLimitSetCode : Byte := 14

/-- The bytes of PUT_LIMIT_SET's buffer: the eight bytes before the entries, then the entries that the entry count calls for.
DESIGN CHOICE (log entry 39): no more than eight entries are read; a greater count is refused (R86). -/
def HostView.readLimitSet (mem : HostView) (a : Nat) : Option (List Byte) :=
  (mem.read a 8).bind fun head => (mem.read (a + 8) (17 * min head[7].toNat 8)).map fun rest => head.toList ++ rest.toList

/-- The command that a POSTED slot's bytes make: its order code at offset 1 and its arguments at offset 16 (Table 10-4); for
PUT_LIMIT_SET the eight bytes there are the host address of the buffer with the arguments, whose failed read is that of
R160. -/
def postedCommand (mem : HostView) (slot : BoardSlot) (b : Vector Byte 64) : Instr :=
  let args := b.toList.drop 16
  if b[1] = putLimitSetCode then
    match mem.readLimitSet (addrAt args 0).toNat with
    | some bs => orderCommand slot (readOrder b[1] bs)
    | none => .hostAccessFail (.limitBuffer slot)
  else orderCommand slot (readOrder b[1] args)

/-- What the read of a slot makes (R158, R159): its order when the slot is POSTED, nothing for any other state value, and the
failed access of R159 when the read fails. -/
def State.slotCommand (mem : HostView) (slot : BoardSlot) (s : State) : Option Instr :=
  match mem.read (s.slotAddr slot) 64 with
  | none => some (.hostAccessFail .slotRead)
  | some b => if b[0] = postedState then some (postedCommand mem slot b) else none

end Sys2Proof.Machine
end

