-- ==== Sys2Proof/Machine/TapFrames.lean ====
section
/-! DEFINITION. The frames that a tap sends, as bytes (R45 to R47, Table 3-2): the body of each kind, and the command that the
bytes of a received frame make. -/

namespace Sys2Proof.Machine

/-! ## The bodies of Table 3-2 -/

/-- The body of a STATUS: handler state, temperature-reached flag, last applied command kind, its load tag, highest unit
number. -/
def StatusFrame.body (f : StatusFrame) : List Byte :=
  leBytes 1 f.handler.toNat ++ flagByte f.tempReached ++ leBytes 1 f.lastKind.toNat ++ leBytes 2 f.lastTag.toNat ++
    leBytes 2 f.highest.toNat

/-- The body of an IDENT: tap serial, tester class, handler class, site count, temperature set, kit code, fresh flag. -/
def IdentFrame.body (f : IdentFrame) : List Byte :=
  leBytes 4 f.serial.toNat ++ [f.testerClass, f.handlerClass, f.siteCount, f.temps] ++ leBytes 2 f.kitCode.toNat ++
    flagByte f.fresh

/-- The body of a START_INDEX: tap timestamp, site mask. -/
def startIndexBody (timestamp : Word) (mask : Byte) : List Byte := leBytes 4 timestamp.toNat ++ [mask]

/-- The body of a UNIT: site, bin, unit kind, and the unit number or the original bin in the same two bytes. -/
def unitBody (site bin kind : Byte) (number : Half) : List Byte := [site, bin, kind] ++ leBytes 2 number.toNat

/-- The body of an END: sixteen bin totals, loss count, highest unit number. -/
def EndFrame.body (f : EndFrame) : List Byte :=
  f.totals.toList.flatMap (fun t => leBytes 2 t.toNat) ++ leBytes 2 f.loss.toNat ++ leBytes 2 f.highest.toNat

/-! ## Reading a body, least significant byte first (R45) -/

/-- The flag of a body at an offset: 0 clear, 1 set (R45). DEDUCED (log entry 29): any byte but 0 is set. -/
def flagAt (bs : List Byte) (i : Nat) : Bool := byteAt bs i ≠ 0

/-- A STATUS body read. -/
def StatusFrame.ofBody (bs : List Byte) : StatusFrame :=
  { handler := byteAt bs 0, tempReached := flagAt bs 1, lastKind := byteAt bs 2, lastTag := halfAt bs 3,
    highest := halfAt bs 5 }

/-- An IDENT body read. -/
def IdentFrame.ofBody (bs : List Byte) : IdentFrame :=
  { serial := wordAt bs 0, testerClass := byteAt bs 4, handlerClass := byteAt bs 5, siteCount := byteAt bs 6,
    temps := byteAt bs 7, kitCode := halfAt bs 8, fresh := flagAt bs 10 }

/-- An END body read. -/
def EndFrame.ofBody (bs : List Byte) : EndFrame :=
  { totals := Vector.ofFn fun b : Fin 16 => halfAt bs (2 * b.val), loss := halfAt bs 32, highest := halfAt bs 34 }

/-! ## Received frames (R45 to R47) -/

/-- The command of a frame whose CRC is correct and whose body has the length of its kind (Table 3-2); for another kind it
is stray (R47). A UNIT whose unit kind is RETEST is the command UNIT_RETEST. -/
def kindCommand (p : PortNo) (address kind : Byte) (body : List Byte) : Instr :=
  match kind.toNat with
  | 1 => .status p address (StatusFrame.ofBody body)
  | 2 => .ident p address (IdentFrame.ofBody body)
  | 3 => .startIndex p address (wordAt body 0) (byteAt body 4)
  | 4 =>
    if byteAt body 2 = 1 then .unitRetest p address (byteAt body 0) (byteAt body 1) (halfAt body 3)
    else .unit p address (byteAt body 0) (byteAt body 1) (byteAt body 2) (halfAt body 3)
  | 5 => .endOfRun p address (EndFrame.ofBody body)
  | 6 => .turnEnd p address
  | _ => .strayFrame p address kind (BitVec.ofNat 8 body.length)

/-- The command that the characters received for one frame in LISTEN make (R44, R46, R47). `bs` ends with the frame's CRC, or
earlier where a gap of more than 100 µs falls or the line goes quiet: a frame that is broken so, or whose CRC is not the one
computed over address, kind, length and body, is BAD_CRC_FRAME; a frame of a kind or of a body length that Table 3-2 does not
give is STRAY_FRAME; no character at all is LISTEN_TIMEOUT. -/
def receivedCommand (p : PortNo) (bs : List Byte) : Instr :=
  match bs with
  | [] => .listenTimeout p
  | address :: kind :: length :: rest =>
    let body := rest.take length.toNat
    let crc := rest.drop length.toNat
    if crc.length = 2 ∧ ofLeBytes crc = (crc16 (address :: kind :: length :: body)).toNat then
      if tapBodyLength kind.toNat = some length.toNat then kindCommand p address kind body
      else .strayFrame p address kind length
    else .badCrcFrame p
  | _ => .badCrcFrame p

/-- The bytes of a tap's frame: outer form and CRC around a body (R45). -/
def tapFrame (address : Byte) (kind : Nat) (body : List Byte) : List Byte := frameBytes address.toNat kind body

end Sys2Proof.Machine
end

