-- ==== Sys2Proof/Safety.lean ====
section
/-! DEFINITION. What every state of the part should satisfy: the bounds and agreements that the rules state. -/

namespace Sys2Proof.Machine

/-! ## Which of the part's own events are due -/

/-- A command is due in `s`: the part's own event whose timer has reached its value, or whose conditions stand (R40, R44, R52,
R65, R123, R129, R147, R149, R159, R166). -/
def State.IsDue (s : State) : Instr → Prop
  | .minuteNotice => 1000 ≤ s.ft.ms
  | .reservationExpiry c =>
    s.working = true ∧ s.ru.occupancy < 800 ∧ ∃ r ∈ s.de.reservations, r.cell = c ∧ r.expiry ≤ s.minute
  | .dispatchPacerFire => s.working = true ∧ s.ft.firing = true
  | .silenceExpiry c => 5000 ≤ (s.cell c).silence
  | .kitTimerExpiry c => ∃ i, s.insertion c = some i ∧ i.state = .kitWait ∧ i.kitTimer = 0
  | .loadTimerExpiry c => ∃ i, s.insertion c = some i ∧ i.state = .loading ∧ i.loadTimer = 0
  | .soakTimerExpiry c => ∃ i, s.insertion c = some i ∧ i.state = .soaking ∧ i.soakStarted = true ∧ i.soakTimer = 0
  | .scanPacerExpiry => s.running = true ∧ s.os.pacerInterval ≤ s.os.pacer
  | .idleTimerExpiry =>
    s.running = true ∧ ∃ p, s.ru.filling = some p ∧ 1 ≤ (s.ru.page p).used ∧ s.ru.idleClose ≤ s.ru.idle
  | .recordMove => s.running = true ∧ s.ru.filling ≠ none ∧ s.ru.fifo ≠ []
  | .scanPass => s.os.scanPending = true ∧ s.running = true ∧ s.ru.occupancy < 800
  | .dispatchPass => s.de.passPending = true ∧ s.running = true ∧ s.ft.mode = .run ∧ s.ru.occupancy < 800
  | .listenTimeout p => ∃ t, (s.port p).turn = some t ∧ 2 ≤ t.wait
  | .turnStart p =>
    (s.port p).turn = none ∧ s.working = true ∧ s.ru.occupancy < 800 ∧ ∃ c tap, s.polledTap p c = some tap
  | _ => False

/-! ## What a taken order leaves (R158, R160) -/

/-- The pass in progress reaches the slot, and the report FIFO lets the order be taken (R159). -/
def State.Takes (slot : BoardSlot) (s : State) : Prop := s.reaches slot = true ∧ s.backpressure = false

/-- The floor's state of `t` is that of `u`: every table and block but the scanner, host memory, the index of the next free
value and the queue. -/
structure State.SameFloor (u t : State) : Prop where
  lm : t.lm = u.lm
  cells : t.cells = u.cells
  ports : t.ports = u.ports
  insertions : t.insertions = u.insertions
  limitSets : t.limitSets = u.limitSets
  hm : t.hm = u.hm
  de : t.de = u.de
  ships : t.ships = u.ships
  ft : t.ft = u.ft
  ru : t.ru = u.ru

/-- The slot of an order taken in `s` and answered in `t`: its state ANSWERED, the outcome code, the answer length, the
outcome detail where the order's rule states one, the floor second, the order count, and the answer fields (Table 10-4);
its order code and the arguments that no answer field covers stand as the host wrote them. -/
def State.SlotAnswered (s : State) (slot : BoardSlot) (o : OrderOutcome) (detail : Option Nat) (fields : List Byte)
    (t : State) : Prop :=
  let a := s.slotAddr slot
  t.hostByte a = some 3 ∧
  t.hostByte (a + 1) = s.hostByte (a + 1) ∧
  t.hostByte (a + 2) = some (BitVec.ofNat 8 o.code) ∧
  t.hostByte (a + 3) = some (BitVec.ofNat 8 fields.length) ∧
  (∀ d, detail = some d → ∀ k (h : k < (leBytes 4 d).length), t.hostByte (a + 4 + k) = some (leBytes 4 d)[k]) ∧
  (∀ k (h : k < (leBytes 4 s.ft.clock.toNat).length), t.hostByte (a + 8 + k) = some (leBytes 4 s.ft.clock.toNat)[k]) ∧
  (∀ k (h : k < (leBytes 4 (s.os.orderCount + 1).toNat).length),
    t.hostByte (a + 12 + k) = some (leBytes 4 (s.os.orderCount + 1).toNat)[k]) ∧
  (∀ k (h : k < fields.length), t.hostByte (a + 16 + k) = some fields[k]) ∧
  ∀ k, fields.length ≤ k → k < 48 → t.hostByte (a + 16 + k) = s.hostByte (a + 16 + k)

/-- The scanner after an order: the order counted, the slots up to it read, and nothing else changed. -/
def State.ScannerAfter (s : State) (slot : BoardSlot) (t : State) : Prop :=
  t.os = { s.os with orderCount := s.os.orderCount + 1, scanAt := s.os.nextSlot (slot.val + 1) } ∧ t.pending = s.pending

/-- Host memory outside the slot stands as before. -/
def State.OnlySlot (s : State) (slot : BoardSlot) (t : State) : Prop :=
  ∀ x, x < s.slotAddr slot ∨ s.slotAddr slot + 64 ≤ x → t.hostByte x = s.hostByte x

/-- A command that takes the order in the slot of `s`, answers it, writes host memory nowhere else, and leaves the floor as
it stands in `u`. -/
def Answers (i : Instr) (slot : BoardSlot) (s : State) (o : OrderOutcome) (detail : Option Nat) (fields : List Byte)
    (u : State) : Prop :=
  ∃ t, exec i s = .next t ∧ s.SlotAnswered slot o detail fields t ∧ s.ScannerAfter slot t ∧ s.OnlySlot slot t ∧
    u.SameFloor t

/-! ## What a good frame does before its content is read (R44, R47) -/

/-- A frame with this address in the port's open turn is good: its cell is `c`, fewer than four frames were taken, and the
address and mapping tests hold (R44, R47). -/
def State.Hears (s : State) (p : PortNo) (address : Byte) (c : CellNo) : Prop :=
  ∃ t, (s.port p).turn = some t ∧ t.cell = c ∧ t.frames < 4 ∧ s.addressGood p t address = true

/-- The state in which a good frame's content is read: one more place of the turn taken, and the silence timer at 0. -/
def State.heardIn (s : State) (p : PortNo) (c : CellNo) : State :=
  (s.modPort p fun x => { x with turn := x.turn.map fun t => { t with frames := t.frames + 1, wait := 0 } }).modCell c
    fun x => { x with silence := 0 }

/-- A good frame with this address that is delivered to the insertion `i` of cell `c` (R48). -/
def State.Delivers (s : State) (p : PortNo) (address : Byte) (c : CellNo) (i : Insertion) : Prop :=
  s.Hears p address c ∧ s.insertion c = some i ∧ (s.cell c).state ≠ .silent ∧ (s.cell c).state ≠ .mismatch

/-- The state in which a good frame has been discarded as a protocol error (R35, R69). -/
def State.erredIn (s : State) (p : PortNo) (c : CellNo) : State :=
  (s.heardIn p c).modCell c fun x => { x with protocolErrors := min (x.protocolErrors + 1) 65535 }

/-- The state after a command is asked for, one that takes no new load tag (R54). -/
def State.asked (s : State) (c : CellNo) (cmd : Command) : State :=
  s.modCell c fun x => { x with slot := { x.slot with desired := some cmd } }

/-- The halt command of a set that is not empty: HALT_NOW when any reason asks for it, else HALT_AT_INDEX (R66). -/
def PauseSet.halting (p : PauseSet) : Command :=
  if p.hold = some .haltNow ∨ p.lineStop = some .haltNow ∨ p.cellOrder = some .haltNow then .haltNow else .haltAtIndex

/-- No reason stands (R66). -/
def PauseSet.Empty (p : PauseSet) : Prop := p.hold = none ∧ p.lineStop = none ∧ p.cellOrder = none

/-! ## The dispatch queue -/

/-- Lot `l` stands no later than lot `m` by ready minute, then admission number, then slot (R13, R14). -/
def State.NotAfter (s : State) (l m : LotSlot) : Prop :=
  ∀ x y, s.lot l = some x → s.lot m = some y → x.ready < y.ready ∨ (x.ready = y.ready ∧
    (x.admission.toNat < y.admission.toNat ∨ (x.admission = y.admission ∧ l ≤ m)))

/-! ## Lots and their holds -/

/-- Neither an insertion record nor a reservation entry names the lot (R108, R109). -/
def State.Apart (s : State) (l : LotSlot) : Prop :=
  (∀ c i, s.insertion c = some i → i.lot ≠ l) ∧ ∀ r ∈ s.de.reservations, r.lot ≠ l

/-- The lot is ready for release (R136). -/
def Lot.Ready (x : Lot) : Prop :=
  x.state = .complete ∧ x.empty = false ∧ x.holds = [] ∧ x.quarantined = false ∧ ∀ st ∈ x.steps, st.gap = 0

/-- What a scrap of lot `l`, whose record is `x`, leaves (R114): its hold records deleted, the quarantine cleared, the lot
SCRAPPED with its steps kept and out of the queue, its run ended by ABORT (in SUSPENDED too: log entry 36) or its load
abandoned, its membership of an OPEN order ended, and a pass called for. -/
structure State.Scrapped (s : State) (l : LotSlot) (x : Lot) (u : State) : Prop where
  holds : u.hm.holds = s.hm.holds.filter fun g => g.id ∉ x.holds
  lot : ∃ y, u.lot l = some y ∧ y.state = .scrapped ∧ y.quarantined = false ∧ y.steps = x.steps ∧ y.bar = x.bar ∧
    y.tail = x.tail ∧ y.deviation = x.deviation ∧
    (∀ n o, x.ship = some n → s.ship n = some o → o.state = .opened → y.ship = none) ∧
    (x.holds.Nodup → (∀ h ∈ x.holds, ∃ g, s.hold? h = some g ∧ g.lot = l) → y.holds = [])
  queue : x.state ≠ .scrapped → u.lm.queue = if x.state = .queued then s.lm.queue.erase l else s.lm.queue
  loading : ∀ c i, s.insertionOf l = some c → s.insertion c = some i → i.takenBy = .kitWait ∨ i.takenBy = .loading →
    u.insertion c = none
  run : ∀ c i, s.insertionOf l = some c → s.insertion c = some i → i.takenBy.hasRun = true → ∃ j, u.insertion c = some j ∧
    j.abortRequested = true ∧ j.takenBy = .ending ∧ (u.cell c).slot.desired = some .abort
  pass : u.de.passPending = true

/-! ## Invariants -/

/-- Host memory as written is in its canonical form. -/
def State.MemoryCanonical (s : State) : Prop := Memory.wf s.host

/-- "Report FIFO occupancy never exceeds 1024" (R162). -/
def State.FifoFits (s : State) : Prop := s.ru.occupancy ≤ Config.fifoPlaces

/-- A fault source is present exactly in FAULTED (R154, R157). -/
def State.FaultSourceAgrees (s : State) : Prop := s.os.part = .faulted ↔ s.os.faultSource ≠ .none

/-- The counts of a cell record lie in their ranges (Table 2-1, R30, R35). -/
def Cell.Saturated (x : Cell) : Prop :=
  x.crcErrors ≤ Config.countMax ∧ x.protocolErrors ≤ Config.countMax ∧ x.loadFailures ≤ Config.loadFailureLimit

/-- The counts of a port record lie in their range (Table 3-1). -/
def Port.Saturated (x : Port) : Prop :=
  x.crcErrors ≤ Config.countMax ∧ x.missedTurns ≤ Config.countMax ∧ x.strayFrames ≤ Config.countMax

/-- Every link count, protocol-error count and load-failure count lies in its range (R30, R35, R38). -/
def State.CountsSaturate (s : State) : Prop := (∀ c, (s.cell c).Saturated) ∧ ∀ p, (s.port p).Saturated

/-- The hold table holds at most 256 records, and each lot's hold list at most 4 ids (R100, R102). -/
def State.HoldsFit (s : State) : Prop :=
  s.hm.holds.length ≤ Config.holdRecords ∧ ∀ l x, s.lot l = some x → x.holds.length ≤ Config.lotHolds

/-- Each ship order's lot list holds at most 16 lots (R135). -/
def State.ShipsFit (s : State) : Prop := ∀ n o, s.ship n = some o → o.lots.length ≤ Config.shipLots

/-- Every cell's state, but for the cells set aside, is the first row of Table 2-4 whose condition holds (R32). -/
def State.SettledOutside (aside : CellNo → Prop) (s : State) : Prop :=
  ∀ c, aside c ∨ (s.cell c).state = s.derivedState c

/-- Every cell's state is the one that R32 derives. -/
def State.CellStatesDerived (s : State) : Prop := ∀ c, (s.cell c).state = s.derivedState c

/-- The dispatch queue holds the lots whose state is QUEUED, each once, in ascending order of ready minute, then admission
number, then slot (R13, R14). -/
def State.QueueStands (s : State) : Prop :=
  (∀ l, l ∈ s.lm.queue ↔ ∃ x, s.lot l = some x ∧ x.state = .queued) ∧ s.lm.queue.Nodup ∧ s.lm.queue.Pairwise s.NotAfter

/-- units_seen equals units_tested plus the run gap, within the expected quantity (R69). -/
def Insertion.Tallies (i : Insertion) : Prop := i.unitsSeen = i.unitsTested + i.runGap ∧ i.unitsSeen ≤ i.expected

/-- The unit counts of a cell's insertion agree. -/
def State.TalliesAt (s : State) (c : CellNo) : Prop := ∀ i, s.insertion c = some i → i.Tallies

/-- The unit counts of every insertion agree (R69). -/
def State.UnitsTally (s : State) : Prop := ∀ c, s.TalliesAt c

/-- All the invariants above together. -/
structure State.Sound (s : State) : Prop where
  memory : s.MemoryCanonical
  fifo : s.FifoFits
  source : s.FaultSourceAgrees
  counts : s.CountsSaturate
  holds : s.HoldsFit
  ships : s.ShipsFit
  cells : s.CellStatesDerived
  queue : s.QueueStands
  units : s.UnitsTally

end Sys2Proof.Machine
end

