-- ==== Sys2Proof/Certificates/Slice0/Obligations.lean ====
section
/-! DEFINITION. The statements about the KF-740, in the order of OBLIGATIONS.json. Each is about the state before and after
one command; `Answers` (Safety.lean) says what an order that is taken leaves in its slot, in the scanner and in host memory,
and in which state it leaves the floor. -/

open Sys2Proof Sys2Proof.Machine

/-! ## Steps, resets and registers (chapter 10) -/

/-- A step with a command at the front of the queue is that command on the queue's rest (log entry 1: the queue is the
model's). -/
def Obligations.StepRunsTheFrontCommand : Prop :=
  ∀ (s : State) (c : Instr) (rest : List Instr),
    step { s with pending := c :: rest } = exec c { s with pending := rest }

/-- The events that are due are those whose timer has reached its value or whose conditions stand (R40, R44, R52, R65, R123,
R129, R147, R149, R159, R166; their order is log entry 3). Two of these conditions are the model's choice: a SCAN_PASS that is due
also ends a pass in progress, which has found no further POSTED slot (DEDUCED, log entry 4), and the dispatch pacer's firing is
due by the model's latch `firing` (DEDUCED, log entry 15). On an empty queue the due events wait in the queue, and with none
due one millisecond passes (DESIGN CHOICE, log entry 2): the reply wait of an open turn (log entry 18), silence timers of
polled cells, the scan pacer and the idle timer count it (R44, R51, R159, R166); each thousandth one is a second for the kit,
load and soak timers (R63) and, unless it ends the floor minute, which is the event MINUTE_NOTICE (log entry 14), for the
floor clock (R147); nothing else changes. -/
def Obligations.EmptyQueuePassesTime : Prop :=
  ∀ s : State, (∀ i, i ∈ s.due ↔ s.IsDue i) ∧ (s.pending = [] →
    (s.due ≠ [] → step s = .next { s with pending := s.due }) ∧
    (s.due = [] → ∃ t, step s = .next t ∧
      (∀ c, t.cell c = { s.cell c with
        silence := if s.silenceRuns c then (s.cell c).silence + 1 else (s.cell c).silence }) ∧
      (∀ p, t.port p = { s.port p with turn := (s.port p).turn.map fun x => { x with wait := x.wait + 1 } }) ∧
      t.os = { s.os with pacer := if s.running then s.os.pacer + 1 else s.os.pacer } ∧
      t.ru = { s.ru with idle := if s.idleRuns then s.ru.idle + 1 else s.ru.idle } ∧
      (s.ft.ms + 1 < 1000 → t.ft = { s.ft with ms := s.ft.ms + 1 } ∧ t.insertions = s.insertions) ∧
      (1000 ≤ s.ft.ms + 1 →
        (∀ c, t.insertion c = (s.insertion c).map fun i => { i with
          kitTimer := if s.timersRun ∧ i.state = .kitWait then i.kitTimer - 1 else i.kitTimer
          loadTimer := if s.timersRun ∧ i.state = .loading then i.loadTimer - 1 else i.loadTimer
          soakTimer := if i.state = .soaking ∧ i.soakStarted then i.soakTimer - 1 else i.soakTimer }) ∧
        (s.minuteEnds = false → t.ft = { s.ft with clock := s.ft.clock + 1, ms := 0 }) ∧
        (s.minuteEnds = true → t.ft = { s.ft with ms := s.ft.ms + 1 })) ∧
      t.lm = s.lm ∧ t.limitSets = s.limitSets ∧ t.hm = s.hm ∧ t.de = s.de ∧ t.ships = s.ships ∧ t.host = s.host ∧
      t.freeIx = s.freeIx ∧ t.pending = s.pending))

/-- The state after a power-on reset, as Tables 1-1 to 10-1 and R157 give it: registers, part state, order count, floor
clock and mode, dispatch parameters, empty tables and pages. -/
def Obligations.ResetLeavesThePowerOnValues : Prop :=
  let s := State.reset
  s.readRegister .ident = 0x12E40593#32 ∧ s.readRegister .setupAddrLo = 0 ∧ s.readRegister .setupAddrHi = 0 ∧
  s.readRegister .control = 0 ∧ s.readRegister .status = 0 ∧ s.readRegister .cause = 0 ∧
  s.readRegister .causeEnable = 0 ∧
  s.os.part = .halted ∧ s.os.faultSource = .none ∧ s.os.slotCount = 16 ∧ s.os.winStop < s.os.winStart ∧
  s.os.orderCount = 0 ∧ s.os.scanPending = false ∧ s.os.scanAt = none ∧
  s.ft.clock = 0 ∧ s.ft.mode = .run ∧ s.ft.nextFiring = none ∧
  s.de = { params := { mode := .confirm, window := 10, pacer := 5, priorityWeight := 2048, setupWeight := 16,
                       kitMinutes := 30, transitionMinutes := 20 }, passPending := false, reservations := [] } ∧
  s.lm.queue = [] ∧ s.lm.admissions = 0 ∧ s.hm = { holds := [], lastId := 0 } ∧
  (∀ r, s.recipe? r = none) ∧ (∀ l, s.lot l = none) ∧ (∀ c, s.insertion c = none) ∧ (∀ n, s.limitSet? n = none) ∧
  (∀ n, s.ship n = none) ∧ (∀ p, (s.port p).winStop < (s.port p).winStart ∧ (s.port p).arbiter = none) ∧
  (∀ c, (s.cell c).state = .detached ∧ (s.cell c).policy = .endOfIndex ∧ (s.cell c).service = true) ∧
  s.ru.fifo = [] ∧ s.ru.pageA.state = .free ∧ s.ru.pageB.state = .free ∧ s.ru.sequence = 0 ∧ s.ru.pageLength = 64 ∧
  s.ru.idleClose = 10 ∧ s.ru.closeOnUrgent = false

/-- A power-on reset leaves every block at its power-on values and does not touch host memory (R157); the queue, the free
index and the count of MSI messages, which are the model's own, are kept (log entry 32). Where no rule gives a power-on
value, as for the board base, the count of the stopped scan pacer and the places and sequence of a FREE page, it is the
model's (DESIGN CHOICE, log entries 10, 42 and 45). -/
def Obligations.PowerOnResetRestartsEveryBlock : Prop :=
  ∀ s : State, ∃ t, exec .powerOnReset s = .next t ∧
    ({ State.reset with ru := { State.reset.ru with msi := s.ru.msi } } : State).SameFloor t ∧ t.os = State.reset.os ∧
    t.host = s.host ∧ t.freeIx = s.freeIx ∧ t.pending = s.pending

/-- A soft reset, from CONTROL or from the PCIe link (R157, with R20, R37, R53, R58, R81, R133, R149, R170): the part
HALTED, the scanner stopped, the FIFO, the pages and the causes cleared, the reservations deleted, every RESERVED lot
QUEUED with the present minute as its ready minute and in the dispatch queue, which is kept and stays in its order (R13),
every cell unheard with its counts and its command slot cleared but for the load tag and its state derived anew, every
insertion SUSPENDED; all else is kept, the count of MSI messages too, since no record and no cause of the reset sends one
(log entry 11). The stopped idle timer stands at 0 (DESIGN CHOICE, log entry 41), and so does the count of the stopped
scan pacer (DESIGN CHOICE, log entry 42); the FREE pages stand at 0 places and sequence 0 (DESIGN CHOICE, log entry 45).
-/
def Obligations.SoftResetHaltsThePart : Prop :=
  ∀ (s : State) (c : Instr), c = .softReset ∨ c = .pcieHotReset → ∃ t, exec c s = .next t ∧
    t.os = { s.os with part := .halted, faultSource := .none, scanPending := false, pacer := 0, scanAt := none } ∧
    t.ru = { s.ru with fifo := [], pageA := Page.initial, pageB := Page.initial, filling := none, lastClosed := none,
                       idle := 0, cause := 0, causeEnable := 0 } ∧
    t.ft = { s.ft with nextFiring := none, firing := false } ∧
    t.de = { s.de with passPending := false, reservations := [] } ∧
    (∀ l, t.lot l = (s.lot l).map fun x =>
      if x.state = .reserved then { x with state := .queued, ready := s.minute } else x) ∧
    (∀ l, l ∈ t.lm.queue ↔ l ∈ s.lm.queue ∨ ∃ x, s.lot l = some x ∧ x.state = .reserved) ∧
    s.lm.queue.Sublist t.lm.queue ∧
    ((∀ l ∈ s.lm.queue, ∃ x, s.lot l = some x ∧ x.state = .queued) → s.lm.queue.Pairwise s.NotAfter →
      t.lm.queue.Pairwise t.NotAfter) ∧
    t.lm.recipes = s.lm.recipes ∧ t.lm.admissions = s.lm.admissions ∧
    (∀ p, t.port p = { s.port p with arbiter := none, turn := none, crcErrors := 0, missedTurns := 0, strayFrames := 0 }) ∧
    (∀ d, t.cell d = { s.cell d with
      heard := false, crcErrors := 0, protocolErrors := 0, silence := 0
      slot := { desired := if (s.insertion d).any fun i => i.takenBy.onHandler then some .haltNow else none,
                lastKind := none, lastTag := 0, tag := (s.cell d).slot.tag }
      state := match (s.cell d).mapping with
        | none => .detached
        | some m =>
          if (s.port m.port).winStart ≤ m.tap ∧ m.tap ≤ (s.port m.port).winStop then .silent else .parked }) ∧
    (∀ d, t.insertion d = (s.insertion d).map fun i => { i with
      before := if i.state = .suspended then i.before else some i.state, state := .suspended,
      sampleVoid := i.sampleVoid || i.state ≠ .suspended, resyncPending := false }) ∧
    t.limitSets = s.limitSets ∧ t.hm = s.hm ∧ t.ships = s.ships ∧ t.host = s.host ∧ t.freeIx = s.freeIx ∧
    t.pending = s.pending

/-- START in HALTED takes the setup block's clamped values (R155, R156, R165): the scanner's geometry and pacer, the
Report Unit's pages with page A FILLING under the next sequence, the port windows and the dispatch parameters. The first
clause gives each of them from the bytes of the block, as Table 10-3 lays down. Every mapped cell is unheard with its
silence timer at 0 (R25, R51), and every cell's state is derived with the new windows (R32), each change recorded as
CELL_STATE with cause START (R33), where the insertions are SUSPENDED, no reservation stands and the FIFO has room; the
records stand in ascending cell order (DESIGN CHOICE, log entry 31). The pacers are set, a scan is pending, and the part
is RUNNING. A failed read puts the part in FAULTED with source SETUP and makes none of these; in RUNNING and FAULTED the
action is ignored (R154). The page left FREE stands at 0 places and sequence 0, as its header says (DESIGN CHOICE, log
entry 45). -/
def Obligations.StartTakesTheSetupBlock : Prop :=
  (∀ b : SetupBytes,
    let y := Setup.ofBytes b
    let byte (k : Fin 64) : Nat := b[k].toNat
    let half (k : Fin 64) : Nat := byte k + 256 * byte (k + 1)
    let address (k : Fin 64) : Nat :=
      (half k + 2 ^ 16 * half (k + 2) + 2 ^ 32 * half (k + 4) + 2 ^ 48 * half (k + 6)) / 64 * 64
    let within (low high v : Nat) : Nat := max low (min high v)
    let window (k : Fin 64) : Nat × Nat := (within 1 15 (byte k), within 1 15 (byte (k + 1)))
    y.boardBase.toNat = address 0 ∧ y.baseA.toNat = address 8 ∧ y.baseB.toNat = address 16 ∧
    y.slotCount = within 16 256 (half 24) ∧ y.winStart = within 0 (y.slotCount - 1) (half 26) ∧
    y.winStop = within 0 (y.slotCount - 1) (half 28) ∧ y.pageLength = within 64 4096 (half 30) ∧
    y.scanPacer = within 1 255 (byte 32) ∧ y.idleClose = within 1 255 (byte 33) ∧
    y.closeOnUrgent = decide (byte 34 ≠ 0) ∧ y.windows = #v[window 36, window 38, window 40, window 42] ∧
    y.params = { mode := if byte 35 = 0 then .confirm else .auto, window := within 1 60 (byte 44),
                 pacer := within 0 60 (byte 45), kitMinutes := byte 46, transitionMinutes := byte 47,
                 priorityWeight := within 0 4096 (half 48), setupWeight := within 0 63 (byte 50) }) ∧
  ∀ (s : State) (b : SetupBytes),
    let derived (c : CellNo) : CellState := match (s.cell c).mapping with
      | none => .detached
      | some m =>
        if (Setup.ofBytes b).windows[m.port].1 ≤ m.tap ∧ m.tap ≤ (Setup.ofBytes b).windows[m.port].2 then .silent else .parked
    (s.os.part = .halted → ∃ t, exec (.start (some b)) s = .next t ∧
      t.os = { s.os with boardBase := (Setup.ofBytes b).boardBase, slotCount := (Setup.ofBytes b).slotCount,
                         winStart := (Setup.ofBytes b).winStart, winStop := (Setup.ofBytes b).winStop,
                         pacerInterval := (Setup.ofBytes b).scanPacer, pacer := 0, scanPending := true,
                         part := .running } ∧
      t.ru.baseA = (Setup.ofBytes b).baseA ∧ t.ru.baseB = (Setup.ofBytes b).baseB ∧
      t.ru.pageLength = (Setup.ofBytes b).pageLength ∧ t.ru.closeOnUrgent = (Setup.ofBytes b).closeOnUrgent ∧
      t.ru.idleClose = (Setup.ofBytes b).idleClose ∧
      t.ru.sequence = (if s.ru.sequence = 4294967295#32 then 1 else s.ru.sequence + 1) ∧
      t.ru.filling = some .a ∧ t.ru.lastClosed = none ∧
      t.ru.pageA = { state := .filling, used := 0, sequence := t.ru.sequence } ∧ t.ru.pageB = Page.initial ∧
      t.hostByte t.ru.baseA.toNat = some 1 ∧
      t.de.params = (Setup.ofBytes b).params ∧ (s.de.reservations = [] → t.de.passPending = s.de.passPending) ∧
      (∀ p, t.port p = { s.port p with winStart := (Setup.ofBytes b).windows[p].1,
                                       winStop := (Setup.ofBytes b).windows[p].2, arbiter := none }) ∧
      t.ft = { s.ft with nextFiring := if t.de.params.pacer = 0 then none else some (s.minute + t.de.params.pacer) } ∧
      (∀ c, (t.cell c).heard = ((s.cell c).heard && (s.cell c).mapping.isNone) ∧ (t.cell c).state = derived c ∧
        ((s.cell c).mapping ≠ none → (t.cell c).silence = 0)) ∧
      ((∀ c i, s.insertion c = some i → i.state = .suspended) → s.de.reservations = [] → s.ru.occupancy + 48 ≤ 1024 →
        t.ru.fifo = s.ru.fifo ++ ((List.finRange 48).filter fun c => (s.cell c).state ≠ derived c).map (fun c =>
          { second := s.ft.clock, report := .cellState c (s.cell c).state (derived c) .start }) ∧
        (∀ c, t.cell c = { s.cell c with
          heard := (t.cell c).heard, silence := (t.cell c).silence, state := derived c }) ∧
        (∀ c, t.insertion c = (s.insertion c).map fun i =>
          if (s.cell c).state ≠ derived c ∧ (s.cell c).mapping ≠ none then { i with resyncPending := false } else i) ∧
        t.lm = s.lm ∧ t.hm = s.hm ∧ t.ships = s.ships ∧ t.limitSets = s.limitSets)) ∧
    (s.os.part = .halted → exec (.start none) s = .next { s with
      os := { s.os with part := .faulted, faultSource := .setup, scanAt := none }, ru := s.ru.setCause .fault }) ∧
    (s.os.part ≠ .halted → ∀ x, exec (.start x) s = .next s)

/-- CONTROL.SCAN and the scan pacer set the scan-pending flag while RUNNING, the pacer starting again from 0, and a scan pass
starts on the flag below backpressure at the window's first slot, with the flag cleared; an empty window gives it no slot
(R159); a pass that is still in progress has found no further POSTED slot and ends there (DEDUCED, log entry 4). A POSTED slot
that no pass reaches is left as it stands, and with 800 records in the FIFO the pass ends before it and leaves the flag set. -/
def Obligations.ScanPassesStartOnTheFlag : Prop :=
  ∀ s : State,
    (s.running = true → exec .scan s = .next { s with os := { s.os with scanPending := true } }) ∧
    (s.running = false → exec .scan s = .next s) ∧
    (s.running = true → s.os.pacerInterval ≤ s.os.pacer →
      exec .scanPacerExpiry s = .next { s with os := { s.os with scanPending := true, pacer := 0 } }) ∧
    (s.running = true → s.os.scanPending = true → s.ru.occupancy < 800 →
      exec .scanPass s = .next { s with os := { s.os with
        scanPending := false, scanAt := if s.os.winStart ≤ s.os.winStop then some s.os.winStart else none } }) ∧
    (800 ≤ s.ru.occupancy → exec .scanPass s = .next { s with os := { s.os with scanAt := none } }) ∧
    ∀ (slot : BoardSlot) (o : Order),
      (s.reaches slot = false → exec (orderCommand slot o) s = .next s) ∧
      (s.reaches slot = true → 800 ≤ s.ru.occupancy →
        exec (orderCommand slot o) s = .next { s with os := { s.os with scanAt := none, scanPending := true } })

/-- A write of CAUSE clears the causes written 1 and sends nothing; a write of CAUSE_ENABLE takes the seven enable bits and
sends one MSI message when it enables a cause that is set (R169; one message for the write: log entry 19). A cause that is
clear becomes set and sends one message if it is enabled; one that is set stays set and sends nothing. -/
def Obligations.CausesClearAndEnableAndSend : Prop :=
  (∀ (s : State) (v : Word),
    (∃ t, exec (.causeWrite v) s = .next t ∧ t = { s with ru := { s.ru with cause := t.ru.cause } } ∧
      ∀ k : Fin 7, t.ru.cause.getLsbD k.val = (s.ru.cause.getLsbD k.val && !v.getLsbD k.val)) ∧
    (∃ t, exec (.causeEnableWrite v) s = .next t ∧
      t = { s with ru := { s.ru with causeEnable := t.ru.causeEnable, msi := t.ru.msi } } ∧
      (∀ k : Fin 7, t.ru.causeEnable.getLsbD k.val = v.getLsbD k.val) ∧
      ((∃ k : Fin 7, v.getLsbD k.val = true ∧ s.ru.causeEnable.getLsbD k.val = false ∧ s.ru.cause.getLsbD k.val = true) →
        t.ru.msi = s.ru.msi + 1) ∧
      ((∀ k : Fin 7, v.getLsbD k.val = true → s.ru.cause.getLsbD k.val = true → s.ru.causeEnable.getLsbD k.val = true) →
        t.ru.msi = s.ru.msi))) ∧
  ∀ (u : ReportUnit) (c d : Cause),
    (u.setCause c).cause.getLsbD d.bit = (u.cause.getLsbD d.bit || decide (d = c)) ∧
    (u.setCause c).msi = (if u.cause.getLsbD c.bit = false ∧ u.causeEnable.getLsbD c.bit = true then u.msi + 1 else u.msi) ∧
    (u.setCause c).causeEnable = u.causeEnable ∧ (u.setCause c).fifo = u.fifo

/-- PAGE_RETURN (R167): bit 0 names the page. A CLOSED page becomes FREE; while RUNNING its header is written, and with no
page FILLING it enters FILLING. A FREE or FILLING page sets BAD_RETURN and nothing else. In FAULTED no header is written;
in HALTED the write is ignored. A page left FREE stands at 0 places and sequence 0, in FAULTED too (DESIGN CHOICE, log
entry 45). -/
def Obligations.PageReturnFreesAClosedPage : Prop :=
  ∀ (s : State) (v : Word), let p : PageId := if v.getLsbD 0 then .b else .a
    (s.running = true → (s.ru.page p).state = .closed → s.ru.filling = none →
      ∃ t, exec (.pageReturn v) s = .next t ∧ t.ru.filling = some p ∧
        t.ru.page p = { state := .filling, used := 0, sequence := t.ru.sequence } ∧
        t.ru.page (otherPage p) = s.ru.page (otherPage p) ∧
        t.ru.sequence = (if s.ru.sequence = 4294967295#32 then 1 else s.ru.sequence + 1) ∧
        t.hostByte (s.ru.base p).toNat = some 1 ∧ t.ru.fifo = s.ru.fifo ∧ t.ru.cause = s.ru.cause) ∧
    (s.running = true → (s.ru.page p).state = .closed → ∀ q, s.ru.filling = some q →
      ∃ t, exec (.pageReturn v) s = .next t ∧ t.ru = s.ru.setPage p { state := .free, used := 0, sequence := 0 } ∧
        (∀ k, k < 32 → t.hostByte ((s.ru.base p).toNat + k) = some 0)) ∧
    (s.os.part = .faulted → (s.ru.page p).state = .closed →
      exec (.pageReturn v) s = .next { s with ru := s.ru.setPage p { state := .free, used := 0, sequence := 0 } }) ∧
    (s.working = true → (s.ru.page p).state ≠ .closed →
      exec (.pageReturn v) s = .next { s with ru := s.ru.setCause .badReturn }) ∧
    (s.os.part = .halted → exec (.pageReturn v) s = .next s)

/-- The register window (R153): the eight registers at their byte offsets. A write acts as the command of its register: IDENT
and STATUS ignore it, the setup address is stored, and CONTROL takes the bits written 1 in the order SOFT_RESET, START, SCAN. A
read returns the contents of Table 10-1, STATUS as part state, fault source, FIFO occupancy, filling page and backpressure
stand. START reads the 64 bytes at the address in SETUP_ADDR with bits 0..5 taken as 0, and the read fails when one of them
cannot be read (R155; host memory is an argument: log entry 5). That the write-only PAGE_RETURN reads 0 is the model's choice
(DESIGN CHOICE, log entry 40). -/
def Obligations.RegisterWritesAct : Prop :=
  ([.ident, .setupAddrLo, .setupAddrHi, .control, .status, .cause, .causeEnable, .pageReturn].map Reg.offset =
    [0, 4, 8, 12, 16, 20, 24, 28]) ∧
  ∀ (s : State) (v : Word),
    (∀ x : Option SetupBytes,
      exec (.registerWrite .ident v x) s = .next s ∧ exec (.registerWrite .status v x) s = .next s ∧
      exec (.registerWrite .setupAddrLo v x) s = .next { s with os := { s.os with setupLo := v } } ∧
      exec (.registerWrite .setupAddrHi v x) s = .next { s with os := { s.os with setupHi := v } } ∧
      exec (.registerWrite .cause v x) s = exec (.causeWrite v) s ∧
      exec (.registerWrite .causeEnable v x) s = exec (.causeEnableWrite v) s ∧
      exec (.registerWrite .pageReturn v x) s = exec (.pageReturn v) s ∧
      ∃ t1 t2 t3, (if v.getLsbD 1 then exec .softReset s else .next s) = .next t1 ∧
        (if v.getLsbD 0 then exec (.start x) t1 else .next t1) = .next t2 ∧
        (if v.getLsbD 2 then exec .scan t2 else .next t2) = .next t3 ∧ exec (.registerWrite .control v x) s = .next t3) ∧
    (s.readRegister .ident = 0x12E40593#32 ∧ s.readRegister .setupAddrLo = s.os.setupLo ∧
      s.readRegister .setupAddrHi = s.os.setupHi ∧ s.readRegister .control = 0 ∧ s.readRegister .pageReturn = 0 ∧
      (∀ k, (s.readRegister .cause).getLsbD k = s.ru.cause.getLsbD k) ∧
      ∀ k, (s.readRegister .causeEnable).getLsbD k = s.ru.causeEnable.getLsbD k) ∧
    (s.ru.occupancy ≤ 1024 → (s.readRegister .status).toNat =
      (match s.os.part with | .halted => 0 | .running => 1 | .faulted => 2) +
      4 * (match s.os.faultSource with | .none => 0 | .setup => 1 | .board => 2 | .buffer => 3 | .page => 4) +
      32 * s.ru.occupancy + 65536 * (match s.ru.filling with | none => 0 | some .a => 1 | some .b => 2) +
      262144 * (if 800 ≤ s.ru.occupancy then 1 else 0)) ∧
    (∀ r : Reg, s.readWindow (Reg.offset r) = some (s.readRegister r)) ∧
    (∀ k : Nat, (∀ r : Reg, Reg.offset r ≠ k) → s.readWindow k = none) ∧
    ∀ mem : HostView, let a := 64 * ((s.os.setupHi.toNat * 4294967296 + s.os.setupLo.toNat) / 64)
      (∀ b : SetupBytes, (∀ k : Fin 64, mem (a + k.val) = some b[k]) →
        s.startCommand mem = .start (some b) ∧
        ∀ r : Reg, s.windowWrite mem (Reg.offset r) v = some (.registerWrite r v (some b))) ∧
      ((∃ k : Fin 64, mem (a + k.val) = none) →
        s.startCommand mem = .start none ∧ ∀ r : Reg, s.windowWrite mem (Reg.offset r) v = some (.registerWrite r v none)) ∧
      ∀ k : Nat, (∀ r : Reg, Reg.offset r ≠ k) → s.windowWrite mem k v = none

/-- A failed access puts the part in FAULTED with the source of its kind, sets FAULT, and ends the scan pass (R154): a
slot read or the write of TAKEN leaves the order unexecuted (R159, R160), a buffer access leaves the slot TAKEN and the
order unexecuted (R160, R161), a failed write of the outcome or of ANSWERED leaves the order's effects (R160), a failed
record write leaves the record at the FIFO's head (R166). A failed header write (R165 to R167) leaves the page as the
Report Unit holds it then: FREE at START and at a return, FILLING at a close, with the moved record out of the FIFO, and
FILLING where a page opens. A failed write leaves nothing in host memory, the writes of one step of R160, of an image
(R161) and of one record's places (R166) fail together, so that a failed TAKEN leaves host memory as it was, and START
writes page A's FREE header before page B's (DESIGN CHOICE, log entry 6). Whether the failed TAKEN is counted is a free
value (log entry 7); that PUT_LIMIT_SET's buffer is read once the slot is TAKEN and the order counted is the model's
reading (DEDUCED, log entry 44). A page left FREE stands at 0 places and sequence 0 (DESIGN CHOICE, log entry 45). -/
def Obligations.FailedAccessesFaultThePart : Prop :=
  ∀ s : State,
    let failed (source : FaultSource) (u : State) : State :=
      { u with os := { u.os with part := .faulted, faultSource := source, scanAt := none }, ru := u.ru.setCause .fault }
    let apart : Prop := (s.ru.baseA.toNat + 32 * (s.ru.pageLength + 1) ≤ s.ru.baseB.toNat ∨
        s.ru.baseB.toNat + 32 * (s.ru.pageLength + 1) ≤ s.ru.baseA.toNat) ∧
      (∀ q, (s.ru.page q).used ≤ s.ru.pageLength)
    let opening (p : PageId) (u t : State) : Prop := t = { failed .page u with host := t.host } ∧
      (∀ a, a < (s.ru.base p).toNat ∨ (s.ru.base p).toNat + 32 ≤ a → t.hostByte a = u.hostByte a) ∧
      (apart → ∀ k, k < 32 → t.hostByte ((s.ru.base p).toNat + k) = s.hostByte ((s.ru.base p).toNat + k))
    (s.running = true → s.os.scanAt ≠ none → exec (.hostAccessFail .slotRead) s = .next (failed .board s)) ∧
    (∀ slot, s.Takes slot →
      (∃ t, exec (.hostAccessFail (.slotTaken slot)) s = .next t ∧ t.os.part = .faulted ∧ t.os.faultSource = .board ∧
        t.os.scanAt = none ∧ ({ s with ru := s.ru.setCause .fault } : State).SameFloor t ∧ t.host = s.host) ∧
      (∀ x, x = .limitBuffer slot ∨ x = .imageBuffer slot → ∃ t, exec (.hostAccessFail x) s = .next t ∧
        t.os.part = .faulted ∧ t.os.faultSource = .buffer ∧ t.hostByte (s.slotAddr slot) = some 2 ∧
        t.os.orderCount = s.os.orderCount + 1 ∧ ({ s with ru := s.ru.setCause .fault } : State).SameFloor t) ∧
      (∀ o u, exec (orderCommand slot o) s = .next u →
        (∃ t, exec (.hostAccessFail (.slotOutcome slot o)) s = .next t ∧ t.os.part = .faulted ∧
          t.os.faultSource = .board ∧ ({ u with ru := u.ru.setCause .fault } : State).SameFloor t) ∧
        (∃ t, exec (.hostAccessFail (.slotAnswered slot o)) s = .next t ∧ t.os.part = .faulted ∧
          t.os.faultSource = .board ∧ ({ u with ru := u.ru.setCause .fault } : State).SameFloor t))) ∧
    (∀ p r rest, s.moveCase = .write p r rest →
      exec (.hostAccessFail .recordPlaces) s = .next (failed .page s)) ∧
    (∀ b u, s.os.part = .halted → exec (.start (some b)) s = .next u →
      exec (.hostAccessFail (.startHeader b 0)) s = .next (failed .page { u with
        ru := { u.ru with sequence := s.ru.sequence, filling := none, pageA := Page.initial }, host := s.host }) ∧
      (∃ t, exec (.hostAccessFail (.startHeader b 1)) s = .next t ∧
        t = { failed .page { u with
          ru := { u.ru with sequence := s.ru.sequence, filling := none, pageA := Page.initial } } with host := t.host } ∧
        (∀ k, k < 32 → t.hostByte (u.ru.baseA.toNat + k) = some 0) ∧
        ∀ a, a < u.ru.baseA.toNat ∨ u.ru.baseA.toNat + 32 ≤ a → t.hostByte a = s.hostByte a) ∧
      ∃ t, exec (.hostAccessFail (.startHeader b 2)) s = .next t ∧ t = { failed .page u with host := t.host } ∧
        (∀ k, k < 32 → t.hostByte (u.ru.baseB.toNat + k) = some 0) ∧
        (∀ a, (a < u.ru.baseB.toNat ∨ u.ru.baseB.toNat + 32 ≤ a) →
          (∀ k, k < 32 → u.ru.baseA.toNat + k = a → t.hostByte a = some 0) ∧
          (a < u.ru.baseA.toNat ∨ u.ru.baseA.toNat + 32 ≤ a → t.hostByte a = s.hostByte a))) ∧
    (∀ p r rest, s.running = true → s.ru.filling = some p → s.ru.fifo = r :: rest →
      let used := (s.ru.page p).used + r.report.places
      (s.ru.pageLength < used → exec (.hostAccessFail .moveClose) s = .next (failed .page s)) ∧
      (used = s.ru.pageLength ∨ (used < s.ru.pageLength ∧ r.report.urgent = true ∧ s.ru.closeOnUrgent = true) →
        ∃ t, exec (.hostAccessFail .moveClose) s = .next t ∧ t.os = (failed .page s).os ∧ t.ru.fifo = rest ∧
          t.ru.filling = some p ∧ t.ru.page p = { s.ru.page p with used := used } ∧
          t.ru.page (otherPage p) = s.ru.page (otherPage p) ∧ t.ru.sequence = s.ru.sequence ∧
          (t.ru.cause.getLsbD 5 = true ∧ t.ru.cause.getLsbD 3 = (s.ru.cause.getLsbD 3 || r.report.urgent) ∧
            t.ru.cause.getLsbD 0 = s.ru.cause.getLsbD 0) ∧
          (∀ k (h : k < r.bytes.length),
            t.hostByte ((s.ru.base p).toNat + 32 * (1 + (s.ru.page p).used) + k) = some r.bytes[k]) ∧
          t = { s with os := t.os, ru := t.ru, host := t.host }) ∧
      ∀ u, exec .recordMove s = .next u → u.ru.filling = some (otherPage p) →
        ∃ t, exec (.hostAccessFail .moveOpen) s = .next t ∧ opening (otherPage p) u t) ∧
    (∀ p, s.running = true → s.ru.filling = some p → 1 ≤ (s.ru.page p).used → s.ru.idleClose ≤ s.ru.idle →
      exec (.hostAccessFail .idleClose) s = .next (failed .page s) ∧
      ∀ u, exec .idleTimerExpiry s = .next u → u.ru.filling = some (otherPage p) →
        ∃ t, exec (.hostAccessFail .idleOpen) s = .next t ∧ opening (otherPage p) u t) ∧
    ∀ p, s.running = true → (s.ru.page p).state = .closed →
      exec (.hostAccessFail (.returnFree p)) s = .next (failed .page { s with ru := s.ru.setPage p Page.initial }) ∧
      (s.ru.filling = none → ∀ v u, exec (.pageReturn v) s = .next u → v.getLsbD 0 = decide (p = .b) →
        ∃ t, exec (.hostAccessFail (.returnOpen p)) s = .next t ∧ t = { failed .page u with host := t.host } ∧
          (∀ k, k < 32 → t.hostByte ((s.ru.base p).toNat + k) = some 0) ∧
          ∀ a, a < (s.ru.base p).toNat ∨ (s.ru.base p).toNat + 32 ≤ a → t.hostByte a = s.hostByte a)

/-! ## Orders in their slots (chapter 10) -/

/-- An order other than READ that the pass reaches below backpressure is taken and answered: its slot, the order count and
the scanner are as R158 to R160 say, host memory outside the slot stands, and the floor is as the order's owner leaves it. -/
def Obligations.OrdersAreTakenAndAnswered : Prop :=
  ∀ (s : State) (slot : BoardSlot) (o : Order), s.Takes slot → (∀ kind index buffer, o ≠ .read kind index buffer) →
    let r := actOf o (s.takeSlot slot)
    s.SameFloor (s.takeSlot slot) ∧
    Answers (orderCommand slot o) slot s r.2.outcome r.2.detail r.2.fields r.1

/-- An order whose slot holds an outcome other than DONE and ACCEPTED after it has changed nothing on the floor and written
no report record (R160); a code of no order is answered BAD_ORDER with detail 0. -/
def Obligations.RefusedOrdersChangeNothing : Prop :=
  ∀ (s : State) (slot : BoardSlot), s.Takes slot →
    (∀ o : Order, ∃ t k, exec (orderCommand slot o) s = .next t ∧ t.hostByte (s.slotAddr slot + 2) = some k ∧
      (k ≠ 0 → k ≠ 1 → s.SameFloor t)) ∧
    ∀ code : Byte, code = 0 ∨ 30 < code.toNat → Answers (.badOrder slot code) slot s .badOrder (some 0) [] s

/-- The bytes that the part receives become the commands they spell. A work-board slot whose state byte is POSTED makes the
order of its code at offset 1 and its arguments at offset 16, at every value of every field; PUT_LIMIT_SET's arguments stand in
the buffer whose address is at offset 16; a slot in another state makes none, and a failed read is that of R159 or R160 (R158; no
more than eight entries are read: log entry 39). A tap's frame, by its kind, length and body, makes its command when its CRC is
the one over address, kind, length and body; another CRC or a broken frame is BAD_CRC_FRAME, a kind or length that Table 3-2
does not give is STRAY_FRAME, and silence is LISTEN_TIMEOUT (R44 to R47). -/
def Obligations.OrderBytesReadBack : Prop :=
  (∀ (o : Order) (rest : List Byte), o.wellFormed = true → readOrder (orderCode o) (orderArgBytes o ++ rest) = o) ∧
  (∀ (s : State) (mem : HostView) (slot : BoardSlot),
    ((∃ k : Fin 64, mem (s.slotAddr slot + k.val) = none) →
      s.slotCommand mem slot = some (.hostAccessFail .slotRead)) ∧
    ∀ b : Vector Byte 64, (∀ k : Fin 64, mem (s.slotAddr slot + k.val) = some b[k]) →
      (b[0] ≠ 1 → s.slotCommand mem slot = none) ∧
      (∀ o rest, b[0] = 1 → o.wellFormed = true → (∀ a, o ≠ .putLimitSet a) → b[1] = orderCode o →
        b.toList.drop 16 = orderArgBytes o ++ rest → s.slotCommand mem slot = some (orderCommand slot o)) ∧
      ∀ (a : LimitSetArgs) (buffer : Addr) (rest : List Byte), b[0] = 1 → b[1] = 14 →
        a.entries.length = a.entryCount.toNat → a.entryCount.toNat ≤ 8 →
        b.toList.drop 16 = leBytes 8 buffer.toNat ++ rest →
        let bs := orderArgBytes (.putLimitSet a)
        ((∀ k (h : k < bs.length), mem (buffer.toNat + k) = some bs[k]) →
          s.slotCommand mem slot = some (.putLimitSet slot a)) ∧
        ((∀ k (h : k < bs.length), mem (buffer.toNat + k) = some bs[k] ∨ mem (buffer.toNat + k) = none) →
          (∃ k, k < bs.length ∧ mem (buffer.toNat + k) = none) →
          s.slotCommand mem slot = some (.hostAccessFail (.limitBuffer slot)))) ∧
  ∀ (p : PortNo) (address : Byte),
    (∀ f : StatusFrame, receivedCommand p (tapFrame address 1 (StatusFrame.body f)) = .status p address f) ∧
    (∀ f : IdentFrame, receivedCommand p (tapFrame address 2 (IdentFrame.body f)) = .ident p address f) ∧
    (∀ (t : Word) (mask : Byte), receivedCommand p (tapFrame address 3 (startIndexBody t mask)) = .startIndex p address t mask) ∧
    (∀ (site bin kind : Byte) (n : Half), receivedCommand p (tapFrame address 4 (unitBody site bin kind n)) =
      if kind = 1 then .unitRetest p address site bin n else .unit p address site bin kind n) ∧
    (∀ f : EndFrame, receivedCommand p (tapFrame address 5 (EndFrame.body f)) = .endOfRun p address f) ∧
    receivedCommand p (tapFrame address 6 []) = .turnEnd p address ∧
    receivedCommand p [] = .listenTimeout p ∧
    (∀ bs : List Byte, bs ≠ [] → (bs.length < 3 ∨ ∃ kind length rest, bs = address :: kind :: length :: rest ∧
      rest.length ≠ length.toNat + 2) → receivedCommand p bs = .badCrcFrame p) ∧
    ∀ (kind length : Byte) (body : List Byte) (crc : Half), body.length = length.toNat →
      let frame := address :: kind :: length :: (body ++ leBytes 2 crc.toNat)
      (crc ≠ crc16 (address :: kind :: length :: body) → receivedCommand p frame = .badCrcFrame p) ∧
      (crc = crc16 (address :: kind :: length :: body) →
        (kind, length) ∉ [((1 : Byte), (7 : Byte)), (2, 11), (3, 5), (4, 5), (5, 36), (6, 0)] →
        receivedCommand p frame = .strayFrame p address kind length)

/-- READ of a lot, a cell, a hold or a ship order that exists writes its image of 512, 256, 32 or 64 bytes into the buffer
and answers DONE with the image length and the floor second; the floor and host memory outside slot and buffer stand, and
the image begins with the fields that its table lists first, in the encodings of R158 (R161): a lot's number, start quantity,
due minute and priority; a cell's port with its presence flag, tap address, stop policy, service and heard flags; a hold's id,
lot, step and origin; an order's number, customer, kind, auto-release flag and state. An unknown kind or an index outside its
range is refused with BAD_ARG, and a record that does not exist with NOT_FOUND. -/
def Obligations.ReadWritesRecordImages : Prop :=
  ∀ (s : State) (slot : BoardSlot) (kind : Byte) (index : Half) (buffer : Addr), s.Takes slot →
    (∀ bs : List Byte,
      (∃ l x, index.toNat = l.val ∧ s.lot l = some x ∧ kind = 0 ∧ bs = s.lotImage l x) ∨
      (∃ c : CellNo, index.toNat = number c ∧ kind = 1 ∧ bs = s.cellImage c) ∨
      (∃ h, s.hold? index.toNat = some h ∧ index ≠ 0 ∧ kind = 2 ∧ bs = h.image) ∨
      (∃ n o, index.toNat = number n ∧ s.ship n = some o ∧ kind = 3 ∧ bs = o.image n) →
      bs.length = (if kind = 0 then 512 else if kind = 1 then 256 else if kind = 2 then 32 else 64) ∧
      ∃ t, exec (.read slot kind index buffer) s = .next t ∧ s.SameFloor t ∧ s.ScannerAfter slot t ∧
        t.hostByte (s.slotAddr slot) = some 3 ∧ t.hostByte (s.slotAddr slot + 2) = some 0 ∧
        t.hostByte (s.slotAddr slot + 3) = some 6 ∧
        (∀ k (h : k < (leBytes 2 bs.length ++ leBytes 4 s.ft.clock.toNat).length),
          t.hostByte (s.slotAddr slot + 16 + k) = some (leBytes 2 bs.length ++ leBytes 4 s.ft.clock.toNat)[k]) ∧
        ((buffer.toNat + bs.length ≤ s.slotAddr slot ∨ s.slotAddr slot + 64 ≤ buffer.toNat) →
          ∀ k (h : k < bs.length), t.hostByte (buffer.toNat + k) = some bs[k]) ∧
        ∀ x, (x < s.slotAddr slot ∨ s.slotAddr slot + 64 ≤ x) → (x < buffer.toNat ∨ buffer.toNat + bs.length ≤ x) →
          t.hostByte x = s.hostByte x) ∧
    (∀ l x, s.lot l = some x → x.lotNumber.toList ++ leBytes 2 x.startQuantity ++ leBytes 4 x.due ++
      leBytes 1 x.priority <+: s.lotImage l x) ∧
    (∀ c, (match (s.cell c).mapping with
        | none => [0, 0, 0]
        | some m => [1, BitVec.ofNat 8 m.port.val, BitVec.ofNat 8 m.tap]) ++
      [BitVec.ofNat 8 (s.cell c).policy.code, if (s.cell c).service then 1 else 0, if (s.cell c).heard then 1 else 0]
        <+: s.cellImage c) ∧
    (∀ h : Hold, leBytes 2 h.id ++ leBytes 2 h.lot.val ++ [BitVec.ofNat 8 h.step, BitVec.ofNat 8 h.origin.code] <+: h.image) ∧
    (∀ (n : ShipNo) (o : Ship), [BitVec.ofNat 8 (number n)] ++ leBytes 4 o.customer.toNat ++
      [BitVec.ofNat 8 o.kind.code, if o.auto then 1 else 0, BitVec.ofNat 8 o.state.code] <+: o.image n) ∧
    ((kind = 0 ∧ 512 ≤ index.toNat) ∨ (kind = 1 ∧ (index = 0 ∨ 48 < index.toNat)) ∨ (kind = 2 ∧ index = 0) ∨
      (kind = 3 ∧ (index = 0 ∨ 32 < index.toNat)) ∨ 3 < kind.toNat →
      Answers (.read slot kind index buffer) slot s .badArg none [] s) ∧
    ((∃ l : LotSlot, kind = 0 ∧ index.toNat = l.val ∧ s.lot l = none) ∨
      (kind = 2 ∧ index ≠ 0 ∧ s.hold? index.toNat = none) ∨
      (∃ n : ShipNo, kind = 3 ∧ index.toNat = number n ∧ s.ship n = none) →
      Answers (.read slot kind index buffer) slot s .notFound none [] s)

/-! ## Recipes and lots (chapter 1) -/

/-- PUT_RECIPE (R2): with every field in its range and the sets and sites in order, the record of the number becomes the one
given, unless it exists and some step of some lot names it, which is IN_USE; any other fields are BAD_ARG. -/
def Obligations.PutRecipeWritesTheRecord : Prop :=
  ∀ (s : State) (slot : BoardSlot) (a : RecipeArgs) (r : RecipeNo) (temp : TempClass), s.Takes slot →
    let good : Prop := TempClass.ofCode? a.tempClass.toNat = some temp ∧
      (1 ≤ a.testerClass.toNat ∧ a.testerClass.toNat ≤ 15) ∧ (1 ≤ a.handlerClass.toNat ∧ a.handlerClass.toNat ≤ 15) ∧
      (1 ≤ a.kitCode.toNat ∧ a.kitCode.toNat ≤ 4095) ∧ (1 ≤ a.minSites.toNat ∧ a.minSites.toNat ≤ 8) ∧
      (1 ≤ a.maxSites.toNat ∧ a.maxSites.toNat ≤ 8) ∧ (1 ≤ a.cycleTime.toNat ∧ a.cycleTime.toNat ≤ 60000) ∧
      a.passSet ≠ 0 ∧ a.retestSet &&& a.passSet = 0 ∧ a.minSites.toNat ≤ a.maxSites.toNat
    let named : Prop := ∃ l x st, s.lot l = some x ∧ st ∈ x.steps ∧ st.recipe = r
    (a.number.toNat = number r → good → (s.recipe? r = none ∨ ¬ named) →
      Answers (.putRecipe slot a) slot s .done none [] (s.setRecipe r (some
        { programId := a.programId, testerClass := a.testerClass.toNat, handlerClass := a.handlerClass.toNat, temp := temp,
          soakMinutes := a.soakMinutes.toNat, kitCode := a.kitCode.toNat, minSites := a.minSites.toNat,
          maxSites := a.maxSites.toNat, cycleTime := a.cycleTime.toNat, passSet := a.passSet, retestSet := a.retestSet,
          retestCap := a.retestCap.toNat }))) ∧
    (a.number.toNat = number r → good → s.recipe? r ≠ none → named →
      Answers (.putRecipe slot a) slot s .inUse none [] s) ∧
    (a.number = 0 ∨ 128 < a.number.toNat ∨ 2 < a.tempClass.toNat ∨
      (TempClass.ofCode? a.tempClass.toNat = some temp ∧ ¬ good) →
      Answers (.putRecipe slot a) slot s .badArg none [] s)

/-- DROP_RECIPE (R3): a number outside 1..128 is BAD_ARG, an empty record NOT_FOUND, a record that some step of some lot
names IN_USE, and any other record becomes empty. -/
def Obligations.DropRecipeEmptiesTheRecord : Prop :=
  ∀ (s : State) (slot : BoardSlot) (b : Byte), s.Takes slot →
    (b = 0 ∨ 128 < b.toNat → Answers (.dropRecipe slot b) slot s .badArg none [] s) ∧
    ∀ r : RecipeNo, b.toNat = number r →
      let named : Prop := ∃ l x st, s.lot l = some x ∧ st ∈ x.steps ∧ st.recipe = r
      (s.recipe? r = none → Answers (.dropRecipe slot b) slot s .notFound none [] s) ∧
      (s.recipe? r ≠ none → named → Answers (.dropRecipe slot b) slot s .inUse none [] s) ∧
      (s.recipe? r ≠ none → ¬ named → Answers (.dropRecipe slot b) slot s .done none [] (s.setRecipe r none))

/-- ADMIT_LOT (R10, R5, R14, R15): with the step count, quantity and priority in range, every step naming a recipe and a
limit set that are not empty, and a lot number of no lot in the table, the lowest free slot takes the lot: QUEUED, at step 1,
with step 1's units_in the start quantity and the tail minutes of R15; it joins the queue, a pass is called for, the
LOT_STATE record is written, and the detail is the slot. The refusals are, in that sequence, BAD_ARG with detail 0 for the order's
own fields, with the number of the first step whose recipe, or else whose limit set, names none, and with the slot of the lot that
has the lot number already; and NO_ROOM without a free slot. -/
def Obligations.AdmitLotFillsTheLowestSlot : Prop :=
  ∀ (s : State) (slot : BoardSlot) (a : LotArgs), s.Takes slot →
    let given := a.steps.toList.take a.stepCount.toNat
    let fields : Prop := (1 ≤ a.stepCount.toNat ∧ a.stepCount.toNat ≤ 4) ∧ a.startQuantity ≠ 0 ∧ a.priority.toNat ≤ 3
    let recipeNamed (st : StepArgs) : Prop := ∃ r : RecipeNo, st.recipe.toNat = number r ∧ s.recipe? r ≠ none
    let limitSetNamed (st : StepArgs) : Prop := ∃ n : LimitNo, st.limitSet.toNat = number n ∧ s.limitSet? n ≠ none
    let firstNot (ok : StepArgs → Prop) (k : Nat) : Prop :=
      (∃ st, given[k]? = some st ∧ ¬ ok st) ∧ ∀ m st, m < k → given[m]? = some st → ok st
    (¬ fields → Answers (.admitLot slot a) slot s .badArg (some 0) [] s) ∧
    (fields → ∀ k, firstNot recipeNamed k → Answers (.admitLot slot a) slot s .badArg (some (k + 1)) [] s) ∧
    (fields → (∀ st ∈ given, recipeNamed st) →
      (∀ k, firstNot limitSetNamed k → Answers (.admitLot slot a) slot s .badArg (some (k + 1)) [] s) ∧
      ((∀ st ∈ given, limitSetNamed st) →
        (∀ m x, s.lot m = some x → x.lotNumber = a.lotNumber →
          (∀ n y, s.lot n = some y → y.lotNumber = a.lotNumber → n = m) →
          Answers (.admitLot slot a) slot s .badArg (some m.val) [] s) ∧
        ((∀ m x, s.lot m = some x → x.lotNumber ≠ a.lotNumber) →
          ((∀ m, s.lot m ≠ none) → Answers (.admitLot slot a) slot s .noRoom (some 0) [] s) ∧
          ∀ l : LotSlot, s.lot l = none → (∀ m : LotSlot, m < l → s.lot m ≠ none) →
            ∃ x : Lot,
              (x.lotNumber = a.lotNumber ∧ x.startQuantity = a.startQuantity.toNat ∧ x.due = a.dueMinute.toNat ∧
                x.priority = a.priority.toNat ∧ x.current = 1 ∧ x.state = .queued ∧ x.empty = false ∧ x.deviation = false ∧
                x.quarantined = false ∧ x.holds = [] ∧ x.ship = none ∧ x.bar = none ∧ x.ready = s.minute ∧
                x.admission = s.lm.admissions + 1) ∧
              x.steps.length = a.stepCount.toNat ∧
              (∀ k (h : k < x.steps.length) (g : k < 4), number x.steps[k].recipe = a.steps[k].recipe.toNat ∧
                number x.steps[k].limitSet = a.steps[k].limitSet.toNat ∧
                x.steps[k].lossAllowance = a.steps[k].lossAllowance.toNat ∧ x.steps[k].state = .opened ∧
                x.steps[k].unitsIn = (if k = 0 then a.startQuantity.toNat else 0) ∧ x.steps[k].accounted = 0 ∧
                x.steps[k].runs = []) ∧
              x.tail = (x.steps.tail.map fun st => ceilDiv (ceilDiv a.startQuantity.toNat (s.recipe st.recipe).maxSites *
                (s.recipe st.recipe).cycleTime) 60000).sum ∧
              Answers (.admitLot slot a) slot s .done (some l.val) []
                (((({ s with lm := { s.lm with admissions := s.lm.admissions + 1 } } : State).setLot l (some x)).joinQueue
                  l).triggerPass.report (.lotState l none (some .queued) 1)))))

/-- A lot that enters QUEUED takes the present floor minute as its ready minute, calls for a pass, writes its LOT_STATE record
and joins the queue before the first lot that it goes before by ready minute, then admission number (R8, R13, R14, R122); a lot
that leaves QUEUED leaves the queue. -/
def Obligations.LotsJoinTheQueueInOrder : Prop :=
  ∀ (s : State) (l : LotSlot) (x : Lot), s.lot l = some x →
    (x.state ≠ .queued →
      let t := s.setLotState l .queued
      let goesBefore (m : LotSlot) (y : Lot) : Prop := s.minute < y.ready ∨ (s.minute = y.ready ∧
        (x.admission.toNat < y.admission.toNat ∨ (x.admission = y.admission ∧ l < m)))
      t.lot l = some { x with state := .queued, ready := s.minute } ∧ t.de.passPending = true ∧
      t.ru = s.ru.append s.ft.clock (.lotState l (some x.state) (some .queued) x.current) ∧
      ∃ before after, s.lm.queue = before ++ after ∧ t.lm.queue = before ++ l :: after ∧
        (∀ m ∈ before, ∀ y, m ≠ l → s.lot m = some y → ¬ goesBefore m y) ∧
        ∀ m rest y, after = m :: rest → m ≠ l → s.lot m = some y → goesBefore m y) ∧
    (x.state = .queued → ∀ new, new ≠ .queued →
      (s.setLotState l new).lm.queue = s.lm.queue.erase l ∧
      (s.setLotState l new).lot l = some { x with state := new })

/-- AMEND_LOT (R11): a slot outside the table or free is NOT_FOUND, a RELEASED or SCRAPPED lot WRONG_STATE, a priority above
3 BAD_ARG; otherwise the due minute and the priority are replaced and nothing else changes. -/
def Obligations.AmendLotReplacesDueAndPriority : Prop :=
  ∀ (s : State) (slot : BoardSlot) (lot : Half) (due : Word) (priority : Byte), s.Takes slot →
    ((512 ≤ lot.toNat ∨ ∃ l : LotSlot, lot.toNat = l.val ∧ s.lot l = none) →
      Answers (.amendLot slot lot due priority) slot s .notFound none [] s) ∧
    ∀ (l : LotSlot) (x : Lot), lot.toNat = l.val → s.lot l = some x →
      ((x.state = .released ∨ x.state = .scrapped) →
        Answers (.amendLot slot lot due priority) slot s .wrongState none [] s) ∧
      (x.state ≠ .released → x.state ≠ .scrapped → 3 < priority.toNat →
        Answers (.amendLot slot lot due priority) slot s .badArg none [] s) ∧
      (x.state ≠ .released → x.state ≠ .scrapped → priority.toNat ≤ 3 →
        Answers (.amendLot slot lot due priority) slot s .done none []
          (s.setLot l (some { x with due := due.toNat, priority := priority.toNat })))

/-- RETIRE_LOT (R12, R145): a RELEASED, SCRAPPED or EMPTY COMPLETE lot without holds, quarantine, insertion or OPEN ship order
has its LOT_STATE record written and its slot freed; a RELEASED ship order loses the lot, and is freed when it was its last
one. The refusals are NOT_FOUND, WRONG_STATE, BUSY and IN_USE, in that sequence. -/
def Obligations.RetireLotFreesTheSlot : Prop :=
  ∀ (s : State) (slot : BoardSlot) (lot : Half), s.Takes slot →
    ((512 ≤ lot.toNat ∨ ∃ l : LotSlot, lot.toNat = l.val ∧ s.lot l = none) →
      Answers (.retireLot slot lot) slot s .notFound none [] s) ∧
    ∀ (l : LotSlot) (x : Lot), lot.toNat = l.val → s.lot l = some x →
      let ended : Prop := x.state = .released ∨ x.state = .scrapped ∨ (x.state = .complete ∧ x.empty = true)
      let clear : Prop := x.holds = [] ∧ x.quarantined = false
      let inTest : Prop := ∃ c i, s.insertion c = some i ∧ i.lot = l
      let inOpen : Prop := ∃ n o, x.ship = some n ∧ s.ship n = some o ∧ o.state = .opened
      (¬ (ended ∧ clear) → Answers (.retireLot slot lot) slot s .wrongState none [] s) ∧
      (ended → clear → inTest → Answers (.retireLot slot lot) slot s .busy none [] s) ∧
      (ended → clear → ¬ inTest → inOpen → Answers (.retireLot slot lot) slot s .inUse none [] s) ∧
      (ended → clear → ¬ inTest → x.ship = none →
        Answers (.retireLot slot lot) slot s .done none []
          ((s.report (.lotState l (some x.state) none x.current)).setLot l none)) ∧
      (∀ n o, ended → clear → ¬ inTest → x.ship = some n → s.ship n = some o → o.state = .released →
        Answers (.retireLot slot lot) slot s .done none []
          (((s.report (.lotState l (some x.state) none x.current)).setShip n
            (if o.lots.erase l = [] then none else some { o with lots := o.lots.erase l })).setLot l none))

/-! ## Cells (chapter 2) -/

/-- MAP_CELL (R22, R51, R56): in range, with no insertion or reservation on the cell and no other cell at the port and tap
address, the cell takes the mapping, is unheard, has no reported identity, its counts, silence timer and command slot are
cleared but for the load tag, and it is PARKED outside the port's window and SILENT inside; a change of its state is recorded.
The refusals are BAD_ARG, BUSY and IN_USE with the other cell's number, in that sequence. -/
def Obligations.MapCellTakesTheMapping : Prop :=
  ∀ (s : State) (slot : BoardSlot) (cell port tap : Byte), s.Takes slot →
    ((cell = 0 ∨ 48 < cell.toNat ∨ 4 ≤ port.toNat ∨ tap = 0 ∨ 15 < tap.toNat) →
      Answers (.mapCell slot cell port tap) slot s .badArg (some 0) [] s) ∧
    ∀ (c : CellNo) (p : PortNo), cell.toNat = number c → port.toNat = p.val → 1 ≤ tap.toNat → tap.toNat ≤ 15 →
      (s.insertion c ≠ none ∨ s.reservationOf c ≠ none →
        Answers (.mapCell slot cell port tap) slot s .busy (some 0) [] s) ∧
      (s.insertion c = none → s.reservationOf c = none →
        (∀ d, d ≠ c → (s.cell d).mapping = some { port := p, tap := tap.toNat } →
          (∀ e, e ≠ c → (s.cell e).mapping = some { port := p, tap := tap.toNat } → e = d) →
          Answers (.mapCell slot cell port tap) slot s .inUse (some (number d)) [] s) ∧
        ((∀ d, d ≠ c → (s.cell d).mapping ≠ some { port := p, tap := tap.toNat }) →
          let new : CellState :=
            if (s.port p).winStart ≤ tap.toNat ∧ tap.toNat ≤ (s.port p).winStop then .silent else .parked
          let u := s.modCell c fun x => { x with
            mapping := some { port := p, tap := tap.toNat }, heard := false, reported := none, loadFailures := 0,
            crcErrors := 0, protocolErrors := 0, silence := 0, state := new,
            slot := { desired := none, lastKind := none, lastTag := 0, tag := x.slot.tag } }
          Answers (.mapCell slot cell port tap) slot s .done (some 0) []
            (if (s.cell c).state = new then u else u.report (.cellState c (s.cell c).state new .mapping))))

/-- UNMAP_CELL (R23, R51, R56): a mapped cell without insertion and reservation becomes DETACHED, unheard and without a
reported identity, with its command slot cleared but for the load tag and its silence timer at 0; the rest of its record is
kept. The refusals are BAD_ARG, WRONG_STATE and BUSY, in that sequence. -/
def Obligations.UnmapCellDetachesTheCell : Prop :=
  ∀ (s : State) (slot : BoardSlot) (cell : Byte), s.Takes slot →
    (cell = 0 ∨ 48 < cell.toNat → Answers (.unmapCell slot cell) slot s .badArg none [] s) ∧
    ∀ c : CellNo, cell.toNat = number c →
      ((s.cell c).mapping = none → Answers (.unmapCell slot cell) slot s .wrongState none [] s) ∧
      ((s.cell c).mapping ≠ none → s.insertion c ≠ none ∨ s.reservationOf c ≠ none →
        Answers (.unmapCell slot cell) slot s .busy none [] s) ∧
      ((s.cell c).mapping ≠ none → s.insertion c = none → s.reservationOf c = none →
        let u := s.modCell c fun x => { x with
          mapping := none, heard := false, reported := none, silence := 0, state := .detached,
          slot := { desired := none, lastKind := none, lastTag := 0, tag := x.slot.tag } }
        Answers (.unmapCell slot cell) slot s .done none []
          (if (s.cell c).state = .detached then u else u.report (.cellState c (s.cell c).state .detached .mapping)))

/-- FREEZE (R26, R27, R32, R33), on a cell whose state is the derived one: ON copies the compared fields of the reported
identity into the frozen identity, OFF makes it absent; either ends a MISMATCH, which is recorded, gives a SUSPENDED insertion
resync pending, and is a pass trigger when the cell is IDLE. ON is refused with WRONG_STATE for an unmapped cell or an absent
identity; other arguments are BAD_ARG. -/
def Obligations.FreezeSetsTheFrozenIdentity : Prop :=
  ∀ (s : State) (slot : BoardSlot) (cell action : Byte), s.Takes slot →
    (cell = 0 ∨ 48 < cell.toNat ∨ 1 < action.toNat → Answers (.freeze slot cell action) slot s .badArg none [] s) ∧
    ∀ c : CellNo, cell.toNat = number c →
      (action = 0 → (s.cell c).mapping = none ∨ (s.cell c).reported = none →
        Answers (.freeze slot cell action) slot s .wrongState none [] s) ∧
      (∀ frozen : Option FrozenIdentity,
        ((action = 0 ∧ (s.cell c).mapping ≠ none ∧ ∃ d, (s.cell c).reported = some d ∧ frozen = some
            { serial := d.serial, testerClass := d.testerClass, handlerClass := d.handlerClass, siteCount := d.siteCount,
              temps := d.temps }) ∨ (action = 1 ∧ frozen = none)) →
        (s.cell c).state = s.derivedState c →
        let new : CellState := if (s.insertion c).isSome then .busy else if (s.reservationOf c).isSome then .reserved
          else if (s.cell c).service = false then .outOfService else .idle
        ((s.cell c).state ≠ .mismatch → Answers (.freeze slot cell action) slot s .done none []
          (s.modCell c fun x => { x with freeze := frozen.isSome, frozen := frozen })) ∧
        ((s.cell c).state = .mismatch →
          let u := (s.modCell c fun x => { x with freeze := frozen.isSome, frozen := frozen, state := new }).report
            (.cellState c .mismatch new .freeze)
          let v := if new = .idle then u.triggerPass else u
          Answers (.freeze slot cell action) slot s .done none []
            (v.modInsertion c fun i => if i.state = .suspended then { i with resyncPending := true } else i)))

/-- SET_CELL_SERVICE (R28, R29, R32, R33), on a cell whose state is the derived one: the stop policy is replaced, ON sets the
service flag and zeroes the load-failure count, OFF clears the flag; an IDLE cell becomes OUT_OF_SERVICE and back, which is
recorded, and IDLE is a pass trigger. A change of policy in LINE_STOP changes the LINE_STOP reason of an insertion taken as
RUNNING, PAUSING or PAUSED as R29 says. Other arguments are BAD_ARG. -/
def Obligations.SetCellServiceSetsFlagAndPolicy : Prop :=
  ∀ (s : State) (slot : BoardSlot) (cell action policy : Byte), s.Takes slot →
    (cell = 0 ∨ 48 < cell.toNat ∨ 1 < action.toNat ∨ 2 < policy.toNat →
      Answers (.setCellService slot cell action policy) slot s .badArg none [] s) ∧
    ∀ (c : CellNo) (p : StopPolicy) (on : Bool), cell.toNat = number c → policy.toNat = p.code →
      action.toNat = (if on then 0 else 1) → (s.cell c).state = s.derivedState c →
      ((s.ft.mode ≠ .lineStop ∨ p = (s.cell c).policy) →
        let old := (s.cell c).state
        let new : CellState := if old = .idle ∧ on = false then .outOfService
          else if old = .outOfService ∧ on = true then .idle else old
        let u := s.modCell c fun x => { x with
          policy := p, service := on, loadFailures := if on then 0 else x.loadFailures, state := new }
        let v := if new = old then u else u.report (.cellState c old new .service)
        Answers (.setCellService slot cell action policy) slot s .done none []
          (if new = .idle ∧ old ≠ .idle then v.triggerPass else v)) ∧
      (s.ft.mode = .lineStop → p ≠ (s.cell c).policy → ∀ i, s.insertion c = some i → i.takenBy.onHandler = true →
        ∃ t j, exec (.setCellService slot cell action policy) s = .next t ∧ t.insertion c = some j ∧
          j.pause.hold = i.pause.hold ∧ j.pause.cellOrder = i.pause.cellOrder ∧
          j.pause.lineStop = (if p = .exempt then none
            else if (s.cell c).policy = .exempt ∨ i.pause.lineStop ≠ none then p.halt else none) ∧
          (t.cell c).policy = p ∧ (t.cell c).service = on)

/-- IDENT (R24, R32, R33, R44, R47): a good frame takes a place of the turn and resets the silence timer. A field out of
range grows the protocol-error count and changes nothing else. Otherwise the six fields become the reported identity, the
cell is heard, and a different serial clears its history; without insertion and reservation the state is MISMATCH for a frozen
cell that differs, else OUT_OF_SERVICE or IDLE by the service flag, recorded when it changes. With an insertion it is MISMATCH
or BUSY: KIT_WAIT goes to LOADING when the recipe's kit is reported (R64), a SUSPENDED insertion of a cell that is not MISMATCH
gets resync pending (R82), entry into MISMATCH suspends (R27, R80), and a fresh tap aborts a run (R83): the run entry ABORTED,
the insertion cleared, and unless it is SCRAPPED the lot QUEUED with a SOFT hold of origin RECONCILE. Entry into MISMATCH cancels
the cell's reservation (R130). -/
def Obligations.IdentIsAdopted : Prop :=
  ∀ (s : State) (p : PortNo) (c : CellNo) (address : Byte) (f : IdentFrame), s.Hears p address c →
    let inRange : Prop := (1 ≤ f.testerClass.toNat ∧ f.testerClass.toNat ≤ 15) ∧
      (1 ≤ f.handlerClass.toNat ∧ f.handlerClass.toNat ≤ 15) ∧ (1 ≤ f.siteCount.toNat ∧ f.siteCount.toNat ≤ 8) ∧
      (1 ≤ f.temps.toNat ∧ f.temps.toNat ≤ 7) ∧ (1 ≤ f.kitCode.toNat ∧ f.kitCode.toNat ≤ 4095)
    let d : Identity := { serial := f.serial, testerClass := f.testerClass.toNat, handlerClass := f.handlerClass.toNat,
                          siteCount := f.siteCount.toNat, temps := f.temps.setWidth 3, kitCode := f.kitCode.toNat }
    (¬ inRange → exec (.ident p address f) s =
      .next ((s.heardIn p c).modCell c fun x => { x with protocolErrors := min (x.protocolErrors + 1) 65535 })) ∧
    (inRange → s.insertion c = none → s.reservationOf c = none → (s.port p).inWindow address.toNat = true →
      let x := s.cell c
      let other : Bool := x.reported.any fun old => old.serial ≠ d.serial
      let new : CellState :=
        if x.freeze ∧ x.frozen ≠ some { serial := d.serial, testerClass := d.testerClass, handlerClass := d.handlerClass,
                                        siteCount := d.siteCount, temps := d.temps } then .mismatch
        else if x.service then .idle else .outOfService
      let u := (s.heardIn p c).modCell c fun x => { x with
        reported := some d, heard := true, state := new, measured := if other then 0 else x.measured,
        lastRecipe := if other then none else x.lastRecipe, lastTemp := if other then none else x.lastTemp }
      let v := if new = x.state then u else u.report (.cellState c x.state new .ident)
      exec (.ident p address f) s = .next (if new = .idle ∧ x.state ≠ .idle then v.triggerPass else v)) ∧
    (inRange → ∃ t, exec (.ident p address f) s = .next t ∧ (t.cell c).reported = some d ∧ (t.cell c).heard = true) ∧
    (inRange → (s.port p).inWindow address.toNat = true →
      let x := s.cell c
      let other : Bool := x.reported.any fun old => old.serial ≠ d.serial
      let differs : Prop := x.freeze = true ∧ x.frozen ≠ some
        { serial := d.serial, testerClass := d.testerClass, handlerClass := d.handlerClass, siteCount := d.siteCount,
          temps := d.temps }
      let adopted (new : CellState) : State :=
        let u := (s.heardIn p c).modCell c fun x => { x with
          reported := some d, heard := true, state := new, measured := if other then 0 else x.measured,
          lastRecipe := if other then none else x.lastRecipe, lastTemp := if other then none else x.lastTemp }
        if new = x.state then u else u.report (.cellState c x.state new .ident)
      (∀ i, s.insertion c = some i → ¬ differs →
        let r := s.recipe i.recipe
        let tag : Half := if x.slot.tag = 65535 then 1 else x.slot.tag + 1
        (∀ y, i.state = .kitWait → d.kitCode = r.kitCode → s.lot i.lot = some y → exec (.ident p address f) s = .next
          ((((adopted .busy).modInsertion c fun j => { j with state := .loading, loadTimer := 30, loadTag := tag }).modCell c
            fun z => { z with slot := { z.slot with
              desired := some (.load r.programId r.temp i.siteMask i.expected y.lotNumber), tag := tag } }).report
                (.insertionEvent c i.lot (some .kitWait) (some .loading) .kitReady))) ∧
        (i.state = .kitWait → d.kitCode ≠ r.kitCode → exec (.ident p address f) s = .next (adopted .busy)) ∧
        (i.state = .suspended → f.fresh = false ∨ i.takenBy.hasRun = false → exec (.ident p address f) s = .next
          ((adopted .busy).modInsertion c fun j => { j with resyncPending := true })) ∧
        (i.state ≠ .suspended → i.state ≠ .kitWait → f.fresh = false ∨ i.takenBy.hasRun = false →
          exec (.ident p address f) s = .next (adopted .busy))) ∧
      (∀ i, s.insertion c = some i → differs → f.fresh = false ∨ i.takenBy.hasRun = false →
        (x.state = .mismatch → i.state = .suspended → exec (.ident p address f) s = .next (adopted .mismatch)) ∧
        (x.state ≠ .mismatch → s.reservationOf c = none →
          (i.state = .suspended → exec (.ident p address f) s = .next
            ((adopted .mismatch).modInsertion c fun j => { j with resyncPending := false })) ∧
          (i.state ≠ .suspended →
            let v := ((adopted .mismatch).modInsertion c fun j => { j with
              before := some i.state, state := .suspended, sampleVoid := true, resyncPending := false }).report
                (.insertionEvent c i.lot (some i.state) (some .suspended) .suspend)
            exec (.ident p address f) s = .next (if i.state.onHandler then v.asked c .haltNow else v)))) ∧
      (∀ i y, s.insertion c = some i → f.fresh = true → i.takenBy.hasRun = true → s.lot i.lot = some y →
        y.state = .inTest ∨ y.state = .scrapped → y.current = i.step → 1 ≤ i.step → i.step ≤ y.steps.length →
        s.reservationOf c = none → s.reservationOfLot i.lot = none → y.ship = none →
        ∃ t z, exec (.ident p address f) s = .next t ∧ t.insertion c = none ∧ (t.cell c).slot.desired = none ∧
          (t.cell c).lastRecipe = some i.recipe ∧ (t.cell c).lastTemp = some (s.recipe i.recipe).temp ∧
          t.lot i.lot = some z ∧
          z.step i.step = { y.step i.step with runs := (z.step i.step).runs } ∧
          (z.step i.step).runs.getLast? = (y.step i.step).runs.getLast?.map (fun r => { r with
            endSecond := some s.ft.clock, outcome := some .aborted }) ∧
          (y.state = .scrapped → z.state = .scrapped ∧ z.holds = y.holds ∧ t.hm = s.hm) ∧
          (y.state = .inTest → z.state = .queued ∧ z.current = y.current ∧ t.de.passPending = true ∧
            (y.holds.length < 4 → s.hm.holds.length < 256 → ∃ h, t.hm.holds = s.hm.holds ++ [h] ∧ h.lot = i.lot ∧
              h.origin = .reconcile ∧ h.holdClass = .soft ∧ h.cell = some c ∧ h.state = .opened ∧
              z.holds = y.holds ++ [h.id]))) ∧
      ∀ r y, s.insertion c = none → s.reservationOf c = some r → s.lot r.lot = some y → y.state = .reserved → differs →
        x.state ≠ .mismatch → ∃ t, exec (.ident p address f) s = .next t ∧ (t.cell c).state = .mismatch ∧
          t.de = { s.de with passPending := true, reservations := s.de.reservations.filter fun e => e.cell ≠ c } ∧
          t.lot r.lot = some { y with state := .queued, ready := s.minute } ∧
          t.lm.queue = ((s.setLot r.lot (some { y with state := .queued, ready := s.minute })).joinQueue r.lot).lm.queue ∧
          t.ru = ((s.ru.append s.ft.clock (.cellState c x.state .mismatch .ident)).append s.ft.clock
            (.reservationCancelled r.lot c .mismatch r.score)).append s.ft.clock
              (.lotState r.lot (some .reserved) (some .queued) y.current))

/-! ## CellLink ports (chapter 3) -/

/-- A turn begins on a port that takes turns and has none open, for the polled cell with the lowest tap address above the
arbiter position, or the lowest of all when there is none (R40, R41): the arbiter position moves to it, a heard cell whose
desired command the tap has not applied is sent that command, and the POLL asks an unheard cell for its identity (R42,
R43). Nothing else changes. The first clause gives the bytes of every frame sent: address, kind code, body length, body,
and the CRC of R46, low byte first; a body is POLL's identify flag, or the load tag and the command's arguments (R45,
Table 3-3). -/
def Obligations.TurnsGoRoundThePolledCells : Prop :=
  (let low (n : Nat) : Byte := BitVec.ofNat 8 n
    let two (n : Nat) : List Byte := [low n, low (n / 256)]
    let framed (tap kind : Nat) (body : List Byte) : List Byte :=
      let told := [low tap, low kind, low body.length] ++ body
      told ++ two (crc16 told).toNat
    crc16 [] = 0xFFFF#16 ∧
    (∀ bs b, crc16 (bs ++ [b]) = [7, 6, 5, 4, 3, 2, 1, 0].foldl
      (fun (r : Half) k => (r <<< 1) ^^^ (if r.getLsbD 15 != b.getLsbD k then 0x1021#16 else 0#16)) (crc16 bs)) ∧
    (∀ tap, pollFrame tap true = framed tap 7 [1] ∧ pollFrame tap false = framed tap 7 [0]) ∧
    ∀ (tap : Nat) (tag : Half),
      (∀ kit, commandFrame tap tag (.kitRequest kit) = framed tap 8 (two tag.toNat ++ two kit)) ∧
      (∀ program temp sites expected (lot : LotNumber), commandFrame tap tag (.load program temp sites expected lot) =
        framed tap 9 (two tag.toNat ++ (two program.toNat ++ two (program.toNat / 65536)) ++
          [match temp with | .cold => 0 | .room => 1 | .hot => 2, sites] ++ two expected ++ lot.toList)) ∧
      commandFrame tap tag .go = framed tap 10 (two tag.toNat) ∧
      commandFrame tap tag .haltAtIndex = framed tap 11 (two tag.toNat) ∧
      commandFrame tap tag .haltNow = framed tap 12 (two tag.toNat) ∧
      commandFrame tap tag .finish = framed tap 13 (two tag.toNat) ∧
      commandFrame tap tag .abort = framed tap 14 (two tag.toNat)) ∧
  ∀ (s : State) (p : PortNo) (c : CellNo) (tap : Nat), s.working = true → s.ru.occupancy < 800 →
    (s.port p).turn = none → s.polledTap p c = some tap → (∀ d, s.polledTap p d = some tap → d = c) →
    ((∃ a, (s.port p).arbiter = some a ∧ a < tap ∧ ∀ d k, s.polledTap p d = some k → a < k → tap ≤ k) ∨
      ((∀ a, (s.port p).arbiter = some a → ∀ d k, s.polledTap p d = some k → k ≤ a) ∧
        ∀ d k, s.polledTap p d = some k → tap ≤ k)) →
    exec (.turnStart p) s = .next (s.modPort p fun x => { x with
      arbiter := some tap, turn := some { cell := c, frames := 0, wait := 0 },
      sent := match (s.cell c).slot.desired with
        | none => [pollFrame tap !(s.cell c).heard]
        | some cmd =>
          if (s.cell c).heard = true ∧
              ¬ ((s.cell c).slot.lastKind = some cmd.kind ∧ (s.cell c).slot.lastTag = (s.cell c).slot.tag) then
            [commandFrame tap (s.cell c).slot.tag cmd, pollFrame tap !(s.cell c).heard]
          else [pollFrame tap !(s.cell c).heard] })

/-- No frame in time ends the turn, and counts as a missed turn when none has come (R44, Table 3-1); a good TURN_END ends
the turn and resets the silence timer of its cell (R44, R47). Nothing else changes. That LISTEN_TIMEOUT ends an open turn
whatever the count of its reply wait says is the model's choice: R44 gives 2 ms, and the wait is held in whole ms (DESIGN
CHOICE, log entries 18 and 33). -/
def Obligations.TurnsEnd : Prop :=
  ∀ (s : State) (p : PortNo) (t : Turn), (s.port p).turn = some t →
    exec (.listenTimeout p) s = .next (s.modPort p fun x => { x with
      turn := none, missedTurns := if t.frames = 0 then min (x.missedTurns + 1) 65535 else x.missedTurns }) ∧
    ∀ address : Byte, s.addressGood p t address = true →
      exec (.turnEnd p address) s = .next ((s.modPort p fun x => { x with turn := none }).modCell t.cell fun x =>
        { x with silence := 0 })

/-- A frame with a bad CRC takes one of the four places, ending the turn after the fourth, and grows the CRC counts of the
port and of the turn's cell, saturating (R44, R46). A frame with a correct CRC that fails a test of R47 takes a place so too and
grows the port's stray-frame count: one of another form, and one of the six kinds that comes from another address or an unmapped
cell, or, but for TURN_END, after the fourth frame; one that is a TURN_END ends the turn (DEDUCED, log entry 16). Nothing else
changes: the silence timer runs on. -/
def Obligations.DiscardedFramesAreCounted : Prop :=
  ∀ (s : State) (p : PortNo) (t : Turn), (s.port p).turn = some t →
    let place : Option Turn := if t.frames < 4 then some { t with frames := t.frames + 1, wait := 0 } else none
    exec (.badCrcFrame p) s = .next ((s.modPort p fun x => { x with
        turn := place, crcErrors := min (x.crcErrors + 1) 65535 }).modCell t.cell fun x => { x with
        crcErrors := min (x.crcErrors + 1) 65535 }) ∧
    ∀ address kind length : Byte,
      let formed : Prop := (kind, length) ∈ [((1 : Byte), (7 : Byte)), (2, 11), (3, 5), (4, 5), (5, 36), (6, 0)]
      (¬ (formed ∧ s.addressGood p t address = true) →
        exec (.strayFrame p address kind length) s = .next (s.modPort p fun x => { x with
          turn := if formed ∧ kind = 6 then none else place, strayFrames := min (x.strayFrames + 1) 65535 })) ∧
      (s.addressGood p t address = false ∨ 4 ≤ t.frames → ∀ i : Instr,
        (∃ f, i = .status p address f) ∨ (∃ f, i = .ident p address f) ∨ (∃ n mask, i = .startIndex p address n mask) ∨
          (∃ site bin kind n, i = .unit p address site bin kind n) ∨ (∃ site bin n, i = .unitRetest p address site bin n) ∨
          (∃ f, i = .endOfRun p address f) →
        exec i s = .next (s.modPort p fun x => { x with
          turn := place, strayFrames := min (x.strayFrames + 1) 65535 })) ∧
      (s.addressGood p t address = false → exec (.turnEnd p address) s = .next (s.modPort p fun x => { x with
        turn := none, strayFrames := min (x.strayFrames + 1) 65535 }))

/-- A good STATUS replaces the last applied command with its kind and tag, whatever the cell's state, and for a cell without
insertion changes nothing else; a handler state or a command kind outside its set grows the protocol-error count and leaves
the command slot (R45, R48, R49). -/
def Obligations.StatusReplacesTheLastApplied : Prop :=
  ∀ (s : State) (p : PortNo) (c : CellNo) (address : Byte) (f : StatusFrame), s.Hears p address c →
    ((4 < f.handler.toNat ∨ (f.lastKind ≠ 0 ∧ (f.lastKind.toNat < 8 ∨ 14 < f.lastKind.toNat))) →
      exec (.status p address f) s =
        .next ((s.heardIn p c).modCell c fun x => { x with protocolErrors := min (x.protocolErrors + 1) 65535 })) ∧
    (∀ k : Option CommandKind, f.handler.toNat ≤ 4 →
      (k = none ∧ f.lastKind = 0 ∨ ∃ j, k = some j ∧ f.lastKind.toNat = j.code) →
      (∃ t, exec (.status p address f) s = .next t ∧ (t.cell c).slot.lastKind = k ∧ (t.cell c).slot.lastTag = f.lastTag ∧
        (t.cell c).silence = 0) ∧
      (s.insertion c = none → exec (.status p address f) s = .next ((s.heardIn p c).modCell c fun x =>
        { x with slot := { x.slot with lastKind := k, lastTag := f.lastTag } })))

/-- CLEAR_LINK_COUNTS (R57): the answer fields carry the port's CRC error, missed-turn and stray-frame counts as they stood,
and the three are zeroed, with the CRC error and protocol-error counts of every cell mapped to the port; no record is written
and nothing else changes. A port outside 0..3 is BAD_ARG. -/
def Obligations.ClearLinkCountsReportsAndZeroes : Prop :=
  ∀ (s : State) (slot : BoardSlot) (port : Byte), s.Takes slot →
    (4 ≤ port.toNat → Answers (.clearLinkCounts slot port) slot s .badArg none [] s) ∧
    ∀ p : PortNo, port.toNat = p.val →
      ∃ u : State, Answers (.clearLinkCounts slot port) slot s .done none
        (leBytes 2 (s.port p).crcErrors ++ leBytes 2 (s.port p).missedTurns ++ leBytes 2 (s.port p).strayFrames) u ∧
      u = { s with ports := u.ports, cells := u.cells } ∧
      (∀ q, u.port q = if q = p then { s.port p with crcErrors := 0, missedTurns := 0, strayFrames := 0 } else s.port q) ∧
      ∀ c, u.cell c = if (s.cell c).mapping.any (fun m => m.port = p) then
        { s.cell c with crcErrors := 0, protocolErrors := 0 } else s.cell c

/-- A silence timer that reaches 5000 ms is reset (R52). A heard cell has lost its link: LINK_LOST is written with its port,
tap address, state and CRC error count, the heard flag is cleared, and inside its window it becomes SILENT with a CELL_STATE
record; its insertion is SUSPENDED (R80) and its reservation cancelled (R130). An unheard cell changes in nothing else. -/
def Obligations.SilenceIsALinkLoss : Prop :=
  ∀ (s : State) (c : CellNo) (m : Mapping), 5000 ≤ (s.cell c).silence → (s.cell c).mapping = some m →
    ((s.cell c).heard = false → exec (.silenceExpiry c) s = .next (s.modCell c fun x => { x with silence := 0 })) ∧
    ((s.cell c).heard = true → (s.port m.port).inWindow m.tap = true → (s.cell c).state ≠ .silent →
      (s.insertion c = none → s.reservationOf c = none →
        exec (.silenceExpiry c) s = .next
          (((s.report (.linkLost c m.port m.tap (s.cell c).state (s.cell c).crcErrors)).modCell c fun x => { x with
            silence := 0, heard := false, state := .silent }).report
              (.cellState c (s.cell c).state .silent .linkLoss))) ∧
      ∃ t, exec (.silenceExpiry c) s = .next t ∧ (t.cell c).state = .silent ∧ (t.cell c).heard = false ∧
        t.reservationOf c = none ∧
        ∀ i, s.insertion c = some i → ∃ j, t.insertion c = some j ∧ j.state = .suspended ∧
          j.before = (if i.state = .suspended then i.before else some i.state) ∧ j.resyncPending = false ∧
          (i.state.onHandler = true → (t.cell c).slot.desired = some .haltNow))

/-! ## Insertions (chapter 4) -/

/-- PAUSE_CELL and RESUME_CELL (R84, R66, R67, R68): the CELL_ORDER reason is added with HALT_AT_INDEX, or removed. A request
that changes the set sets sample void; RUNNING becomes PAUSING with the halt command; PAUSING, and PAUSED without a resume in
progress, are told the set's halt kind, or GO when the set is empty; PAUSED under a GO becomes PAUSING; in every other state
the command stands. A reason already as asked changes nothing. The refusals are BAD_ARG and NOT_FOUND. -/
def Obligations.PauseOrdersChangeTheReason : Prop :=
  ∀ (s : State) (slot : BoardSlot) (cell : Byte) (on : Bool), s.Takes slot →
    let order : Instr := if on then .pauseCell slot cell else .resumeCell slot cell
    let reason : Option HaltKind := if on then some .haltAtIndex else none
    (cell = 0 ∨ 48 < cell.toNat → Answers order slot s .badArg none [] s) ∧
    ∀ c : CellNo, cell.toNat = number c →
      (s.insertion c = none → Answers order slot s .notFound none [] s) ∧
      ∀ i, s.insertion c = some i →
        let p : PauseSet := { i.pause with cellOrder := reason }
        let u := s.modInsertion c fun j => { j with pause := p, sampleVoid := true }
        let v := (s.modInsertion c fun j => { j with pause := p, sampleVoid := true, state := .pausing }).report
          (.insertionEvent c i.lot (some i.state) (some .pausing) .pause)
        (i.pause.cellOrder = reason → Answers order slot s .done none [] s) ∧
        (i.pause.cellOrder ≠ reason →
          (i.state ≠ .running → i.state ≠ .pausing → i.state ≠ .paused → Answers order slot s .done none [] u) ∧
          (i.state = .running → on = true → Answers order slot s .done none [] (v.asked c p.halting)) ∧
          (i.state = .pausing → ¬ p.Empty → Answers order slot s .done none [] (u.asked c p.halting)) ∧
          (i.state = .pausing ∨ i.state = .paused → p.Empty → Answers order slot s .done none [] (u.asked c .go)) ∧
          (i.state = .paused → ¬ p.Empty → (s.cell c).slot.desired ≠ some .go →
            Answers order slot s .done none [] (u.asked c p.halting)) ∧
          (i.state = .paused → ¬ p.Empty → (s.cell c).slot.desired = some .go →
            Answers order slot s .done none [] (v.asked c p.halting)))

/-- END_RUN (R74, R65): from SOAKING, RUNNING, PAUSING and PAUSED the insertion becomes ENDING with FINISH, or ABORT when
abort requested is set; ENDING stays; SUSPENDED with a run takes ENDING as its state before suspension; all ACCEPTED. In
KIT_WAIT and LOADING, or SUSPENDED from them, the insertion is abandoned and DONE: the record and the desired command are
cleared, the lot returns to QUEUED, INSERTION_EVENT ABANDONED is written, and a BUSY cell becomes IDLE or OUT_OF_SERVICE. That
SUSPENDED with a run leaves the desired command as it stands is the model's choice (DESIGN CHOICE, log entry 36). -/
def Obligations.EndRunEndsOrAbandons : Prop :=
  ∀ (s : State) (slot : BoardSlot) (cell : Byte), s.Takes slot →
    (cell = 0 ∨ 48 < cell.toNat → Answers (.endRun slot cell) slot s .badArg none [] s) ∧
    ∀ c : CellNo, cell.toNat = number c →
      (s.insertion c = none → Answers (.endRun slot cell) slot s .notFound none [] s) ∧
      ∀ i, s.insertion c = some i →
        (i.state = .soaking ∨ i.state = .running ∨ i.state = .pausing ∨ i.state = .paused →
          Answers (.endRun slot cell) slot s .accepted none []
            (((s.modInsertion c fun j => { j with state := .ending }).report
              (.insertionEvent c i.lot (some i.state) (some .ending) .endRun)).asked c
                (if i.abortRequested then .abort else .finish))) ∧
        (i.state = .ending → Answers (.endRun slot cell) slot s .accepted none [] s) ∧
        (i.state = .suspended → i.before ≠ some .kitWait → i.before ≠ some .loading →
          Answers (.endRun slot cell) slot s .accepted none []
            (s.modInsertion c fun j => { j with before := some .ending })) ∧
        ∀ x, (i.state = .kitWait ∨ i.state = .loading ∨
            (i.state = .suspended ∧ (i.before = some .kitWait ∨ i.before = some .loading))) →
          s.lot i.lot = some x → x.state = .inTest → (s.cell c).state = s.derivedState c → s.reservationOf c = none →
          let old := (s.cell c).state
          let new : CellState := if old ≠ .busy then old else if (s.cell c).service then .idle else .outOfService
          let u := (((s.setInsertion c none).modCell c fun y => { y with
            slot := { y.slot with desired := none }, state := new }).setLotState i.lot .queued).report
              (.insertionEvent c i.lot (some i.state) none .abandoned)
          Answers (.endRun slot cell) slot s .done none []
            (if new = old then u else u.report (.cellState c old new .insertion))

/-- The kit timer in KIT_WAIT and the load timer in LOADING, at 0, end the insertion (R65, R30): the record and the desired
command are cleared, the lot returns to QUEUED, the cell's load-failure count grows to at most 3, the third failure clears the
service flag, LOAD_FAILED is written, and the cell becomes IDLE or OUT_OF_SERVICE. The soak timer in SOAKING, started and at 0,
moves the insertion to RUNNING with GO, or, with a pause reason standing, LINE_STOP added first by the cell's policy, to
PAUSING with the set's halt kind. -/
def Obligations.InsertionTimersExpire : Prop :=
  ∀ (s : State) (c : CellNo) (i : Insertion), s.insertion c = some i →
    (∀ (x : Lot) (timer : FailedTimer),
      (timer = .kit ∧ i.state = .kitWait ∧ i.kitTimer = 0) ∨ (timer = .load ∧ i.state = .loading ∧ i.loadTimer = 0) →
      s.lot i.lot = some x → x.state = .inTest → (s.cell c).state = .busy → s.derivedState c = .busy →
      s.reservationOf c = none →
      let n := min ((s.cell c).loadFailures + 1) 3
      let service : Bool := (s.cell c).service && n ≠ 3
      let new : CellState := if service then .idle else .outOfService
      exec (match timer with | .kit => .kitTimerExpiry c | .load => .loadTimerExpiry c) s = .next
        (((((s.setInsertion c none).modCell c fun y => { y with
          slot := { y.slot with desired := none }, loadFailures := n, service := service, state := new }).setLotState i.lot
            .queued).report (.loadFailed c i.lot timer n)).report
              (.cellState c .busy new (if n = 3 then .loadFailures else .insertion)))) ∧
    (i.state = .soaking → i.soakStarted = true → i.soakTimer = 0 →
      let p : PauseSet := if s.ft.mode = .lineStop ∧ (s.cell c).policy ≠ .exempt then
        { i.pause with lineStop := some (if (s.cell c).policy = .immediate then .haltNow else .haltAtIndex) } else i.pause
      let u := s.modInsertion c fun j => { j with pause := p, sampleVoid := j.sampleVoid || p ≠ i.pause }
      (p.Empty → exec (.soakTimerExpiry c) s = .next (((u.modInsertion c fun j => { j with state := .running }).report
        (.insertionEvent c i.lot (some .soaking) (some .running) .soakDone)).asked c .go)) ∧
      (¬ p.Empty → exec (.soakTimerExpiry c) s = .next (((u.modInsertion c fun j => { j with state := .pausing }).report
        (.insertionEvent c i.lot (some .soaking) (some .pausing) .soakDone)).asked c p.halting))) ∧
    ((i.state ≠ .kitWait ∨ i.kitTimer ≠ 0 → exec (.kitTimerExpiry c) s = .next s) ∧
      (i.state ≠ .loading ∨ i.loadTimer ≠ 0 → exec (.loadTimerExpiry c) s = .next s) ∧
      (i.state ≠ .soaking ∨ i.soakStarted = false ∨ i.soakTimer ≠ 0 → exec (.soakTimerExpiry c) s = .next s))

/-- A STATUS delivered to the insertion moves it by its state (R64, R65, R67, R68, R80, R82): in LOADING the LOAD applied with
the insertion's load tag brings SOAKING and the run entry, and a temperature reached starts the soak timer; in PAUSING the
handler HALTED under a halt kind brings PAUSED; GO applied with the handler INDEXING or IDLE ends a resume in RUNNING; a
SUSPENDED insertion without resync pending is left, and one with it, RUNNING before, is restored to RUNNING with GO. A soak timer
that the STATUS sets to 0 leaves the insertion in SOAKING: its expiry is an event of its own (DEDUCED, log entry 12).
The rule of each state is `readStatus`: in SOAKING the first temperature reached starts the soak timer and later ones do not; a
JAMMED handler sets sample void in SOAKING, RUNNING, PAUSING, PAUSED and ENDING (R72); PAUSED with a halt kind desired, PAUSING
until the handler is HALTED, and a resume until GO is applied, stay; KIT_WAIT, and LOADING without the echo, change nothing. A
resync (R82) first makes the units not seen gap, up to the expected quantity, with R70's hold request for a number above it, once
in the run; then it restores the insertion by each row of Table 4-2, with one INSERTION_EVENT RESTORE where LOADING ends too
(DEDUCED, log entry 27), and takes the rest of the STATUS by the rule of the state restored. -/
def Obligations.StatusMovesTheInsertion : Prop :=
  ∀ (s : State) (p : PortNo) (c : CellNo) (address : Byte) (i : Insertion) (f : StatusFrame) (k : Option CommandKind)
    (h : HandlerState),
    s.Delivers p address c i → f.handler.toNat ≤ 4 → HandlerState.ofCode? f.handler.toNat = some h →
    (k = none ∧ f.lastKind = 0 ∨ ∃ j, k = some j ∧ f.lastKind.toNat = j.code) →
    let u := (s.heardIn p c).modCell c fun x => { x with slot := { x.slot with lastKind := k, lastTag := f.lastTag } }
    (i.state = .loading → k = some .load → f.lastTag = i.loadTag → i.soakStarted = false →
      exec (.status p address f) s = .next
        ((((u.modInsertion c fun j => { j with
          state := .soaking
          soakStarted := f.tempReached
          soakTimer := if f.tempReached = false then j.soakTimer
            else if (s.cell c).lastTemp = some (s.recipe i.recipe).temp then 0 else 60 * (s.recipe i.recipe).soakMinutes
          sampleVoid := j.sampleVoid || f.handler = 3 }).report
            (.insertionEvent c i.lot (some .loading) (some .soaking) .loadEcho)).changeStep i.lot i.step fun st => { st with
              runs := st.runs ++ [{ cell := c, startSecond := s.ft.clock, unitsTested := 0, endSecond := none,
                                    outcome := none }] }).modCell c fun x => { x with loadFailures := 0 })) ∧
    (i.state = .loading → ¬ (k = some .load ∧ f.lastTag = i.loadTag) → exec (.status p address f) s = .next u) ∧
    (i.state = .pausing → f.handler = 2 → (s.cell c).slot.desired ≠ some .go →
      exec (.status p address f) s = .next ((u.modInsertion c fun j => { j with state := .paused }).report
        (.insertionEvent c i.lot (some .pausing) (some .paused) .halted))) ∧
    (i.state = .pausing ∨ i.state = .paused → (s.cell c).slot.desired = some .go → k = some .go → f.lastTag = i.loadTag →
      f.handler.toNat ≤ 1 →
      exec (.status p address f) s = .next ((u.modInsertion c fun j => { j with state := .running }).report
        (.insertionEvent c i.lot (some i.state) (some .running) .resumed))) ∧
    (i.state = .suspended → i.resyncPending = false → exec (.status p address f) s = .next u) ∧
    (i.state = .suspended → i.resyncPending = true → i.before = some .running → i.pause.Empty →
      f.highest.toNat ≤ i.unitsSeen → f.handler ≠ 3 →
      exec (.status p address f) s = .next (((u.modInsertion c fun j => { j with
        before := none, resyncPending := false, state := .running }).report
          (.insertionEvent c i.lot (some .suspended) (some .running) .restore)).asked c .go)) ∧
    (i.state ≠ .suspended → exec (.status p address f) s = .next (u.readStatus c h f)) ∧
    (∀ (v : State) (j : Insertion), v.insertion c = some j →
      let echo : Prop := k = some .load ∧ f.lastTag = j.loadTag
      let resumed : Prop := k = some .go ∧ f.lastTag = j.loadTag ∧ f.handler.toNat ≤ 1
      let jam (x : Insertion) : Insertion := { x with sampleVoid := x.sampleVoid || f.handler = 3 }
      let soak (x : Insertion) : Insertion := { x with
        soakStarted := x.soakStarted || f.tempReached
        soakTimer := if x.soakStarted = true ∨ f.tempReached = false then x.soakTimer
          else if (v.cell c).lastTemp = some (v.recipe j.recipe).temp then 0 else 60 * (v.recipe j.recipe).soakMinutes }
      (j.state = .kitWait ∨ j.state = .suspended ∨ (j.state = .loading ∧ ¬ echo) → v.readStatus c h f = v) ∧
      (j.state = .loading → echo → v.readStatus c h f =
        (((v.modInsertion c fun x => jam (soak { x with state := .soaking })).report
          (.insertionEvent c j.lot (some .loading) (some .soaking) .loadEcho)).changeStep j.lot j.step fun st => { st with
            runs := st.runs ++ [{ cell := c, startSecond := v.ft.clock, unitsTested := 0, endSecond := none,
                                  outcome := none }] }).modCell c fun x => { x with loadFailures := 0 }) ∧
      (j.state = .soaking → v.readStatus c h f = v.modInsertion c fun x => jam (soak x)) ∧
      (j.state = .running ∨ j.state = .ending → v.readStatus c h f = v.modInsertion c jam) ∧
      ((v.cell c).slot.desired ≠ some .go →
        (j.state = .pausing → f.handler = 2 → v.readStatus c h f = (v.modInsertion c fun x => { x with state := .paused }).report
          (.insertionEvent c j.lot (some .pausing) (some .paused) .halted)) ∧
        (j.state = .paused ∨ (j.state = .pausing ∧ f.handler ≠ 2) → v.readStatus c h f = v.modInsertion c jam)) ∧
      ((v.cell c).slot.desired = some .go → j.state = .pausing ∨ j.state = .paused →
        (resumed → v.readStatus c h f = (v.modInsertion c fun x => { x with state := .running }).report
          (.insertionEvent c j.lot (some j.state) (some .running) .resumed)) ∧
        (¬ resumed → v.readStatus c h f = v.modInsertion c jam))) ∧
    (i.state = .suspended → i.resyncPending = true → s.reservationOfLot i.lot = none →
      let seen := min f.highest.toNat i.expected
      let missed := (u.modInsertion c fun x => { x with
        runGap := x.runGap + (seen - i.unitsSeen), unitsSeen := seen }).changeStep i.lot i.step fun st => { st with
          gap := st.gap + (seen - i.unitsSeen) }
      let caught : State :=
        if i.takenBy.hasRun = false ∨ f.highest.toNat ≤ i.unitsSeen then u
        else if f.highest.toNat ≤ i.expected ∨ i.quantityHold = true then missed
        else ((missed.modInsertion c fun x => { x with quantityHold := true }).holdRequest i.lot
          { origin := .quantity, limit := none, reason := none, holdClass := .stopNow, cell := some c }).1
      ∃ j, caught.insertion c = some j ∧
        j = { i with runGap := j.runGap, unitsSeen := j.unitsSeen, quantityHold := j.quantityHold, pause := j.pause,
                     sampleVoid := j.sampleVoid } ∧
        let rest (v : State) : Prop := exec (.status p address f) s = .next (v.readStatus c h f)
        let back (new : InsState) : State := (caught.modInsertion c fun x => { x with
          before := none, resyncPending := false, state := new }).report
            (.insertionEvent c i.lot (some .suspended) (some new) .restore)
        let tag : Half := if (s.cell c).slot.tag = 65535 then 1 else (s.cell c).slot.tag + 1
        let asking (v : State) (cmd : Command) (timer : Insertion → Nat) : State :=
          (v.modInsertion c fun x => { x with loadTag := tag, loadTimer := timer x }).modCell c fun y => { y with
            slot := { y.slot with desired := some cmd, tag := tag } }
        let loadAgain (y : Lot) : State := asking (back .loading)
          (.load (s.recipe i.recipe).programId (s.recipe i.recipe).temp i.siteMask i.expected y.lotNumber) (fun _ => 30)
        let kit : Option Nat := (s.cell c).reported.map Identity.kitCode
        (∀ y, s.lot i.lot = some y → i.before = some .kitWait → kit = some (s.recipe i.recipe).kitCode →
          rest (loadAgain y)) ∧
        (i.before = some .kitWait → kit ≠ some (s.recipe i.recipe).kitCode →
          rest (asking (back .kitWait) (.kitRequest (s.recipe i.recipe).kitCode) Insertion.loadTimer)) ∧
        (i.before = some .loading → k = some .load → f.lastTag = i.loadTag →
          rest (((back .soaking).changeStep i.lot i.step fun st => { st with
            runs := st.runs ++ [{ cell := c, startSecond := s.ft.clock, unitsTested := 0, endSecond := none,
                                  outcome := none }] }).modCell c fun x => { x with loadFailures := 0 })) ∧
        (∀ y, s.lot i.lot = some y → i.before = some .loading → ¬ (k = some .load ∧ f.lastTag = i.loadTag) →
          rest (loadAgain y)) ∧
        (i.before = some .soaking → rest (back .soaking)) ∧
        (i.before = some .running → j.pause.Empty → rest ((back .running).asked c .go)) ∧
        (i.before = some .running → ¬ j.pause.Empty → rest ((back .pausing).asked c j.pause.halting)) ∧
        (∀ b, i.before = some b → b = .pausing ∨ b = .paused →
          (j.pause.Empty → rest ((back b).asked c .go)) ∧ (¬ j.pause.Empty → rest ((back b).asked c j.pause.halting))) ∧
        (i.before = some .ending → rest ((back .ending).asked c (if i.abortRequested then .abort else .finish))))

/-- A first-pass UNIT of a run, from a site of the site mask, in a bin 1..16, with a number above units_seen and within the
expected quantity, is counted (R69 step 4, R6, R7): in the insertion, in the lot's step with its open run, and in the units_in
of the step after it; then the Limit Monitor has it. -/
def Obligations.UnitsAreCounted : Prop :=
  ∀ (s : State) (p : PortNo) (c : CellNo) (address site bin : Byte) (n : Half) (i : Insertion) (k : Site) (b : Bin),
    s.Delivers p address c i → i.takenBy.hasRun = true → site.toNat = number k → i.siteMask.getLsbD k.val = true →
    bin.toNat = number b → i.unitsSeen < n.toNat → n.toNat ≤ i.expected →
    let passed : Bool := (s.recipe i.recipe).passSet.getLsbD b.val
    let skipped := n.toNat - i.unitsSeen - 1
    let u := ((s.heardIn p c).modInsertion c fun j => { j with
      runGap := j.runGap + (n.toNat - j.unitsSeen - 1)
      unitsSeen := n.toNat
      unitsTested := j.unitsTested + 1
      runBins := j.runBins.set b.val (j.runBins[b] + 1) b.isLt
      siteTested := j.siteTested.set k.val (j.siteTested[k] + 1) k.isLt
      sitePassed := if passed then j.sitePassed.set k.val (j.sitePassed[k] + 1) k.isLt else j.sitePassed
      siteFailRun := j.siteFailRun.set k.val (if passed then 0 else min (j.siteFailRun[k] + 1) 65535) k.isLt }).changeStep
        i.lot i.step fun st => { st with
          gap := st.gap + skipped
          bins := st.bins.set b.val (st.bins[b] + 1) b.isLt
          runs := modLastRun (fun r => { r with unitsTested := i.unitsTested + 1 }) st.runs }
    exec (.unit p address site bin 0 n) s = .next (u.monitorUnit c) ∧
    ∀ x st, s.lot i.lot = some x → 1 ≤ i.step → x.steps[i.step]? = some st → st.state ≠ .skipped →
      ∃ y st', u.lot i.lot = some y ∧ y.steps[i.step]? = some st' ∧
        st'.unitsIn = (y.step i.step).gradeTotal (s.recipe (x.step i.step).recipe).passSet

/-- Frames of a run that count nothing (R48, R69, R70): one for a cell without insertion, SILENT or MISMATCH is discarded; a
UNIT in KIT_WAIT or LOADING, of an unknown kind, of a site outside the site mask, of a bin outside 1..16, or with a number not
above units_seen is a protocol error; one above the expected quantity asks once in the run for a QUANTITY hold of class
STOP_NOW. -/
def Obligations.UnitsOutOfPlaceAreNotCounted : Prop :=
  ∀ (s : State) (p : PortNo) (c : CellNo) (address site bin : Byte) (n : Half),
    (s.Hears p address c → s.insertion c = none ∨ (s.cell c).state = .silent ∨ (s.cell c).state = .mismatch →
      (∀ kind, exec (.unit p address site bin kind n) s = .next (s.heardIn p c)) ∧
      exec (.unitRetest p address site bin n) s = .next (s.heardIn p c) ∧
      (∀ t mask, exec (.startIndex p address t mask) s = .next (s.heardIn p c)) ∧
      ∀ f, exec (.endOfRun p address f) s = .next (s.heardIn p c)) ∧
    ∀ i, s.Delivers p address c i →
      let inMask : Prop := ∃ k : Site, site.toNat = number k ∧ i.siteMask.getLsbD k.val = true
      (∀ kind : Byte, 2 ≤ kind.toNat → exec (.unit p address site bin kind n) s = .next (s.erredIn p c)) ∧
      (i.takenBy.hasRun = false ∨ ¬ inMask ∨ bin = 0 ∨ 16 < bin.toNat ∨ n.toNat ≤ i.unitsSeen →
        exec (.unit p address site bin 0 n) s = .next (s.erredIn p c)) ∧
      (i.takenBy.hasRun = true → inMask → bin ≠ 0 → bin.toNat ≤ 16 → i.unitsSeen < n.toNat → i.expected < n.toNat →
        (i.quantityHold = true → exec (.unit p address site bin 0 n) s = .next (s.heardIn p c)) ∧
        (i.quantityHold = false → exec (.unit p address site bin 0 n) s = .next
          (((s.heardIn p c).modInsertion c fun j => { j with quantityHold := true }).holdRequest i.lot
            { origin := .quantity, limit := none, reason := none, holdClass := .stopNow, cell := some c }).1))

/-- A retest (R71), as UNIT_RETEST or as a UNIT of kind RETEST: accepted, it moves one count from the original bin to the new
one in the run and in the step, and uses one retest; a retest into its own bin changes no count. One that fails a condition of
R71 is a protocol error. -/
def Obligations.RetestsMoveOneCount : Prop :=
  (∀ (s : State) (p : PortNo) (address site bin : Byte) (original : Half),
    exec (.unit p address site bin 1 original) s = exec (.unitRetest p address site bin original) s) ∧
  (∀ (o b : Bin) (v : Vector Nat 16), 0 < v[o] → ∀ d : Bin,
    (moveOne o b v)[d] = if b = o then v[d] else if d = o then v[d] - 1 else if d = b then v[d] + 1 else v[d]) ∧
  ∀ (s : State) (p : PortNo) (c : CellNo) (address site bin : Byte) (original : Half) (i : Insertion),
    s.Delivers p address c i →
    let inMask : Prop := ∃ k : Site, site.toNat = number k ∧ i.siteMask.getLsbD k.val = true
    let r := s.recipe i.recipe
    (∀ b o : Bin, i.takenBy.hasRun = true → inMask → bin.toNat = number b → original.toNat = number o →
      r.retestSet.getLsbD o.val = true → 0 < i.runBins[o] → i.retestsUsed < r.retestCap →
      exec (.unitRetest p address site bin original) s = .next
        (((s.heardIn p c).modInsertion c fun j => { j with
          runBins := moveOne o b j.runBins, retestsUsed := j.retestsUsed + 1 }).changeStep i.lot i.step fun st =>
            { st with bins := moveOne o b st.bins })) ∧
    (i.takenBy.hasRun = false ∨ ¬ inMask ∨ bin = 0 ∨ 16 < bin.toNat ∨ original = 0 ∨ 16 < original.toNat ∨
      (∃ o : Bin, original.toNat = number o ∧
        (r.retestSet.getLsbD o.val = false ∨ i.runBins[o] = 0 ∨ r.retestCap ≤ i.retestsUsed)) →
      exec (.unitRetest p address site bin original) s = .next (s.erredIn p c))

/-- START_INDEX (R72, R73): a mask outside the site mask, or no run, is a protocol error. Otherwise the timestamp is taken and
sample void cleared. Without an earlier timestamp, or with sample void set, nothing else changes. A sample above 4 times the
recipe's cycle time is a stall of the insertion and the step; any other sets or averages the cell's measured cycle time. -/
def Obligations.StartIndexTakesASample : Prop :=
  ∀ (s : State) (p : PortNo) (c : CellNo) (address mask : Byte) (t : Word) (i : Insertion), s.Delivers p address c i →
    let r := s.recipe i.recipe
    (i.takenBy.hasRun = false ∨ (∃ k : Site, mask.getLsbD k.val = true ∧ i.siteMask.getLsbD k.val = false) →
      exec (.startIndex p address t mask) s = .next (s.erredIn p c)) ∧
    (i.takenBy.hasRun = true → (∀ k : Site, mask.getLsbD k.val = true → i.siteMask.getLsbD k.val = true) →
      (i.lastIndex = none ∨ i.sampleVoid = true →
        exec (.startIndex p address t mask) s = .next ((s.heardIn p c).modInsertion c fun j => { j with
          lastIndex := some t, sampleVoid := false })) ∧
      ∀ t1, i.lastIndex = some t1 → i.sampleVoid = false →
        let sample := max 1 (min 60000 ((t.toNat + 4294967296 - t1.toNat) % 4294967296))
        (4 * r.cycleTime < sample →
          exec (.startIndex p address t mask) s = .next (((s.heardIn p c).modInsertion c fun j => { j with
            stalls := min (j.stalls + 1) 65535, lastIndex := some t, sampleVoid := false }).changeStep i.lot i.step fun st =>
              { st with stalls := min (st.stalls + 1) 65535 })) ∧
        (sample ≤ 4 * r.cycleTime →
          exec (.startIndex p address t mask) s = .next (((s.heardIn p c).modCell c fun x => { x with
            measured := if (i.firstSample = false ∧ x.lastRecipe ≠ some i.recipe) ∨ x.measured = 0 then sample
              else (7 * x.measured + sample + 4) / 8 }).modInsertion c fun j => { j with
                firstSample := true, lastIndex := some t, sampleVoid := false })))

/-- END of a run (R75 to R79): the units not seen become gap up to the expected quantity; totals whose sum is the units tested
and the run gap are adopted, others leave the KF-740's counts; the loss is taken up to the step's room, from which the
loss of earlier runs is taken off too (DEDUCED, log entry 23). The run closes: CLOSED
when the step is accounted for, ABORTED for a SCRAPPED lot, else SHORT. The insertion record and the desired command are
cleared and the cell keeps the recipe and its class. A step that closes leaves the lot EMPTY and COMPLETE, COMPLETE, or
QUEUED at its next step; one that does not leaves it QUEUED; a SCRAPPED lot stays so. An END without a run is a protocol
error. The close is one action in the order of R75 to R78: the catch-up with R70's request; the totals adopted, or a SOFT hold
request of origin RECONCILE; the loss, and for its excess a SOFT one of origin QUANTITY; the final evaluation, but for a SCRAPPED
lot; the run entry; the step closed, and for a loss above the allowance a SOFT request of origin LOSS, which names the cell
(DEDUCED, log entry 26), or the lot QUEUED and, with four runs listed, all closed (DEDUCED, log entry 28), quarantined as
EXHAUSTED (R7); the cell; and the STEP_RESULT record. A request makes an OPEN hold record in the lot's list, quarantines the lot
where list or table is full, and is discarded for a SCRAPPED or RELEASED lot (R103, R105, R106). -/
def Obligations.EndClosesTheRun : Prop :=
  (∀ (s : State) (l : LotSlot) (x : Lot) (r : HoldRequest), s.lot l = some x → r.origin ≠ .limit →
    (x.state = .scrapped ∨ x.state = .released → s.holdRequest l r = (s, 0)) ∧
    (x.state ≠ .scrapped → x.state ≠ .released → x.holds.length < 4 → s.hm.holds.length < 256 →
      ∃ h y, (s.holdRequest l r).1.hm = { holds := s.hm.holds ++ [h], lastId := h.id } ∧ h.lot = l ∧ h.step = x.current ∧
        h.origin = r.origin ∧ h.holdClass = r.holdClass ∧ h.cell = r.cell ∧ h.state = .opened ∧
        h.raisedSecond = s.ft.clock ∧ (s.holdRequest l r).1.lot l = some y ∧ y.holds = x.holds ++ [h.id]) ∧
    (x.state ≠ .scrapped → x.state ≠ .released → 4 ≤ x.holds.length ∨ 256 ≤ s.hm.holds.length →
      ∃ y, (s.holdRequest l r).1.lot l = some y ∧ y.quarantined = true ∧ y.holds = x.holds ∧
        (s.holdRequest l r).1.hm = s.hm)) ∧
  ∀ (s : State) (p : PortNo) (c : CellNo) (address : Byte) (f : EndFrame) (i : Insertion), s.Delivers p address c i →
    (i.takenBy.hasRun = false → exec (.endOfRun p address f) s = .next (s.erredIn p c)) ∧
    ∀ x, i.takenBy.hasRun = true → s.lot i.lot = some x → x.state = .inTest ∨ x.state = .scrapped → x.ship = none →
      x.current = i.step → 1 ≤ i.step → i.step ≤ x.steps.length → (x.step i.step).state = .opened →
      s.reservationOfLot i.lot = none → s.reservationOf c = none → s.derivedState c = .busy → (s.cell c).state = .busy →
      let st := x.step i.step
      let seen := if i.unitsSeen < f.highest.toNat then min f.highest.toNat i.expected else i.unitsSeen
      let missed := seen - i.unitsSeen
      let runGap := i.runGap + missed
      let adopted : Bool := (f.totals.toList.map BitVec.toNat).sum = i.unitsTested + runGap
      let bins : Vector Nat 16 := if adopted then
        Vector.ofFn fun b : Bin => st.bins[b] - i.runBins[b] + f.totals[b].toNat else st.bins
      let gap := if adopted then st.gap + missed - runGap else st.gap + missed
      let loss := st.loss + min f.loss.toNat (st.unitsIn - (bins.toList.sum + gap + st.loss))
      let closed : Bool := x.state = .inTest && bins.toList.sum + gap + loss = st.unitsIn
      let outcome : RunOutcome := if x.state = .scrapped then .aborted else if closed then .closed else .short
      let grades := (LotStep.gradeTotal (s.recipe st.recipe).passSet { st with bins := bins })
      ∃ t y, exec (.endOfRun p address f) s = .next t ∧ t.insertion c = none ∧ (t.cell c).slot.desired = none ∧
        (t.cell c).lastRecipe = some i.recipe ∧ (t.cell c).lastTemp = some (s.recipe i.recipe).temp ∧
        (t.cell c).state = (if (s.cell c).service then .idle else .outOfService) ∧
        t.lot i.lot = some y ∧ (y.step i.step).bins = bins ∧ (y.step i.step).gap = gap ∧ (y.step i.step).loss = loss ∧
        (y.step i.step).state = (if closed then .closed else .opened) ∧
        (y.step i.step).runs.getLast? = st.runs.getLast?.map (fun r => { r with
          endSecond := some s.ft.clock, outcome := some outcome }) ∧
        (x.state = .scrapped → y.state = .scrapped) ∧
        (x.state = .inTest → closed = false → y.state = .queued ∧ y.current = i.step) ∧
        (closed = true → grades = 0 → y.state = .complete ∧ y.empty = true) ∧
        (closed = true → grades ≠ 0 → i.step = x.steps.length → y.state = .complete ∧ y.empty = x.empty) ∧
        (closed = true → grades ≠ 0 → i.step < x.steps.length → y.state = .queued ∧ y.current = i.step + 1) ∧
        let asks (v : State) (origin : HoldOrigin) (holdClass : HoldClass) : State := (v.holdRequest i.lot
          { origin := origin, limit := none, reason := none, holdClass := holdClass, cell := some c }).1
        let v0 := s.heardIn p c
        let v1 : State := if f.highest.toNat ≤ i.unitsSeen then v0 else
          let v := (v0.modInsertion c fun j => { j with runGap := runGap, unitsSeen := seen }).changeStep i.lot i.step
            fun st => { st with gap := st.gap + missed }
          if i.expected < f.highest.toNat ∧ i.quantityHold = false then
            asks (v.modInsertion c fun j => { j with quantityHold := true }) .quantity .stopNow else v
        let v2 : State := if adopted then
            (v1.changeStep i.lot i.step fun st => { st with bins := bins, gap := st.gap - runGap }).modInsertion c
              fun j => { j with runBins := f.totals.map BitVec.toNat, runGap := 0 }
          else asks v1 .reconcile .soft
        let accepted := loss - st.loss
        let v3 : State :=
          let v := v2.changeStep i.lot i.step fun st => { st with loss := st.loss + accepted }
          if accepted < f.loss.toNat then asks v .quantity .soft else v
        let v4 := (if x.state = .scrapped then v3 else v3.monitorClose c).changeStep i.lot i.step fun st => { st with
          runs := modLastRun (fun r => { r with endSecond := some s.ft.clock, outcome := some outcome }) st.runs }
        let v5 : State :=
          if closed then if st.lossAllowance < loss then asks (v4.closeStep i.lot) .loss .soft else v4.closeStep i.lot
          else if x.state = .scrapped then v4
          else if 4 ≤ st.runs.length ∧ ∀ r ∈ st.runs.dropLast, r.endSecond ≠ none then
            (v4.setLotState i.lot .queued).quarantine i.lot (.exhausted 4)
          else v4.setLotState i.lot .queued
        let new : CellState := if (s.cell c).service then .idle else .outOfService
        let v6 := ((v5.setInsertion c none).modCell c fun z => { z with
          lastRecipe := some i.recipe, lastTemp := some (s.recipe i.recipe).temp, state := new
          slot := { z.slot with desired := none } }).report (.cellState c .busy new .insertion)
        t = (if new = .idle then v6.triggerPass else v6).report (.stepResult i.lot c i.step i.runIndex outcome i.unitsTested gap
          loss (bins.toList.sum + gap + loss) st.unitsIn)

/-! ## Limit sets and their evaluation (chapter 5) -/

/-- PUT_LIMIT_SET (R86, R87): a set whose fields, names, ranges and levels are in order becomes the record of its number, and
every insertion whose step names it has all eight positions ARMED and its down-counter brought down to the new interval. The
refusals are BAD_ARG with detail 0 for the set's own fields, then with the first entry position whose names, whose ranges,
or whose levels are out of order. An enabled byte other than 0 is set (DEDUCED, log entry 25). -/
def Obligations.PutLimitSetWritesTheSet : Prop :=
  ∀ (s : State) (slot : BoardSlot) (a : LimitSetArgs), s.Takes slot →
    let given := a.entries.take a.entryCount.toNat
    let fields : Prop := a.minUnits ≠ 0 ∧ a.siteMinUnits ≠ 0 ∧ a.interval ≠ 0 ∧ a.interval.toNat ≤ 2047 ∧ a.entryCount.toNat ≤ 8
    let named (e : EntryArgs) : Prop := e.metric.toNat ≤ 3 ∧ e.condition.toNat ≤ 3 ∧ e.holdClass.toNat ≤ 2 ∧
      (e.metric = 1 → 1 ≤ e.bin.toNat ∧ e.bin.toNat ≤ 16)
    let top (e : EntryArgs) : Nat := if e.metric = 3 then 65535 else 1000000
    let inRange (e : EntryArgs) : Prop := e.level1.toNat ≤ top e ∧ e.level2.toNat ≤ top e ∧ e.band.toNat ≤ top e
    let ordered (e : EntryArgs) : Prop := e.level2.toNat ≤ e.level1.toNat
    let firstNot (ok : EntryArgs → Prop) (k : Nat) : Prop :=
      (∃ e, given[k]? = some e ∧ ¬ ok e) ∧ ∀ m e, m < k → given[m]? = some e → ok e
    (a.number = 0 ∨ 64 < a.number.toNat ∨ ¬ fields → Answers (.putLimitSet slot a) slot s .badArg (some 0) [] s) ∧
    ∀ n : LimitNo, a.number.toNat = number n → fields →
      (∀ k, firstNot named k → Answers (.putLimitSet slot a) slot s .badArg (some (k + 1)) [] s) ∧
      ((∀ e ∈ given, named e) → ∀ k, firstNot inRange k →
        Answers (.putLimitSet slot a) slot s .badArg (some (k + 1)) [] s) ∧
      ((∀ e ∈ given, named e ∧ inRange e) → ∀ k, firstNot ordered k →
        Answers (.putLimitSet slot a) slot s .badArg (some (k + 1)) [] s) ∧
      ((∀ e ∈ given, named e ∧ inRange e ∧ ordered e) →
        ∃ (u : State) (set : LimitSet), Answers (.putLimitSet slot a) slot s .done (some 0) [] u ∧
          u = { s with limitSets := u.limitSets, insertions := u.insertions } ∧
          (∀ m, u.limitSet? m = if m = n then some set else s.limitSet? m) ∧
          set.minUnits = a.minUnits.toNat ∧ set.interval = a.interval.toNat ∧ set.siteMinUnits = a.siteMinUnits.toNat ∧
          set.entries.length = given.length ∧
          (∀ (k : Nat) (e : EntryArgs) (x : LimitEntry), given[k]? = some e → set.entries[k]? = some x →
            Metric.ofCode? e.metric.toNat e.bin.toNat = some x.metric ∧ x.level1 = e.level1.toNat ∧
            x.level2 = e.level2.toNat ∧ TripCondition.ofCode? e.condition.toNat = some x.condition ∧
            HoldClass.ofCode? e.holdClass.toNat = some x.holdClass ∧ x.band = e.band.toNat ∧
            (x.enabled = true ↔ e.enabled ≠ 0)) ∧
          ∀ c, (s.insertion c = none → u.insertion c = none) ∧
            ∀ i, s.insertion c = some i →
              ((∃ x, s.lot i.lot = some x ∧ (x.step i.step).limitSet = n) → u.insertion c = some { i with
                armed := Vector.replicate 8 true, downCounter := min i.downCounter a.interval.toNat }) ∧
              ((∀ x, s.lot i.lot = some x → (x.step i.step).limitSet ≠ n) → u.insertion c = some i))

/-- DROP_LIMIT_SET (R88, R85): a number outside 1..64 is BAD_ARG, an empty record NOT_FOUND, a set that some step of some lot
names IN_USE, and any other record becomes empty. -/
def Obligations.DropLimitSetEmptiesTheRecord : Prop :=
  ∀ (s : State) (slot : BoardSlot) (b : Byte), s.Takes slot →
    (b = 0 ∨ 64 < b.toNat → Answers (.dropLimitSet slot b) slot s .badArg none [] s) ∧
    ∀ n : LimitNo, b.toNat = number n →
      let named : Prop := ∃ l x st, s.lot l = some x ∧ st ∈ x.steps ∧ st.limitSet = n
      (s.limitSet? n = none → Answers (.dropLimitSet slot b) slot s .notFound none [] s) ∧
      (s.limitSet? n ≠ none → named → Answers (.dropLimitSet slot b) slot s .inUse none [] s) ∧
      (s.limitSet? n ≠ none → ¬ named → Answers (.dropLimitSet slot b) slot s .done none [] (s.setLimitSet n none))

/-- The metrics of a limit set (R89 to R91), and the evaluations made with them. A counted unit lowers the down-counter,
which is reloaded when it reaches 0; the evaluation is a checkpoint when one is due and the step's tested count has
reached min units, else of the FAIL_RUN entries alone (R93). The final evaluation, made when that count is at least 1, is
of the others (R94). An ARMED entry whose condition holds for its metric value trips and becomes DISARMED, a DISARMED one
whose value clears it by the band becomes ARMED, in signed arithmetic (R96, R97); the CHECKPOINT record is written before
the trips' records, always but for a unit evaluation without trip or re-arm (R99); each trip makes a hold with its limit
detail or quarantines the lot (R98). The unit counts and the lot's steps stand. A SCRAPPED lot has no evaluation (R95). A
request of origin LIMIT whose entry has an OPEN hold in the lot's list escalates: the lot is quarantined and no hold is
made (R104). That a set with no entry has its checkpoint and final records too is the model's reading of R85 and R99
(DEDUCED, log entry 43). -/
def Obligations.CountedUnitsAreMonitored : Prop :=
  (∀ (set : LimitSet) (i : Insertion) (st : LotStep) (pass : BitVec 16),
    let tested := (st.runs.map Run.unitsTested).sum
    let inMask (k : Site) : Prop := i.siteMask.getLsbD k.val = true
    let qualifies (k : Site) : Prop := inMask k ∧ set.siteMinUnits ≤ i.siteTested[k]
    let yield (k : Site) : Nat := i.sitePassed[k] * 1000000 / i.siteTested[k]
    (1 ≤ tested →
      metricValue set i st pass .passPpm = some (min 1000000
        (((List.finRange 16).map fun b => if pass.getLsbD b.val then st.bins[b] else 0).sum * 1000000 / tested)) ∧
      ∀ b : Bin, metricValue set i st pass (.binPpm b) = some (min 1000000 (st.bins[b] * 1000000 / tested))) ∧
    ((∀ k m, qualifies k → qualifies m → k = m) → metricValue set i st pass .siteSpreadPpm = none) ∧
    ((∃ k m, qualifies k ∧ qualifies m ∧ k ≠ m) → (∀ k : Site, i.sitePassed[k] ≤ i.siteTested[k]) →
      ∃ high low, qualifies high ∧ qualifies low ∧ (∀ k, qualifies k → yield low ≤ yield k ∧ yield k ≤ yield high) ∧
        metricValue set i st pass .siteSpreadPpm = some (yield high - yield low)) ∧
    ∃ v, metricValue set i st pass .failRun = some v ∧ (∀ k, inMask k → i.siteFailRun[k] ≤ v) ∧
      ((∃ k, inMask k ∧ i.siteFailRun[k] = v) ∨ (v = 0 ∧ ∀ k, ¬ inMask k))) ∧
  (∀ (s : State) (c : CellNo) (i : Insertion) (x : Lot), s.insertion c = some i → s.lot i.lot = some x →
    let st := x.step i.step
    let set := s.limitSet st.limitSet
    let counter := if i.downCounter ≤ 1 then set.interval else i.downCounter - 1
    let checkpoint : Prop := i.downCounter ≤ 1 ∧ set.minUnits ≤ st.tested
    let evaluates (kind : EvalKind) (examined : LimitEntry → Prop) (counter : Nat) (t : State) : Prop := ∃ j y,
      t.insertion c = some j ∧ t.lot i.lot = some y ∧
      j = { i with downCounter := counter, armed := j.armed, pause := j.pause, sampleVoid := j.sampleVoid, state := j.state } ∧
      y = { x with quarantined := y.quarantined, holds := y.holds } ∧
      ∃ entries : Vector (EntryOutcome × Nat) 8,
        (kind ≠ .unit ∨ (∃ q : Fin 8, entries[q].1 = .tripped ∨ entries[q].1 = .reArmed) → s.ru.occupancy < 1024 →
          s.ru.fifo ++ [{ second := s.ft.clock, report := .checkpoint i.lot kind c entries.toList }] <+: t.ru.fifo) ∧
        (kind = .unit → (∀ q : Fin 8, entries[q].1 ≠ .tripped ∧ entries[q].1 ≠ .reArmed) → t.ru = s.ru) ∧
        ∀ q : Fin 8,
          (set.entries[q.val]? = none → j.armed[q] = i.armed[q] ∧ entries[q] = (.notEvaluated, 0)) ∧
          ∀ e, set.entries[q.val]? = some e →
            (e.enabled = false ∨ ¬ examined e → j.armed[q] = i.armed[q] ∧ entries[q] = (.notEvaluated, 0)) ∧
            (e.enabled = true → examined e →
              (metricValue set i st (s.recipe st.recipe).passSet e.metric = none →
                j.armed[q] = i.armed[q] ∧ entries[q] = (.notEvaluated, 0)) ∧
              ∀ v : Nat, metricValue set i st (s.recipe st.recipe).passSet e.metric = some v →
                let w : Int := v
                let l1 : Int := e.level1
                let l2 : Int := e.level2
                let band : Int := e.band
                let trips : Prop := (e.condition = .aboveL1 ∧ l1 < w) ∨ (e.condition = .belowL2 ∧ w < l2) ∨
                  (e.condition = .inside ∧ l2 < w ∧ w < l1) ∨ (e.condition = .outside ∧ (l1 < w ∨ w < l2))
                let clears : Prop := (e.condition = .aboveL1 ∧ w ≤ l1 - band) ∨ (e.condition = .belowL2 ∧ l2 + band ≤ w) ∨
                  (e.condition = .inside ∧ (l1 + band ≤ w ∨ w ≤ l2 - band)) ∨
                  (e.condition = .outside ∧ l2 + band ≤ w ∧ w ≤ l1 - band)
                (i.armed[q] = true → ¬ trips → j.armed[q] = true ∧ entries[q] = (.noChange, v)) ∧
                (i.armed[q] = true → trips → j.armed[q] = false ∧ entries[q] = (.tripped, v) ∧
                  (x.state ≠ .released → y.quarantined = true ∨ ∃ h ∈ t.hm.holds, h.lot = i.lot ∧ h.origin = .limit ∧
                    h.holdClass = e.holdClass ∧ h.cell = some c ∧ h.limit = some
                      { set := st.limitSet, position := number q, metric := e.metric, value := v, units := st.tested })) ∧
                (i.armed[q] = false → ¬ clears → j.armed[q] = false ∧ entries[q] = (.noChange, v)) ∧
                (i.armed[q] = false → clears → j.armed[q] = true ∧ entries[q] = (.reArmed, v)))
    (x.state = .scrapped → s.monitorUnit c = s.modInsertion c fun j => { j with downCounter := counter }) ∧
    (st.tested = 0 → s.monitorClose c = s) ∧
    (x.state ≠ .scrapped → s.reservationOfLot i.lot = none →
      (checkpoint → evaluates .checkpoint (fun _ => True) counter (s.monitorUnit c)) ∧
      (¬ checkpoint → evaluates .unit (fun e => e.metric = .failRun) counter (s.monitorUnit c)) ∧
      (1 ≤ st.tested → evaluates .final (fun e => e.metric ≠ .failRun) i.downCounter (s.monitorClose c)))) ∧
  ∀ (s : State) (l : LotSlot) (x : Lot) (r : HoldRequest) (d : LimitDetail) (h : Hold), s.lot l = some x →
    x.state ≠ .scrapped → x.state ≠ .released → r.origin = .limit → r.limit = some d →
    let matching (g : Hold) : Prop := g ∈ s.holdsOf x ∧ g.origin = .limit ∧ g.state = .opened ∧
      ∃ e, g.limit = some e ∧ e.set = d.set ∧ e.position = d.position
    matching h → (∀ g, matching g → g = h) →
    (s.holdRequest l r).2 = 0 ∧ (s.holdRequest l r).1.hm = s.hm ∧
    (∃ y, (s.holdRequest l r).1.lot l = some y ∧ y.quarantined = true ∧ y.holds = x.holds ∧ y.steps = x.steps) ∧
    (s.ru.occupancy < 1024 → s.ru.fifo ++ [{ second := s.ft.clock, report := .quarantine l x.current (.escalation h.id r) }]
      <+: (s.holdRequest l r).1.ru.fifo)

/-! ## Holds, scrap and downgrade (chapter 6) -/

/-- PLACE_HOLD (R101, R103, R105, R106, R108, R109, R110): with room in the lot's list and the table, an OPEN record of origin
MANUAL is made under an id in 1..65535 that no record bears, the next after the last one where that is free; the id joins the
lot's list and HOLD_RAISED is written; a lot in test on a running handler is paused by a STOP class, and a reserved lot goes
back to the queue. Without room the lot is quarantined and the detail is 0. The refusals are BAD_ARG, NOT_FOUND and
WRONG_STATE, in that sequence. -/
def Obligations.PlaceHoldMakesAHold : Prop :=
  ∀ (s : State) (slot : BoardSlot) (lot reason : Half) (holdClass : Byte), s.Takes slot →
    (2 < holdClass.toNat → Answers (.placeHold slot lot holdClass reason) slot s .badArg none [] s) ∧
    (holdClass.toNat ≤ 2 → 512 ≤ lot.toNat ∨ (∃ l : LotSlot, lot.toNat = l.val ∧ s.lot l = none) →
      Answers (.placeHold slot lot holdClass reason) slot s .notFound none [] s) ∧
    ∀ (l : LotSlot) (x : Lot) (k : HoldClass), lot.toNat = l.val → s.lot l = some x → holdClass.toNat = k.code →
      (x.state = .released ∨ x.state = .scrapped →
        Answers (.placeHold slot lot holdClass reason) slot s .wrongState none [] s) ∧
      (x.state ≠ .released → x.state ≠ .scrapped →
        let request (cell : Option CellNo) : HoldRequest :=
          { origin := .manual, limit := none, reason := some reason.toNat, holdClass := k, cell := cell }
        let next := if 65535 ≤ s.hm.lastId then 1 else s.hm.lastId + 1
        let made (id : Nat) (cell : Option CellNo) (u : State) : Prop :=
          (1 ≤ id ∧ id ≤ 65535 ∧ (∀ h ∈ s.hm.holds, h.id ≠ id) ∧ ((∀ h ∈ s.hm.holds, h.id ≠ next) → id = next)) ∧
          u.hm = { holds := s.hm.holds ++ [{ id := id, lot := l, step := x.current, origin := .manual, limit := none,
                                             reason := some reason.toNat, holdClass := k, cell := cell,
                                             raisedSecond := s.ft.clock, state := .opened }], lastId := id }
        (x.holds.length < 4 → s.hm.holds.length < 256 →
          (s.Apart l → ∃ id u, made id none u ∧
            Answers (.placeHold slot lot holdClass reason) slot s .done (some id) [] u ∧
            u = ({ s with hm := u.hm }.setLot l (some { x with holds := x.holds ++ [id] })).report
              (.holdRaised l id x.current (request none))) ∧
          (∀ c i, s.insertionOf l = some c → s.insertion c = some i → i.state = .running → i.pause.Empty → x.holds = [] →
            x.quarantined = false → s.reservationOfLot l = none → ∃ id u j, made id (some c) u ∧
            Answers (.placeHold slot lot holdClass reason) slot s .done (some id) [] u ∧
            u.lot l = some { x with holds := [id] } ∧ u.insertion c = some j ∧
            (k = .soft → j = i) ∧
            (k = .stopEnd → j = { i with state := .pausing, sampleVoid := true, pause :=
              { i.pause with hold := some .haltAtIndex } } ∧ (u.cell c).slot.desired = some .haltAtIndex) ∧
            (k = .stopNow → j = { i with state := .pausing, sampleVoid := true, pause :=
              { i.pause with hold := some .haltNow } } ∧ (u.cell c).slot.desired = some .haltNow)) ∧
          (∀ r, s.reservationOfLot l = some r → (∀ c i, s.insertion c = some i → i.lot ≠ l) → x.state = .reserved →
            ∃ id u, made id (some r.cell) u ∧
            Answers (.placeHold slot lot holdClass reason) slot s .done (some id) [] u ∧
            u.lot l = some { x with holds := x.holds ++ [id], state := .queued, ready := s.minute } ∧
            u.de.reservations = s.de.reservations.filter (fun e => e.cell ≠ r.cell) ∧ l ∈ u.lm.queue)) ∧
        (4 ≤ x.holds.length ∨ 256 ≤ s.hm.holds.length → s.Apart l →
          Answers (.placeHold slot lot holdClass reason) slot s .done (some 0) []
            ((s.setLot l (some { x with quarantined := true })).report (.quarantine l x.current
              (if 4 ≤ x.holds.length then .lotListFull (request none) else .tableFull (request none))))))

/-- ACK_HOLD (R111): id 0 is BAD_ARG, an id no record bears NOT_FOUND, an ACKNOWLEDGED record WRONG_STATE; otherwise the
record's state becomes ACKNOWLEDGED and nothing else changes. -/
def Obligations.AckHoldAcknowledges : Prop :=
  ∀ (s : State) (slot : BoardSlot) (hold : Half), s.Takes slot →
    (hold = 0 → Answers (.ackHold slot hold) slot s .badArg none [] s) ∧
    (hold ≠ 0 → s.hold? hold.toNat = none → Answers (.ackHold slot hold) slot s .notFound none [] s) ∧
    ∀ h, hold ≠ 0 → s.hold? hold.toNat = some h →
      (h.state = .acknowledged → Answers (.ackHold slot hold) slot s .wrongState none [] s) ∧
      (h.state = .opened → Answers (.ackHold slot hold) slot s .done none []
        { s with hm := { s.hm with holds := s.hm.holds.map fun g =>
          if g.id = hold.toNat then { g with state := .acknowledged } else g } })

/-- DISPOSE (R112 to R114): CONTINUE of an acknowledged hold of an unquarantined lot deletes its record, takes the id out
of the lot's list, writes HOLD_CLEARED and calls for a pass; the last hold of a lot in test, standing alone in its pause
set, gives GO, and beside other reasons their halt kind; a RECONCILE hold turns the gap of the step it names into loss.
SCRAP, in a state whose cell states are the derived ones (R32, an invariant of every step), scraps the lot; that a
SUSPENDED insertion with a run is asked for ABORT at once is the model's choice (DEDUCED, log entry 36). The refusals are
BAD_ARG, NOT_FOUND, WRONG_STATE for an OPEN hold and QUARANTINED, in that sequence. -/
def Obligations.DisposeContinuesOrScraps : Prop :=
  ∀ (s : State) (slot : BoardSlot) (hold : Half) (d : Byte), s.Takes slot →
    (hold = 0 ∨ 1 < d.toNat → Answers (.dispose slot hold d) slot s .badArg none [] s) ∧
    (hold ≠ 0 → d.toNat ≤ 1 → s.hold? hold.toNat = none → Answers (.dispose slot hold d) slot s .notFound none [] s) ∧
    ∀ h x, hold ≠ 0 → d.toNat ≤ 1 → s.hold? hold.toNat = some h → s.lot h.lot = some x →
      (h.state = .opened → Answers (.dispose slot hold d) slot s .wrongState none [] s) ∧
      (h.state = .acknowledged → d = 0 → x.quarantined = true → Answers (.dispose slot hold d) slot s .quarantined none [] s) ∧
      (h.state = .acknowledged → d = 0 → x.quarantined = false →
        let cleared := (({ s with hm := { s.hm with holds := s.hm.holds.filter fun g => g.id ≠ h.id } } : State).setLot h.lot
          (some { x with holds := x.holds.erase h.id })).report
            (.holdCleared h.lot h.id h.origin h.holdClass .continue)
        (h.origin ≠ .reconcile → (∀ c i, s.insertion c = some i → i.lot ≠ h.lot) → x.ship = none →
          Answers (.dispose slot hold d) slot s .done none [] cleared.triggerPass) ∧
        (∀ c i k, h.origin ≠ .reconcile → s.insertionOf h.lot = some c → s.insertion c = some i → x.ship = none →
          x.holds = [h.id] → i.state = .pausing ∨ i.state = .paused →
          i.pause = { hold := some k, lineStop := none, cellOrder := none } →
          Answers (.dispose slot hold d) slot s .done none []
            ((cleared.modInsertion c fun j => { j with
              pause := { hold := none, lineStop := none, cellOrder := none }, sampleVoid := true }).asked c .go).triggerPass) ∧
        (∀ c i k, h.origin ≠ .reconcile → s.insertionOf h.lot = some c → s.insertion c = some i → x.ship = none →
          x.holds = [h.id] → i.state = .pausing ∨ (i.state = .paused ∧ (s.cell c).slot.desired ≠ some .go) →
          i.pause.hold = some k → let rest : PauseSet := { i.pause with hold := none }
          ¬ rest.Empty → Answers (.dispose slot hold d) slot s .done none []
            ((cleared.modInsertion c fun j => { j with pause := rest, sampleVoid := true }).asked c rest.halting).triggerPass) ∧
        (h.origin = .reconcile → 1 ≤ h.step → h.step ≤ x.steps.length → ∃ u y, Answers (.dispose slot hold d) slot s .done none [] u ∧
          u.lot h.lot = some y ∧ (y.step h.step).gap = 0 ∧
          (y.step h.step).loss = (x.step h.step).loss + (x.step h.step).gap ∧ y.holds = x.holds.erase h.id ∧
          u.de.passPending = true ∧ u.hm = { s.hm with holds := s.hm.holds.filter fun g => g.id ≠ h.id })) ∧
      (h.state = .acknowledged → d = 1 → s.CellStatesDerived →
        ∃ u, Answers (.dispose slot hold d) slot s .done none [] u ∧ s.Scrapped h.lot x u)

/-- DISPOSE_LOT (R114, R115, R142): for a quarantined lot without OPEN holds SCRAP, in a state whose cell states are the
derived ones (R32, an invariant of every step), scraps it, and DOWNGRADE deletes its holds, clears the quarantine, sets
DEVIATION, ends a membership of an OPEN NORMAL order, closes an exhausted step with the remainder as loss and the
accounted step of a QUEUED lot as it stands, and calls for a pass (R18, R115); the lot then goes on as R17 lays down:
EMPTY and COMPLETE with its later steps SKIPPED, COMPLETE, or QUEUED at its next step, where a QUEUED lot keeps its place;
a lot that is neither keeps its state and steps. The lot's hold list is empty, and the insertion that names the lot has no
HOLD reason left: a PAUSING or PAUSED one is asked for GO when no other reason stands, else for the halt of those that do
(R68, R108); no other insertion and no other cell changes. A step is exhausted when it is OPEN with four runs, all closed
(R7; DEDUCED, log entry 28), and the remainder becomes loss as it closes (R18). That SCRAP asks for ABORT at once in a
SUSPENDED insertion with a run is the model's choice (DEDUCED, log entry 36). The refusals are BAD_ARG, NOT_FOUND,
WRONG_STATE with detail 0, and WRONG_STATE with the first OPEN hold's id. -/
def Obligations.DisposeLotScrapsOrDowngrades : Prop :=
  ∀ (s : State) (slot : BoardSlot) (lot : Half) (d : Byte), s.Takes slot →
    (1 < d.toNat → Answers (.disposeLot slot lot d) slot s .badArg (some 0) [] s) ∧
    (d.toNat ≤ 1 → 512 ≤ lot.toNat ∨ (∃ l : LotSlot, lot.toNat = l.val ∧ s.lot l = none) →
      Answers (.disposeLot slot lot d) slot s .notFound (some 0) [] s) ∧
    ∀ (l : LotSlot) (x : Lot), d.toNat ≤ 1 → lot.toNat = l.val → s.lot l = some x →
      (x.quarantined = false → Answers (.disposeLot slot lot d) slot s .wrongState (some 0) [] s) ∧
      (x.quarantined = true → ∀ before h after, s.holdsOf x = before ++ h :: after → h.state = .opened →
        (∀ g ∈ before, g.state ≠ .opened) → Answers (.disposeLot slot lot d) slot s .wrongState (some h.id) [] s) ∧
      (x.quarantined = true → (∀ g ∈ s.holdsOf x, g.state ≠ .opened) →
        (d = 0 → s.CellStatesDerived →
          ∃ u, Answers (.disposeLot slot lot d) slot s .done (some 0) [] u ∧ s.Scrapped l x u) ∧
        (d = 1 → ∃ u y, Answers (.disposeLot slot lot d) slot s .done (some 0) [] u ∧ u.lot l = some y ∧
          u.hm.holds = s.hm.holds.filter (fun g => g.id ∉ x.holds) ∧ y.deviation = true ∧ y.quarantined = false ∧
          u.de.passPending = true ∧
          (∀ n o, x.ship = some n → s.ship n = some o → o.state = .opened → o.kind = .normal → y.ship = none) ∧
          (∀ e, s.insertionOf l ≠ some e → u.insertion e = s.insertion e ∧ u.cell e = s.cell e) ∧
          (x.holds.Nodup → (∀ h ∈ x.holds, ∃ g, s.hold? h = some g ∧ g.lot = l) → y.holds = [] ∧
            ∀ c i, s.insertionOf l = some c → s.insertion c = some i →
              let rest : PauseSet := { i.pause with hold := none }
              let asked (cmd : Command) : Cell :=
                { s.cell c with slot := { (s.cell c).slot with desired := some cmd } }
              (i.pause.hold = none → u.insertion c = some i ∧ u.cell c = s.cell c) ∧
              (i.pause.hold ≠ none → i.state = .pausing ∨ i.state = .paused → rest.Empty →
                u.insertion c = some { i with pause := rest, sampleVoid := true } ∧ u.cell c = asked .go) ∧
              (i.pause.hold ≠ none → i.state = .pausing ∨ i.state = .paused → ¬ rest.Empty →
                u.insertion c = some { i with
                  pause := rest, sampleVoid := true
                  state := if (s.cell c).slot.desired = some .go then .pausing else i.state } ∧
                u.cell c = asked rest.halting) ∧
              (i.pause.hold ≠ none → i.state ≠ .running → i.state ≠ .pausing → i.state ≠ .paused →
                u.insertion c = some { i with pause := rest, sampleVoid := true } ∧ u.cell c = s.cell c)) ∧
          (x.ship = none → 1 ≤ x.current → x.current ≤ x.steps.length →
            let st := x.step x.current
            let exhausted : Prop := st.state = .opened ∧ 4 ≤ st.runs.length ∧ ∀ r ∈ st.runs, r.endSecond ≠ none
            let accounted : Prop := x.state = .queued ∧ st.state = .opened ∧ st.accounted = st.unitsIn
            let grades := LotStep.gradeTotal (s.recipe st.recipe).passSet st
            (exhausted → (y.step x.current).loss = st.loss + (st.unitsIn - st.accounted)) ∧
            (¬ exhausted → accounted → (y.step x.current).loss = st.loss) ∧
            (exhausted ∨ accounted →
              y.step x.current = { st with state := .closed, loss := (y.step x.current).loss } ∧
              (grades = 0 → y.state = .complete ∧ y.empty = true ∧ y.tail = 0 ∧ y.current = x.current ∧
                ∀ k, x.current < k → k ≤ x.steps.length → (y.step k).state = .skipped ∧ (y.step k).unitsIn = 0 ∧
                  (y.step k).accounted = 0 ∧ (y.step k).runs = []) ∧
              (grades ≠ 0 → x.current = x.steps.length → y.state = .complete ∧ y.empty = x.empty ∧ y.tail = 0 ∧
                y.current = x.current) ∧
              (grades ≠ 0 → x.current < x.steps.length → y.state = .queued ∧ y.current = x.current + 1) ∧
              (x.state = .queued → y.state = .complete → u.lm.queue = s.lm.queue.erase l) ∧
              (x.state = .queued → y.state = .queued → u.lm.queue = s.lm.queue ∧ y.ready = x.ready)) ∧
            (¬ exhausted → ¬ accounted → y.state = x.state ∧ y.steps = x.steps ∧ u.lm.queue = s.lm.queue))))

/-! ## Dispatch (chapter 7) -/

/-- The pairs of a pass (R117 to R121): a QUEUED lot, not held, with a remainder in 1..65535, and an IDLE cell, the floor in
RUN, the bar entry letting them pair, and the identity fitting the recipe; its run, setup, slack and score are those of stages
4 to 11. -/
def Obligations.PairsAreEligibleAndScored : Prop :=
  ∀ (s : State) (l : LotSlot) (c : CellNo) (x : Lot) (d : Identity), s.lot l = some x → (s.cell c).reported = some d →
    let st := x.step x.current
    let r := s.recipe st.recipe
    let q := s.de.params
    let cell := s.cell c
    let eligible : Prop := s.ft.mode = .run ∧ cell.state = .idle ∧ x.state = .queued ∧ x.holds = [] ∧ x.quarantined = false ∧
      1 ≤ st.unitsIn - st.accounted ∧ st.unitsIn - st.accounted ≤ 65535 ∧
      (∀ b, x.bar = some b → b.cell = c → b.expiry ≤ s.minute) ∧
      d.testerClass = r.testerClass ∧ d.handlerClass = r.handlerClass ∧ d.temps.getLsbD r.temp.code = true ∧
      r.minSites ≤ d.siteCount
    let cycle := if cell.measured ≠ 0 ∧ cell.lastRecipe = some st.recipe then cell.measured else r.cycleTime
    let run := ceilDiv (ceilDiv (st.unitsIn - st.accounted) (min d.siteCount r.maxSites) * cycle) 60000
    let setup := (if d.kitCode = r.kitCode then 0 else q.kitMinutes) +
      (if cell.lastTemp = some r.temp then 0 else r.soakMinutes) +
      (if (cell.lastTemp = some .cold ∧ r.temp = .hot) ∨ (cell.lastTemp = some .hot ∧ r.temp = .cold) then q.transitionMinutes
        else 0)
    let slack : Int := max (-4096) (min 4095 ((x.due : Int) - (s.minute + setup + run + x.tail)))
    let age := min (s.minute - x.ready) 1023
    let score : Int := max 0 (min 65535 (8192 - slack + x.priority * q.priorityWeight + age - setup * q.setupWeight))
    (¬ eligible → s.pair? l c = none) ∧
    (eligible → s.pair? l c = some { lot := l, cell := c, due := x.due, score := score.toNat, slack := slack, setup := setup,
                                     run := run })

/-- DISPATCH_NOW and DISPATCH_PASS (R122 to R125, R132): the order sets the flag and answers 1 in RUN, 0 otherwise. A pass
starts on the flag, RUNNING, in RUN, below 800 records, and clears the flag. The candidates stand by the queue place of
their lot and then by cell number; the one taken has the highest score, among these the earliest due minute, and among
these it stands first. With 800 records the pass ends there and sets the flag; else the candidate is assigned, every pair
of its lot or of its cell is removed, and the pass goes on with the rest. An assignment writes PROPOSAL and, in AUTO mode,
starts the insertion: the lot IN_TEST and out of the queue, the cell BUSY with its command under the next load tag, the
record that R62 fills in KIT_WAIT or LOADING (its timers that the state entered does not use are the model's: DESIGN
CHOICE, log entry 37), and the records in the order of R125; or, in CONFIRM mode, it makes the reservation: the lot
RESERVED and out of the queue, the cell RESERVED. -/
def Obligations.PassesAssignTheBestPair : Prop :=
  ∀ s : State,
    (∀ slot, s.Takes slot → Answers (.dispatchNow slot) slot s .done (some (if s.ft.mode = .run then 1 else 0)) []
      { s with de := { s.de with passPending := true } }) ∧
    (∀ cs, (bestPair cs = none ↔ cs = []) ∧ ∀ q, bestPair cs = some q → ∃ before after, cs = before ++ q :: after ∧
      (∀ o ∈ before, o.score < q.score ∨ (o.score = q.score ∧ q.due < o.due)) ∧
      ∀ o ∈ after, o.score < q.score ∨ (o.score = q.score ∧ q.due ≤ o.due)) ∧
    (s.lm.queue.Nodup → s.candidates.Pairwise fun a b =>
      s.lm.queue.idxOf a.lot < s.lm.queue.idxOf b.lot ∨ (a.lot = b.lot ∧ a.cell < b.cell)) ∧
    (∀ q x, s.lot q.lot = some x →
      let expiry := s.minute + s.de.params.window
      let e : Reservation := { cell := q.cell, lot := q.lot, expiry := expiry, score := q.score }
      (s.de.params.mode = .auto → s.assign q =
        (s.report (.proposal q.lot q.cell x.current q.score q.slack q.setup q.run .auto 0)).startInsertion q.lot q.cell) ∧
      (∀ d, s.de.params.mode = .auto → x.state = .queued → (s.cell q.cell).state = .idle → s.derivedState q.cell = .idle →
        (s.cell q.cell).reported = some d →
        let st := x.step x.current
        let r := s.recipe st.recipe
        let fits : Bool := d.kitCode = r.kitCode
        let tag : Half := if (s.cell q.cell).slot.tag = 65535 then 1 else (s.cell q.cell).slot.tag + 1
        let mask : BitVec 8 := BitVec.ofNat 8 (2 ^ min d.siteCount r.maxSites - 1)
        let i : Insertion :=
          { lot := q.lot, step := x.current, runIndex := st.runs.length + 1, recipe := st.recipe, siteMask := mask,
            expected := st.unitsIn - st.accounted, unitsTested := 0, unitsSeen := 0, runGap := 0,
            runBins := Vector.replicate 16 0, siteTested := Vector.replicate 8 0, sitePassed := Vector.replicate 8 0,
            siteFailRun := Vector.replicate 8 0, retestsUsed := 0, quantityHold := false,
            downCounter := (s.limitSet st.limitSet).interval, armed := Vector.replicate 8 true, loadTag := tag,
            lastIndex := none, sampleVoid := false, firstSample := false, stalls := 0,
            pause := { hold := none, lineStop := none, cellOrder := none }, abortRequested := false,
            state := if fits then .loading else .kitWait, before := none, resyncPending := false, kitTimer := 7200,
            loadTimer := 30, soakTimer := 0, soakStarted := false }
        let cmd : Command := if fits then
          .load r.programId r.temp mask (st.unitsIn - st.accounted) x.lotNumber else .kitRequest r.kitCode
        let v := ((({ s with lm := { s.lm with queue := s.lm.queue.erase q.lot } } : State).setInsertion q.cell
          (some i)).setLot q.lot (some { x with state := .inTest })).modCell q.cell fun y => { y with
            state := .busy, slot := { y.slot with desired := some cmd, tag := tag } }
        s.assign q = (((v.report (.proposal q.lot q.cell x.current q.score q.slack q.setup q.run .auto 0)).report
          (.lotState q.lot (some .queued) (some .inTest) x.current)).report
            (.cellState q.cell .idle .busy .insertion)).report
              (.insertionEvent q.cell q.lot none (some i.state) .assigned)) ∧
      (s.de.params.mode = .confirm → x.state = .queued → (s.cell q.cell).state = .idle → s.derivedState q.cell = .idle →
        s.assign q = (((({ s with
          de := { s.de with reservations := s.de.reservations ++ [e] }
          lm := { s.lm with queue := s.lm.queue.erase q.lot } }.setLot q.lot (some { x with state := .reserved })).modCell
            q.cell fun y => { y with state := .reserved }).report
              (.proposal q.lot q.cell x.current q.score q.slack q.setup q.run .confirm expiry)).report
                (.lotState q.lot (some .queued) (some .reserved) x.current)).report
                  (.cellState q.cell .idle .reserved .reservation))) ∧
    (∀ fuel cs q, bestPair cs = some q → cs.length ≤ fuel →
      (800 ≤ s.ru.occupancy → State.assignAll fuel cs s = { s with de := { s.de with passPending := true } }) ∧
      (s.ru.occupancy < 800 →
        let rest := cs.filter fun o => o.lot ≠ q.lot && o.cell ≠ q.cell
        State.assignAll fuel cs s = State.assignAll rest.length rest (s.assign q))) ∧
    (s.de.passPending = false ∨ s.running = false ∨ s.ft.mode ≠ .run ∨ 800 ≤ s.ru.occupancy →
      exec .dispatchPass s = .next s) ∧
    (s.de.passPending = true → s.running = true → s.ft.mode = .run → s.ru.occupancy < 800 →
      let v := { s with de := { s.de with passPending := false } }
      (∀ q, q ∈ s.candidates ↔ q.score ≠ 0 ∧ ∃ l ∈ s.lm.queue, ∃ c, s.pair? l c = some q) ∧
      exec .dispatchPass s = .next (State.assignAll s.candidates.length s.candidates v) ∧
      (s.candidates = [] → exec .dispatchPass s = .next v) ∧
      (∀ q x, s.candidates = [q] → s.lot q.lot = some x →
        (s.de.params.mode = .auto → exec .dispatchPass s = .next
          ((v.report (.proposal q.lot q.cell x.current q.score q.slack q.setup q.run .auto 0)).startInsertion q.lot q.cell)) ∧
        (s.de.params.mode = .confirm → (s.cell q.cell).state = s.derivedState q.cell →
          let expiry := s.minute + s.de.params.window
          let e : Reservation := { cell := q.cell, lot := q.lot, expiry := expiry, score := q.score }
          exec .dispatchPass s = .next
            (((({ v with
              de := { v.de with reservations := s.de.reservations ++ [e] }
              lm := { v.lm with queue := s.lm.queue.erase q.lot } }.setLot q.lot (some { x with state := .reserved })).modCell
                q.cell fun y => { y with state := .reserved }).report
                  (.proposal q.lot q.cell x.current q.score q.slack q.setup q.run .confirm expiry)).report
                    (.lotState q.lot (some .queued) (some .reserved) x.current) |>.report
                      (.cellState q.cell .idle .reserved .reservation)))))

/-- CONFIRM of an entry that names both (R127, R62, R61, R54): the entry is deleted and the insertion starts on the cell with
the record that R62 fills, waiting for its kit or loading by the kit reported; the lot is IN_TEST, the cell BUSY, the command
takes the next load tag, and the records are written in the order of R125. The record's timers that the state entered does not use
stand at 7200 s, 30 s and 0 by the model's choice (DESIGN CHOICE, log entry 37). Without such an entry it is WRONG_STATE, and out
of range BAD_ARG. -/
def Obligations.ConfirmStartsTheInsertion : Prop :=
  ∀ (s : State) (slot : BoardSlot) (cell : Byte) (lot : Half), s.Takes slot →
    (cell = 0 ∨ 48 < cell.toNat ∨ 512 ≤ lot.toNat → Answers (.confirm slot cell lot) slot s .badArg none [] s) ∧
    ∀ (c : CellNo) (l : LotSlot), cell.toNat = number c → lot.toNat = l.val →
      ((∀ r ∈ s.de.reservations, ¬ (r.cell = c ∧ r.lot = l)) →
        Answers (.confirm slot cell lot) slot s .wrongState none [] s) ∧
      ∀ x d, (∃ r ∈ s.de.reservations, r.cell = c ∧ r.lot = l) → s.lot l = some x → x.state = .reserved →
        (s.cell c).reported = some d → (s.cell c).state = .reserved → s.derivedState c = .reserved →
        let st := x.step x.current
        let r := s.recipe st.recipe
        let fits : Bool := d.kitCode = r.kitCode
        let tag : Half := if (s.cell c).slot.tag = 65535 then 1 else (s.cell c).slot.tag + 1
        let mask : BitVec 8 := BitVec.ofNat 8 (2 ^ min d.siteCount r.maxSites - 1)
        let i : Insertion :=
          { lot := l, step := x.current, runIndex := st.runs.length + 1, recipe := st.recipe, siteMask := mask,
            expected := st.unitsIn - st.accounted, unitsTested := 0, unitsSeen := 0, runGap := 0,
            runBins := Vector.replicate 16 0, siteTested := Vector.replicate 8 0, sitePassed := Vector.replicate 8 0,
            siteFailRun := Vector.replicate 8 0, retestsUsed := 0, quantityHold := false,
            downCounter := (s.limitSet st.limitSet).interval, armed := Vector.replicate 8 true, loadTag := tag,
            lastIndex := none, sampleVoid := false, firstSample := false, stalls := 0,
            pause := { hold := none, lineStop := none, cellOrder := none }, abortRequested := false,
            state := if fits then .loading else .kitWait, before := none, resyncPending := false, kitTimer := 7200,
            loadTimer := 30, soakTimer := 0, soakStarted := false }
        let cmd : Command := if fits then
          .load r.programId r.temp mask (st.unitsIn - st.accounted) x.lotNumber else .kitRequest r.kitCode
        let v := ((({ s with de := { s.de with reservations := s.de.reservations.filter fun e => e.cell ≠ c } } : State).setInsertion
          c (some i)).setLot l (some { x with state := .inTest })).modCell c fun y => { y with
            state := .busy, slot := { y.slot with desired := some cmd, tag := tag } }
        Answers (.confirm slot cell lot) slot s .accepted none []
          (((v.report (.lotState l (some .reserved) (some .inTest) x.current)).report
            (.cellState c .reserved .busy .insertion)).report (.insertionEvent c l none (some i.state) .assigned))

/-- DECLINE and RESERVATION_EXPIRY (R128, R129): the entry is deleted and the lot is QUEUED with the present minute as its
ready minute, which calls for a pass; the cell becomes IDLE or OUT_OF_SERVICE. DECLINE bars the pair for a confirm window; an
expiry leaves the bar and writes RESERVATION_EXPIRED first, and happens only RUNNING or FAULTED, below 800 records, from the
expiry minute on. DECLINE is refused as CONFIRM is. -/
def Obligations.ReservationsEndInTheQueue : Prop :=
  ∀ (s : State) (c : CellNo),
    let back (v : State) (l : LotSlot) (x : Lot) (bar : Option Bar) : State :=
      let new : CellState := if (s.cell c).service then .idle else .outOfService
      ((((({ v with de := { v.de with reservations := v.de.reservations.filter fun e => e.cell ≠ c } } : State).setLot l (some
        { x with state := .queued, ready := s.minute, bar := bar })).joinQueue l).modCell c fun y => { y with
          state := new }).triggerPass.report (.lotState l (some .reserved) (some .queued) x.current)).report
            (.cellState c .reserved new .reservation)
    (∀ (slot : BoardSlot) (cell : Byte) (lot : Half), s.Takes slot →
      (cell = 0 ∨ 48 < cell.toNat ∨ 512 ≤ lot.toNat → Answers (.decline slot cell lot) slot s .badArg none [] s) ∧
      ∀ l : LotSlot, cell.toNat = number c → lot.toNat = l.val →
        ((∀ r ∈ s.de.reservations, ¬ (r.cell = c ∧ r.lot = l)) →
          Answers (.decline slot cell lot) slot s .wrongState none [] s) ∧
        ∀ x, (∃ r ∈ s.de.reservations, r.cell = c ∧ r.lot = l) → s.lot l = some x → x.state = .reserved →
          s.insertion c = none → (s.cell c).state = .reserved → s.derivedState c = .reserved →
          Answers (.decline slot cell lot) slot s .done none []
            (back s l x (some { cell := c, expiry := s.minute + s.de.params.window }))) ∧
    (∀ r x, s.reservationOf c = some r → s.lot r.lot = some x → x.state = .reserved → s.insertion c = none →
      (s.cell c).state = .reserved → s.derivedState c = .reserved → s.working = true → s.ru.occupancy < 800 →
      r.expiry ≤ s.minute →
      exec (.reservationExpiry c) s = .next
        (back (s.report (.reservationExpired r.lot c r.expiry r.score)) r.lot x x.bar)) ∧
    (∀ r, s.reservationOf c = some r → s.minute < r.expiry ∨ 800 ≤ s.ru.occupancy ∨ s.os.part = .halted →
      exec (.reservationExpiry c) s = .next s) ∧
    (s.reservationOf c = none → exec (.reservationExpiry c) s = .next s)

/-! ## Ship orders (chapter 8) -/

/-- OPEN_SHIP and ADD_TO_SHIP (R138, R139, R146): the lowest free record is filled, OPEN and empty, its number the detail; a
lot joins at the end of an OPEN order's list, and with the auto-release flag set and every member ready the order and its lots
are RELEASED within the same order, the detail 1, else 0. An auto-release byte other than 0 is set (DEDUCED, log entry 25). The
refusals stand in the sequence of R139. -/
def Obligations.ShipOrdersAreOpenedAndFilled : Prop :=
  ∀ (s : State) (slot : BoardSlot), s.Takes slot →
    (∀ (kind : Byte) (customer : Word) (auto : Byte),
      (1 < kind.toNat → Answers (.openShip slot kind customer auto) slot s .badArg none [] s) ∧
      (kind.toNat ≤ 1 → (∀ n, s.ship n ≠ none) → Answers (.openShip slot kind customer auto) slot s .noRoom none [] s) ∧
      ∀ n : ShipNo, kind.toNat ≤ 1 → s.ship n = none → (∀ m : ShipNo, m < n → s.ship m ≠ none) →
        Answers (.openShip slot kind customer auto) slot s .done (some (number n)) [] (s.setShip n (some
          { customer := customer, kind := if kind = 0 then .normal else .deviation, auto := auto ≠ 0, state := .opened,
            lots := [], releasedSecond := none }))) ∧
    ∀ (ship : Byte) (lot : Half),
      (ship = 0 ∨ 32 < ship.toNat ∨ 512 ≤ lot.toNat → Answers (.addToShip slot ship lot) slot s .badArg (some 0) [] s) ∧
      ∀ (n : ShipNo) (l : LotSlot), ship.toNat = number n → lot.toNat = l.val →
        (s.ship n = none ∨ s.lot l = none → Answers (.addToShip slot ship lot) slot s .notFound (some 0) [] s) ∧
        ∀ o x, s.ship n = some o → s.lot l = some x →
          let ended : Prop := x.state = .scrapped ∨ x.state = .released ∨ x.empty = true
          (o.state = .released → Answers (.addToShip slot ship lot) slot s .wrongState (some 0) [] s) ∧
          (o.state = .opened → ended → Answers (.addToShip slot ship lot) slot s .wrongState (some x.state.code) [] s) ∧
          (∀ m, o.state = .opened → ¬ ended → x.ship = some m →
            Answers (.addToShip slot ship lot) slot s .inUse (some (number m)) [] s) ∧
          (o.state = .opened → ¬ ended → x.ship = none →
            (16 ≤ o.lots.length → Answers (.addToShip slot ship lot) slot s .noRoom (some 0) [] s) ∧
            (o.lots.length < 16 → x.deviation = true → o.kind = .normal →
              Answers (.addToShip slot ship lot) slot s .deviation (some 0) [] s) ∧
            (o.lots.length < 16 → x.deviation = false ∨ o.kind = .deviation →
              let ready : Prop := x.Ready ∧ ∀ m ∈ o.lots, ∃ y, s.lot m = some y ∧ y.Ready
              let joined := (s.setShip n (some { o with lots := o.lots ++ [l] })).setLot l (some { x with ship := some n })
              (o.auto = false ∨ ¬ ready → Answers (.addToShip slot ship lot) slot s .done (some 0) [] joined) ∧
              (o.auto = true → ready → ∃ u, Answers (.addToShip slot ship lot) slot s .done (some 1) [] u ∧
                u.ship n = some { o with lots := o.lots ++ [l], state := .released, releasedSecond := some s.ft.clock } ∧
                ∀ m ∈ o.lots ++ [l], u.lot m = (joined.lot m).map fun y => { y with state := .released })))

/-- REMOVE_FROM_SHIP and CANCEL_SHIP (R140, R141, R135): a member of an OPEN order leaves its list where it stands, its
ship-order field becomes absent and SHIP_MEMBER_REMOVED is written; a cancelled order loses every member so, in list order, is
freed, and answers the number of lots it held. The removal from an order with the auto-release flag releases it when the members
left are all ready, with detail 1; an order that is left empty or not ready stays OPEN, with detail 0 (R140, R146). The refusals
are BAD_ARG, NOT_FOUND and WRONG_STATE, and NOT_FOUND for a lot that is no member. -/
def Obligations.MembersLeaveTheirOrder : Prop :=
  ∀ (s : State) (slot : BoardSlot) (ship : Byte) (lot : Half), s.Takes slot →
    (ship = 0 ∨ 32 < ship.toNat → Answers (.removeFromShip slot ship lot) slot s .badArg none [] s ∧
      Answers (.cancelShip slot ship) slot s .badArg none [] s) ∧
    (512 ≤ lot.toNat → Answers (.removeFromShip slot ship lot) slot s .badArg none [] s) ∧
    ∀ (n : ShipNo) (l : LotSlot), ship.toNat = number n → lot.toNat = l.val →
      (s.ship n = none → Answers (.removeFromShip slot ship lot) slot s .notFound none [] s ∧
        Answers (.cancelShip slot ship) slot s .notFound none [] s) ∧
      ∀ o, s.ship n = some o →
        (o.state = .released → Answers (.removeFromShip slot ship lot) slot s .wrongState none [] s ∧
          Answers (.cancelShip slot ship) slot s .wrongState none [] s) ∧
        (o.state = .opened →
          (l ∉ o.lots → Answers (.removeFromShip slot ship lot) slot s .notFound none [] s) ∧
          (∀ x, l ∈ o.lots → s.lot l = some x →
            o.auto = false ∨ o.lots.erase l = [] ∨ (∃ m ∈ o.lots.erase l, ∀ y, s.lot m = some y → ¬ y.Ready) →
            Answers (.removeFromShip slot ship lot) slot s .done (some 0) []
              (((s.setShip n (some { o with lots := o.lots.erase l })).setLot l (some { x with ship := none })).report
                (.shipMemberRemoved l n .removed o.kind (o.lots.length - 1)))) ∧
          (l ∈ o.lots → s.lot l ≠ none → o.auto = true → o.lots.erase l ≠ [] →
            (∀ m ∈ o.lots.erase l, ∃ y, m ≠ l ∧ s.lot m = some y ∧ y.Ready) →
            ∃ u, Answers (.removeFromShip slot ship lot) slot s .done (some 1) [] u ∧
              u.ship n = some { o with lots := o.lots.erase l, state := .released, releasedSecond := some s.ft.clock } ∧
              u.lot l = (s.lot l).map (fun y => { y with ship := none }) ∧
              ∀ m ∈ o.lots.erase l, u.lot m = (s.lot m).map fun y => { y with state := .released }) ∧
          ∃ u, Answers (.cancelShip slot ship) slot s .done (some o.lots.length) [] u ∧
            u = { s with lm := { s.lm with lots := u.lm.lots }, ships := u.ships, ru := u.ru } ∧
            (∀ m, u.ship m = if m = n then none else s.ship m) ∧
            (∀ m, u.lot m = if m ∈ o.lots then (s.lot m).map fun y => { y with ship := none } else s.lot m) ∧
            u.ru = ((List.range o.lots.length).zip o.lots).foldl (fun r e => r.append s.ft.clock
              (.shipMemberRemoved e.2 n .cancelled o.kind (o.lots.length - 1 - e.1))) s.ru)

/-- RELEASE_SHIP (R143 to R145): ALL with every member ready, and READY_ONLY with one, release the order: members that are
not ready leave it first, the others become RELEASED, the order is RELEASED at the present second with these lots, and the
detail is their number. The records are one SHIP_MEMBER_REMOVED for each member taken out, RELEASE and LOT_STATE for each
member released, with the content of Table 8-3, and SHIP_RELEASED with their sums. The refusals are BAD_ARG, NOT_FOUND,
WRONG_STATE, and NOT_READY with 512 for an empty order and the member that R143 names. An OPEN order with the auto-release
flag whose members are all ready releases so with manner AUTO (R137, R142, R146) within the END that completes its last
unready lot, the CONTINUE of that lot's last hold, its SCRAP, where every cell's state is the derived one (R32, an
invariant of every step), and its DOWNGRADE in a DEVIATION order. -/
def Obligations.ReleaseShipReleasesTheMembers : Prop :=
  ∀ s : State,
    let content (n : ShipNo) (o : Ship) (x : Lot) : ReleaseContent :=
      let last := x.step x.steps.length
      let inSet (st : LotStep) (b : Bin) : Bool := (s.recipe st.recipe).passSet.getLsbD b.val
      { lotNumber := x.lotNumber, ship := n, customer := o.customer, passSet := (s.recipe last.recipe).passSet,
        bins := last.bins, released := ((List.finRange 16).map fun b => if inSet last b then last.bins[b] else 0).sum,
        start := x.startQuantity,
        totalFail := (x.steps.map fun st => ((List.finRange 16).map fun b => if inSet st b then 0 else st.bins[b]).sum).sum,
        totalLoss := (x.steps.map LotStep.loss).sum, deviation := x.deviation, stepCount := x.steps.length }
    let released (n : ShipNo) (o : Ship) (manner : ReleaseManner) (out : Nat) (members : List (LotSlot × Lot))
        (u : ReportUnit) : ReportUnit :=
      (members.foldl (fun u m => (u.append s.ft.clock (.release m.1 (content n o m.2))).append s.ft.clock
        (.lotState m.1 (some .complete) (some .released) m.2.current)) u).append s.ft.clock
          (.shipReleased n o.kind o.customer manner members.length out
            (members.map fun m => (content n o m.2).released).sum (members.map fun m => m.2.startQuantity).sum)
    let pairs (ls : List LotSlot) : List (LotSlot × Lot) := ls.filterMap fun l => (s.lot l).map fun x => (l, x)
    (∀ m, s.readyAt m = true ↔ ∃ y, s.lot m = some y ∧ y.Ready) ∧
    (∀ (slot : BoardSlot) (ship mode : Byte), s.Takes slot →
      (ship = 0 ∨ 32 < ship.toNat ∨ 1 < mode.toNat →
        Answers (.releaseShip slot ship mode) slot s .badArg (some 0) [] s) ∧
      ∀ n : ShipNo, ship.toNat = number n → mode.toNat ≤ 1 →
        (s.ship n = none → Answers (.releaseShip slot ship mode) slot s .notFound (some 0) [] s) ∧
        ∀ o, s.ship n = some o →
          (o.state = .released → Answers (.releaseShip slot ship mode) slot s .wrongState (some 0) [] s) ∧
          (o.state = .opened →
            (o.lots = [] → Answers (.releaseShip slot ship mode) slot s .notReady (some 512) [] s) ∧
            (∀ before l after, o.lots = before ++ l :: after → (∀ m ∈ before, s.readyAt m = true) → s.readyAt l = false →
              mode = 0 → Answers (.releaseShip slot ship mode) slot s .notReady (some l.val) [] s) ∧
            (∀ l rest, o.lots = l :: rest → (∀ m ∈ o.lots, s.readyAt m = false) → mode = 1 →
              Answers (.releaseShip slot ship mode) slot s .notReady (some l.val) [] s) ∧
            ((∃ m ∈ o.lots, s.readyAt m = true) → mode = 1 ∨ (∀ m ∈ o.lots, s.readyAt m = true) →
              let members := o.lots.filter s.readyAt
              let out := o.lots.filter fun m => !s.readyAt m
              ∃ u, Answers (.releaseShip slot ship mode) slot s .done (some members.length) [] u ∧
                u.ship n = some { o with lots := members, state := .released, releasedSecond := some s.ft.clock } ∧
                (∀ m ∈ o.lots, s.readyAt m = true → u.lot m = (s.lot m).map fun y => { y with state := .released }) ∧
                (∀ m ∈ o.lots, s.readyAt m = false → u.lot m = (s.lot m).map fun y => { y with ship := none }) ∧
                (∀ m, m ∉ o.lots → u.lot m = s.lot m) ∧
                (o.lots.Nodup → u.ru = released n o (if mode = 0 then .all else .readyOnly) out.length (pairs members)
                  (((List.range out.length).zip out).foldl (fun r e => r.append s.ft.clock
                    (.shipMemberRemoved e.2 n .notReady o.kind (o.lots.length - 1 - e.1))) s.ru))))) ∧
    ∀ (n : ShipNo) (o : Ship) (l : LotSlot) (x : Lot), s.ship n = some o → o.state = .opened → o.auto = true → o.lots.Nodup →
      l ∈ o.lots → s.lot l = some x → x.ship = some n →
      (∀ m ∈ o.lots, m ≠ l → s.readyAt m = true) → s.reservationOfLot l = none →
      let shipped (lots : List LotSlot) (t : State) : Prop :=
        t.ship n = some { o with lots := lots, state := .released, releasedSecond := some s.ft.clock } ∧
        ∀ m ∈ lots, (m ≠ l → t.lot m = (s.lot m).map fun y => { y with state := .released }) ∧
          ∃ y, t.lot m = some y ∧ y.state = .released
      (∀ (slot : BoardSlot) (hold : Half) (h : Hold), s.Takes slot → hold ≠ 0 → s.hold? hold.toNat = some h → h.lot = l →
        h.state = .acknowledged → h.origin ≠ .reconcile → ({ x with holds := x.holds.erase h.id } : Lot).Ready →
        (∀ c i, s.insertion c = some i → i.lot ≠ l) →
        ∃ u, Answers (.dispose slot hold 0) slot s .done none [] u ∧ shipped o.lots u ∧
          u.ru = released n o .auto 0 (pairs o.lots)
            (s.ru.append s.ft.clock (.holdCleared l h.id h.origin h.holdClass .continue))) ∧
      (∀ (slot : BoardSlot) (lot : Half), s.Takes slot → lot.toNat = l.val → x.quarantined = true →
        (∀ g ∈ s.holdsOf x, g.state ≠ .opened ∧ g.lot = l) →
        (s.CellStatesDerived → o.lots.erase l ≠ [] → x.state ≠ .released →
          ∃ u, Answers (.disposeLot slot lot 0) slot s .done (some 0) [] u ∧ shipped (o.lots.erase l) u) ∧
        (o.kind = .deviation → x.holds = [] → ({ x with quarantined := false } : Lot).Ready →
          (∀ st ∈ x.steps, st.state ≠ .opened) → 1 ≤ x.current → x.current ≤ x.steps.length →
          (∀ c i, s.insertion c = some i → i.lot ≠ l) →
          ∃ u, Answers (.disposeLot slot lot 1) slot s .done (some 0) [] u ∧ shipped o.lots u)) ∧
      ∀ (p : PortNo) (c : CellNo) (address : Byte) (f : EndFrame) (i : Insertion), s.Delivers p address c i → i.lot = l →
        i.takenBy.hasRun = true → x.state = .inTest → x.current = i.step → i.step = x.steps.length → 1 ≤ i.step →
        x.empty = false → x.holds = [] → x.quarantined = false → s.reservationOf c = none →
        let st := x.step i.step
        let bins : Vector Nat 16 := Vector.ofFn fun b : Bin => st.bins[b] - i.runBins[b] + f.totals[b].toNat
        st.state = .opened → (s.limitSet st.limitSet).entries = [] → f.highest.toNat ≤ i.unitsSeen → f.loss = 0 →
        st.loss ≤ st.lossAllowance → st.gap = i.runGap →
        (f.totals.toList.map BitVec.toNat).sum = i.unitsTested + i.runGap → bins.toList.sum + st.loss = st.unitsIn →
        (∃ b : Bin, (s.recipe st.recipe).passSet.getLsbD b.val = true ∧ bins[b] ≠ 0) →
        (∀ k, 1 ≤ k → k < i.step → (x.step k).gap = 0) →
        ∃ t, exec (.endOfRun p address f) s = .next t ∧ t.insertion c = none ∧ shipped o.lots t

/-! ## Clock, pacer and floor modes (chapter 9) -/

/-- SET_CLOCK, MINUTE_NOTICE and DISPATCH_PACER_FIRE (R147 to R149): SET_CLOCK loads the clock and answers with the clock as
it stood; a change of the minute re-bases the next firing while RUNNING or FAULTED. A second that is at its end is counted by
MINUTE_NOTICE, with the notice when the floor minute changes, as one event (log entry 14): the clock grows by 1, from
4,294,967,295 to 0, re-bases the next firing at this wrap, and at any other change of the minute that has reached the next firing
calls for a firing, which is an event of its own (log entry 15): it calls for a pass and sets the next firing one interval on.
Reservations that have reached their expiry minute expire as events of their own too (log entry 13). -/
def Obligations.TheFloorClockCounts : Prop :=
  ∀ s : State,
    let rebased (minute : Nat) : Option Nat :=
      if s.os.part = .halted then s.ft.nextFiring else s.ft.nextFiring.map fun _ => minute + s.de.params.pacer
    let reached : Prop := s.os.part ≠ .halted ∧ s.ft.clock.toNat % 60 = 59 ∧
      ∃ m, s.ft.nextFiring = some m ∧ m ≤ s.minute + 1
    (∀ slot v, s.Takes slot → Answers (.setClock slot v) slot s .done none (leBytes 4 s.ft.clock.toNat)
      { s with ft := { s.ft with
        clock := v, nextFiring := if v.toNat / 60 = s.minute then s.ft.nextFiring else rebased (v.toNat / 60) } }) ∧
    (1000 ≤ s.ft.ms → s.ft.clock ≠ 4294967295#32 →
      (reached → exec .minuteNotice s = .next
        { s with ft := { s.ft with clock := s.ft.clock + 1, ms := 0, firing := true } }) ∧
      (¬ reached → exec .minuteNotice s = .next { s with ft := { s.ft with clock := s.ft.clock + 1, ms := 0 } })) ∧
    (1000 ≤ s.ft.ms → s.ft.clock = 4294967295#32 → exec .minuteNotice s = .next
      { s with ft := { s.ft with clock := 0, ms := 0, nextFiring := rebased 0 } }) ∧
    (s.ft.ms < 1000 → exec .minuteNotice s = .next s) ∧
    (s.os.part ≠ .halted → s.ft.firing = true → exec .dispatchPacerFire s = .next
      { s with de := { s.de with passPending := true }
               ft := { s.ft with firing := false
                                 nextFiring := s.ft.nextFiring.map fun _ => s.minute + s.de.params.pacer } }) ∧
    (s.os.part = .halted ∨ s.ft.firing = false → exec .dispatchPacerFire s = .next s)

/-- SET_FLOOR_MODE (R150 to R152): the mode is set and the old mode's code is the detail; a return to RUN calls for a pass. An
entry into LINE_STOP gives the reason of its cell's policy to every insertion taken as RUNNING, PAUSING or PAUSED on a cell
that is not EXEMPT, a departure takes it from every insertion, and the insertion acts on the change as R67 and R68 say. A mode
above 2 is BAD_ARG. -/
def Obligations.SetFloorModeStopsTheLine : Prop :=
  ∀ (s : State) (slot : BoardSlot) (mode : Byte), s.Takes slot →
    (2 < mode.toNat → Answers (.setFloorMode slot mode) slot s .badArg none [] s) ∧
    ∀ m : FloorMode, mode.toNat = m.code →
      ∃ u, Answers (.setFloorMode slot mode) slot s .done (some s.ft.mode.code) [] u ∧
        u = { s with ft := { s.ft with mode := m }, cells := u.cells, insertions := u.insertions, ru := u.ru,
                     de := { s.de with passPending := s.de.passPending || (m = .run && s.ft.mode ≠ .run) } } ∧
        ∀ c, (s.insertion c = none → u.insertion c = none ∧ u.cell c = s.cell c) ∧
          ∀ i, s.insertion c = some i →
            let added : Prop := m = .lineStop ∧ s.ft.mode ≠ .lineStop ∧ i.takenBy.onHandler = true ∧
              (s.cell c).policy ≠ .exempt
            let withdrawn : Prop := m ≠ .lineStop ∧ s.ft.mode = .lineStop
            ∃ j, u.insertion c = some j ∧ j.pause.hold = i.pause.hold ∧ j.pause.cellOrder = i.pause.cellOrder ∧
              (added → j.pause.lineStop = some (if (s.cell c).policy = .immediate then .haltNow else .haltAtIndex)) ∧
              (withdrawn → j.pause.lineStop = none) ∧
              (¬ added → ¬ withdrawn → j.pause.lineStop = i.pause.lineStop) ∧
              (j.pause = i.pause → j = i ∧ u.cell c = s.cell c) ∧
              (j.pause ≠ i.pause →
                j = { i with pause := j.pause, sampleVoid := true, state := j.state } ∧
                (i.state = .running → ¬ j.pause.Empty → j.state = .pausing ∧
                  u.cell c = { s.cell c with slot := { (s.cell c).slot with desired := some j.pause.halting } }) ∧
                (i.state = .pausing ∨ i.state = .paused → ¬ j.pause.Empty →
                  j.state = (if (s.cell c).slot.desired = some .go then .pausing else i.state) ∧
                  u.cell c = { s.cell c with slot := { (s.cell c).slot with desired := some j.pause.halting } }) ∧
                (i.state = .pausing ∨ i.state = .paused → j.pause.Empty → j.state = i.state ∧
                  u.cell c = { s.cell c with slot := { (s.cell c).slot with desired := some .go } }) ∧
                (i.state ≠ .running → i.state ≠ .pausing → i.state ≠ .paused →
                  j.state = i.state ∧ u.cell c = s.cell c))

/-! ## Report pages (chapter 11) -/

/-- A block's record joins the FIFO's tail with its floor second, three places for a RELEASE and one for any other; one
that does not fit in 1024 places is lost and sets OVERFLOW, and one that raises the occupancy to or past 512 or 800 sets
FIFO_HALF or BACKPRESSURE (R162, R164, R168). RECORD_MOVE and IDLE_TIMER_EXPIRY (R165, R166): RUNNING with a page FILLING,
the head record's bytes are written at the page's next free places, the record leaves the FIFO and an urgent one sets
URGENT; the page closes FULL when it is full, URGENT for an urgent record with close-on-urgent set, and otherwise the idle
timer restarts; a record without room closes the page first. The idle timer at its limit on a page with a place used
closes it IDLE. A page that closes is CLOSED, its header and PAGE_CLOSED say so, and a FREE other page enters FILLING
under the next sequence; the idle timer stands at 0 from then on (DESIGN CHOICE, log entry 41). Without a page or a record
nothing happens. The first clause gives the bytes of a record: 32 for each place, the header of Table 11-1, and the bodies
of Table 11-2 and R164 filled with zeros, enumerated values by their place in their lists (R158, R163). Of HOLD_RAISED it
gives the header, hold id, step and origin, of QUARANTINE the header (the layout of the rest is log entry 22); the code of
FREE is a free value (log entry 21), and dispositions and dispatch modes have the model's codes (DEDUCED, log entry 20).
-/
def Obligations.RecordsMoveIntoPages : Prop :=
  (let low (n : Nat) : Byte := BitVec.ofNat 8 n
    let two (n : Nat) : List Byte := [low n, low (n / 256)]
    let four (n : Nat) : List Byte := two n ++ two (n / 65536)
    let padded (n : Nat) (bs : List Byte) : List Byte := bs ++ List.replicate (n - bs.length) 0
    let ins : Option InsState → List Byte := fun
      | none => [0, 0]
      | some x => [1, low x.code]
    let lot : Option LotState → Byte := fun
      | none => Config.freeLotStateCode
      | some x => low x.code
    (∀ r : Record, r.bytes.length = 32 * r.report.places) ∧
    (∀ (t : Word) (c : CellNo) (l : LotSlot) (n : ShipNo),
      let bytes (e : Report) : List Byte := Record.bytes { second := t, report := e }
      let head (kind urgent subject : Nat) : List Byte := [low kind, low urgent] ++ two subject ++ four t.toNat
      (∀ x y k, bytes (.cellState c x y k) = head 1 0 (c.val + 1) ++ padded 24 [low x.code, low y.code, low k.code]) ∧
      (∀ (p : PortNo) tap x count, bytes (.linkLost c p tap x count) =
        head 2 0 (c.val + 1) ++ padded 24 ([low p.val, low tap, low x.code] ++ two count)) ∧
      (∀ x y k, bytes (.insertionEvent c l x y k) =
        head 3 0 (c.val + 1) ++ padded 24 (two l.val ++ ins x ++ ins y ++ [low k.code])) ∧
      (∀ k count, bytes (.loadFailed c l k count) =
        head 4 0 (c.val + 1) ++ padded 24 (two l.val ++ [low k.code, low count])) ∧
      (∀ k entries, bytes (.checkpoint l k c entries) =
        let packed := (entries.zipIdx.map fun (e, j) => 2 ^ (22 * j) * (e.2 % 2 ^ 20 + 2 ^ 20 * e.1.code)).sum
        head 5 0 l.val ++ [low k.code, low (c.val + 1)] ++ (List.range 22).map fun j => low (packed / 256 ^ j)) ∧
      (∀ step run o tested gap loss accounted unitsIn,
        bytes (.stepResult l c step run o tested gap loss accounted unitsIn) = head 6 0 l.val ++
          padded 24 ([low (c.val + 1), low step, low run, low o.code] ++ two tested ++ two gap ++ two loss ++ two accounted ++
            two unitsIn)) ∧
      (∀ hold step r, (bytes (.holdRaised l hold step r)).take 12 =
        head 7 1 l.val ++ two hold ++ [low step, low r.origin.code]) ∧
      (∀ hold o k d, bytes (.holdCleared l hold o k d) =
        head 8 0 l.val ++ padded 24 (two hold ++ [low o.code, low k.code, low d.code])) ∧
      (∀ step x, (bytes (.quarantine l step x)).take 8 = head 9 1 l.val) ∧
      (∀ step score slack setup run mode expiry, bytes (.proposal l c step score slack setup run mode expiry) =
        head 10 0 l.val ++ padded 24 ([low (c.val + 1), low step] ++ two score ++ two (slack % 65536).toNat ++ two setup ++
          two run ++ [low mode.code] ++ four expiry)) ∧
      (∀ expiry score, bytes (.reservationExpired l c expiry score) =
        head 11 0 l.val ++ padded 24 ([low (c.val + 1)] ++ four expiry ++ two score)) ∧
      (∀ k score, bytes (.reservationCancelled l c k score) =
        head 12 0 l.val ++ padded 24 ([low (c.val + 1), low k.code] ++ two score)) ∧
      (∀ x y step, bytes (.lotState l x y step) = head 13 0 l.val ++ padded 24 [lot x, lot y, low step]) ∧
      (∀ x, bytes (.release l x) = head 14 0 l.val ++
        padded 24 ([low (x.ship.val + 1), low x.stepCount, if x.deviation then 1 else 0, 0] ++ two x.passSet.toNat ++
          two x.released ++ two x.start ++ four x.customer.toNat ++ four x.totalFail ++ four x.totalLoss) ++
        padded 32 x.lotNumber.toList ++
        padded 32 (((List.finRange 16).filter fun k => x.passSet.getLsbD k.val).flatMap fun k => two x.bins[k])) ∧
      (∀ k customer manner gone left released start, bytes (.shipReleased n k customer manner gone left released start) =
        head 15 1 (n.val + 1) ++ padded 24 ([low k.code] ++ four customer.toNat ++ [low manner.code, low gone, low left] ++
          four released ++ four start)) ∧
      (∀ cause k left, bytes (.shipMemberRemoved l n cause k left) =
        head 16 0 l.val ++ padded 24 [low (n.val + 1), low cause.code, low k.code, low left])) ∧
    [CellState.detached, .parked, .silent, .mismatch, .busy, .reserved, .outOfService, .idle].map CellState.code =
      List.range 8 ∧
    [CellCause.mapping, .ident, .linkLoss, .freeze, .service, .insertion, .reservation, .loadFailures, .start].map
      CellCause.code = List.range 9 ∧
    [InsState.kitWait, .loading, .soaking, .running, .pausing, .paused, .ending, .suspended].map InsState.code =
      List.range 8 ∧
    [InsCause.assigned, .kitReady, .loadEcho, .soakDone, .pause, .halted, .resumed, .endRun, .abort, .suspend, .restore,
      .abandoned].map InsCause.code = List.range 12 ∧
    [FailedTimer.kit, .load].map FailedTimer.code = List.range 2 ∧
    [EvalKind.unit, .checkpoint, .final].map EvalKind.code = List.range 3 ∧
    [EntryOutcome.notEvaluated, .noChange, .tripped, .reArmed].map EntryOutcome.code = List.range 4 ∧
    [RunOutcome.closed, .short, .aborted].map RunOutcome.code = List.range 3 ∧
    [HoldOrigin.limit, .reconcile, .quantity, .loss, .manual].map HoldOrigin.code = List.range 5 ∧
    [HoldClass.soft, .stopEnd, .stopNow].map HoldClass.code = List.range 3 ∧
    [CancelCause.hold, .quarantine, .silent, .mismatch].map CancelCause.code = List.range 4 ∧
    [LotState.queued, .reserved, .inTest, .complete, .released, .scrapped].map LotState.code = List.range 6 ∧
    [ShipKind.normal, .deviation].map ShipKind.code = List.range 2 ∧
    [ReleaseManner.all, .readyOnly, .auto].map ReleaseManner.code = List.range 3 ∧
    [RemovalCause.removed, .cancelled, .scrapped, .downgraded, .notReady].map RemovalCause.code = List.range 5) ∧
  (∀ (u : ReportUnit) (second : Word) (e : Report),
    e.places = (if e.kind = 14 then 3 else 1) ∧
    (1024 < u.occupancy + e.places → u.append second e = u.setCause .overflow) ∧
    (u.occupancy + e.places ≤ 1024 → ∃ v, u.append second e = v ∧ v.occupancy = u.occupancy + e.places ∧
      v = { u with fifo := u.fifo ++ [{ second := second, report := e }], cause := v.cause, msi := v.msi } ∧
      let half : Prop := u.occupancy < 512 ∧ 512 ≤ v.occupancy
      let full : Prop := u.occupancy < 800 ∧ 800 ≤ v.occupancy
      (∀ c : Cause, v.cause.getLsbD c.bit =
        (u.cause.getLsbD c.bit || decide ((c = .fifoHalf ∧ half) ∨ (c = .backpressure ∧ full)))) ∧
      v.msi = u.msi +
        (if half ∧ u.cause.getLsbD 1 = false ∧ u.causeEnable.getLsbD 1 = true then 1 else 0) +
        (if full ∧ u.cause.getLsbD 2 = false ∧ u.causeEnable.getLsbD 2 = true then 1 else 0))) ∧
  ∀ s : State,
    let apart : Prop := s.ru.baseA.toNat + 32 * (s.ru.pageLength + 1) ≤ s.ru.baseB.toNat ∨
      s.ru.baseB.toNat + 32 * (s.ru.pageLength + 1) ≤ s.ru.baseA.toNat
    let header (state : Byte) (reason : CloseReason) (used : Nat) (sequence : Word) : List Byte :=
      [state, BitVec.ofNat 8 reason.code] ++ leBytes 2 used ++ leBytes 4 sequence.toNat ++ List.replicate 24 0
    let holds (t : State) (a : Nat) (bs : List Byte) : Prop := ∀ k (h : k < bs.length), t.hostByte (a + k) = some bs[k]
    let closes (p : PageId) (reason : CloseReason) (used : Nat) (t : State) : Prop :=
      t.ru.page p = { s.ru.page p with state := .closed, used := used } ∧ t.ru.lastClosed = some p ∧ t.ru.idle = 0 ∧
      t.ru.cause.getLsbD 0 = true ∧
      (apart → used ≤ s.ru.pageLength → holds t (s.ru.base p).toNat (header 2 reason used (s.ru.page p).sequence)) ∧
      ((s.ru.page (otherPage p)).state ≠ .free → t.ru.filling = none ∧ t.ru.sequence = s.ru.sequence ∧
        t.ru.page (otherPage p) = s.ru.page (otherPage p) ∧
        holds t (s.ru.base p).toNat (header 2 reason used (s.ru.page p).sequence)) ∧
      ((s.ru.page (otherPage p)).state = .free → t.ru.filling = some (otherPage p) ∧
        t.ru.sequence = (if s.ru.sequence = 4294967295#32 then 1 else s.ru.sequence + 1) ∧
        t.ru.page (otherPage p) = { state := .filling, used := 0, sequence := t.ru.sequence } ∧
        holds t (s.ru.base (otherPage p)).toNat (header 1 .none 0 t.ru.sequence))
    (s.running = false ∨ s.ru.filling = none ∨ s.ru.fifo = [] → exec .recordMove s = .next s) ∧
    (∀ p r rest, s.running = true → s.ru.filling = some p → s.ru.fifo = r :: rest →
      let used := (s.ru.page p).used + r.report.places
      let place := (s.ru.base p).toNat + 32 * (1 + (s.ru.page p).used)
      (s.ru.pageLength < used → ∃ t, exec .recordMove s = .next t ∧ t.ru.fifo = s.ru.fifo ∧
        closes p .full (s.ru.page p).used t) ∧
      (used < s.ru.pageLength → r.report.urgent = false ∨ s.ru.closeOnUrgent = false → ∃ t, exec .recordMove s = .next t ∧
        t.ru.fifo = rest ∧ t.ru.filling = some p ∧ t.ru.page p = { s.ru.page p with used := used } ∧
        t.ru.page (otherPage p) = s.ru.page (otherPage p) ∧ t.ru.idle = 0 ∧ t.ru.sequence = s.ru.sequence ∧
        (t.ru.cause.getLsbD 3 = (s.ru.cause.getLsbD 3 || r.report.urgent)) ∧ holds t place r.bytes ∧
        ∀ a, a < place ∨ place + r.bytes.length ≤ a → t.hostByte a = s.hostByte a) ∧
      (used = s.ru.pageLength → ∃ t, exec .recordMove s = .next t ∧ t.ru.fifo = rest ∧ closes p .full used t ∧
        (t.ru.cause.getLsbD 3 = (s.ru.cause.getLsbD 3 || r.report.urgent)) ∧
        (apart ∨ (s.ru.page (otherPage p)).state ≠ .free → holds t place r.bytes)) ∧
      (used < s.ru.pageLength → r.report.urgent = true → s.ru.closeOnUrgent = true → ∃ t, exec .recordMove s = .next t ∧
        t.ru.fifo = rest ∧ t.ru.cause.getLsbD 3 = true ∧ closes p .urgent used t ∧
        (apart ∨ (s.ru.page (otherPage p)).state ≠ .free → holds t place r.bytes))) ∧
    (∀ p, s.running = true → s.ru.filling = some p → 1 ≤ (s.ru.page p).used → s.ru.idleClose ≤ s.ru.idle →
      ∃ t, exec .idleTimerExpiry s = .next t ∧ t.ru.fifo = s.ru.fifo ∧ closes p .idle (s.ru.page p).used t) ∧
    (s.ru.filling = none ∨ s.running = false ∨ s.ru.idle < s.ru.idleClose ∨
        (∃ p, s.ru.filling = some p ∧ (s.ru.page p).used = 0) → exec .idleTimerExpiry s = .next s)

/-! ## Invariants -/

/-- Every step that answers a next state keeps the invariants together: host memory canonical, the FIFO within 1024 places
(R162), a fault source present exactly in FAULTED (R154), the saturating counts in their ranges (R30, R35, R38), the hold table
within 256 records and each hold list within 4 (R100, R102), ship orders within 16 lots (R135), every cell's state the first
row of Table 2-4 that holds (R32), the dispatch queue holding the QUEUED lots, each once, in order (R13, R14), and in every
insertion units_seen equal to units_tested plus the run gap, within the expected quantity (R69). -/
def Obligations.EveryStepKeepsTheInvariants : Prop :=
  ∀ s t : State, s.Sound → step s = .next t → t.Sound

/-- The state after a power-on reset satisfies the invariants. -/
def Obligations.ResetSatisfiesTheInvariants : Prop := State.reset.Sound
end

