-- ==== Sys2Proof/Laws/State.lean ====
section
/-! SUPPORT. One lemma for each component and each update of State: what the update leaves, by rfl; and what is read back
after it. -/

namespace Sys2Proof.Machine

/-! ### setRecipe -/

@[simp] theorem State.setRecipe_cells (s : State) (r : RecipeNo) (x : Option Recipe) : (s.setRecipe r x).cells = s.cells := rfl
@[simp] theorem State.setRecipe_ports (s : State) (r : RecipeNo) (x : Option Recipe) : (s.setRecipe r x).ports = s.ports := rfl
@[simp] theorem State.setRecipe_insertions (s : State) (r : RecipeNo) (x : Option Recipe) : (s.setRecipe r x).insertions = s.insertions := rfl
@[simp] theorem State.setRecipe_limitSets (s : State) (r : RecipeNo) (x : Option Recipe) : (s.setRecipe r x).limitSets = s.limitSets := rfl
@[simp] theorem State.setRecipe_hm (s : State) (r : RecipeNo) (x : Option Recipe) : (s.setRecipe r x).hm = s.hm := rfl
@[simp] theorem State.setRecipe_de (s : State) (r : RecipeNo) (x : Option Recipe) : (s.setRecipe r x).de = s.de := rfl
@[simp] theorem State.setRecipe_ships (s : State) (r : RecipeNo) (x : Option Recipe) : (s.setRecipe r x).ships = s.ships := rfl
@[simp] theorem State.setRecipe_ft (s : State) (r : RecipeNo) (x : Option Recipe) : (s.setRecipe r x).ft = s.ft := rfl
@[simp] theorem State.setRecipe_os (s : State) (r : RecipeNo) (x : Option Recipe) : (s.setRecipe r x).os = s.os := rfl
@[simp] theorem State.setRecipe_ru (s : State) (r : RecipeNo) (x : Option Recipe) : (s.setRecipe r x).ru = s.ru := rfl
@[simp] theorem State.setRecipe_host (s : State) (r : RecipeNo) (x : Option Recipe) : (s.setRecipe r x).host = s.host := rfl
@[simp] theorem State.setRecipe_freeIx (s : State) (r : RecipeNo) (x : Option Recipe) : (s.setRecipe r x).freeIx = s.freeIx := rfl
@[simp] theorem State.setRecipe_pending (s : State) (r : RecipeNo) (x : Option Recipe) : (s.setRecipe r x).pending = s.pending := rfl
@[simp] theorem State.setRecipe_cell (s : State) (r : RecipeNo) (x : Option Recipe) (i : CellNo) :
    (s.setRecipe r x).cell i = s.cell i := rfl
@[simp] theorem State.setRecipe_port (s : State) (r : RecipeNo) (x : Option Recipe) (i : PortNo) :
    (s.setRecipe r x).port i = s.port i := rfl
@[simp] theorem State.setRecipe_insertion (s : State) (r : RecipeNo) (x : Option Recipe) (i : CellNo) :
    (s.setRecipe r x).insertion i = s.insertion i := rfl
@[simp] theorem State.setRecipe_limitSetOpt (s : State) (r : RecipeNo) (x : Option Recipe) (i : LimitNo) :
    (s.setRecipe r x).limitSet? i = s.limitSet? i := rfl
@[simp] theorem State.setRecipe_limitSet (s : State) (r : RecipeNo) (x : Option Recipe) (i : LimitNo) :
    (s.setRecipe r x).limitSet i = s.limitSet i := rfl
@[simp] theorem State.setRecipe_ship (s : State) (r : RecipeNo) (x : Option Recipe) (i : ShipNo) :
    (s.setRecipe r x).ship i = s.ship i := rfl
@[simp] theorem State.setRecipe_hostByte (s : State) (r : RecipeNo) (x : Option Recipe) (i : Nat) :
    (s.setRecipe r x).hostByte i = s.hostByte i := rfl
@[simp] theorem State.setRecipe_minute (s : State) (r : RecipeNo) (x : Option Recipe) :
    (s.setRecipe r x).minute = s.minute := rfl
@[simp] theorem State.setRecipe_running (s : State) (r : RecipeNo) (x : Option Recipe) :
    (s.setRecipe r x).running = s.running := rfl
@[simp] theorem State.setRecipe_working (s : State) (r : RecipeNo) (x : Option Recipe) :
    (s.setRecipe r x).working = s.working := rfl
@[simp] theorem State.setRecipe_backpressure (s : State) (r : RecipeNo) (x : Option Recipe) :
    (s.setRecipe r x).backpressure = s.backpressure := rfl
@[simp] theorem State.setRecipe_reservationOf (s : State) (r : RecipeNo) (x : Option Recipe) (i : CellNo) :
    State.reservationOf i (s.setRecipe r x) = State.reservationOf i s := rfl
@[simp] theorem State.setRecipe_holdOpt (s : State) (r : RecipeNo) (x : Option Recipe) (i : Nat) :
    State.hold? i (s.setRecipe r x) = State.hold? i s := rfl

/-! ### setLot -/

@[simp] theorem State.setLot_cells (s : State) (l : LotSlot) (x : Option Lot) : (s.setLot l x).cells = s.cells := rfl
@[simp] theorem State.setLot_ports (s : State) (l : LotSlot) (x : Option Lot) : (s.setLot l x).ports = s.ports := rfl
@[simp] theorem State.setLot_insertions (s : State) (l : LotSlot) (x : Option Lot) : (s.setLot l x).insertions = s.insertions := rfl
@[simp] theorem State.setLot_limitSets (s : State) (l : LotSlot) (x : Option Lot) : (s.setLot l x).limitSets = s.limitSets := rfl
@[simp] theorem State.setLot_hm (s : State) (l : LotSlot) (x : Option Lot) : (s.setLot l x).hm = s.hm := rfl
@[simp] theorem State.setLot_de (s : State) (l : LotSlot) (x : Option Lot) : (s.setLot l x).de = s.de := rfl
@[simp] theorem State.setLot_ships (s : State) (l : LotSlot) (x : Option Lot) : (s.setLot l x).ships = s.ships := rfl
@[simp] theorem State.setLot_ft (s : State) (l : LotSlot) (x : Option Lot) : (s.setLot l x).ft = s.ft := rfl
@[simp] theorem State.setLot_os (s : State) (l : LotSlot) (x : Option Lot) : (s.setLot l x).os = s.os := rfl
@[simp] theorem State.setLot_ru (s : State) (l : LotSlot) (x : Option Lot) : (s.setLot l x).ru = s.ru := rfl
@[simp] theorem State.setLot_host (s : State) (l : LotSlot) (x : Option Lot) : (s.setLot l x).host = s.host := rfl
@[simp] theorem State.setLot_freeIx (s : State) (l : LotSlot) (x : Option Lot) : (s.setLot l x).freeIx = s.freeIx := rfl
@[simp] theorem State.setLot_pending (s : State) (l : LotSlot) (x : Option Lot) : (s.setLot l x).pending = s.pending := rfl
@[simp] theorem State.setLot_cell (s : State) (l : LotSlot) (x : Option Lot) (i : CellNo) :
    (s.setLot l x).cell i = s.cell i := rfl
@[simp] theorem State.setLot_port (s : State) (l : LotSlot) (x : Option Lot) (i : PortNo) :
    (s.setLot l x).port i = s.port i := rfl
@[simp] theorem State.setLot_insertion (s : State) (l : LotSlot) (x : Option Lot) (i : CellNo) :
    (s.setLot l x).insertion i = s.insertion i := rfl
@[simp] theorem State.setLot_limitSetOpt (s : State) (l : LotSlot) (x : Option Lot) (i : LimitNo) :
    (s.setLot l x).limitSet? i = s.limitSet? i := rfl
@[simp] theorem State.setLot_limitSet (s : State) (l : LotSlot) (x : Option Lot) (i : LimitNo) :
    (s.setLot l x).limitSet i = s.limitSet i := rfl
@[simp] theorem State.setLot_ship (s : State) (l : LotSlot) (x : Option Lot) (i : ShipNo) :
    (s.setLot l x).ship i = s.ship i := rfl
@[simp] theorem State.setLot_hostByte (s : State) (l : LotSlot) (x : Option Lot) (i : Nat) :
    (s.setLot l x).hostByte i = s.hostByte i := rfl
@[simp] theorem State.setLot_minute (s : State) (l : LotSlot) (x : Option Lot) :
    (s.setLot l x).minute = s.minute := rfl
@[simp] theorem State.setLot_running (s : State) (l : LotSlot) (x : Option Lot) :
    (s.setLot l x).running = s.running := rfl
@[simp] theorem State.setLot_working (s : State) (l : LotSlot) (x : Option Lot) :
    (s.setLot l x).working = s.working := rfl
@[simp] theorem State.setLot_backpressure (s : State) (l : LotSlot) (x : Option Lot) :
    (s.setLot l x).backpressure = s.backpressure := rfl
@[simp] theorem State.setLot_reservationOf (s : State) (l : LotSlot) (x : Option Lot) (i : CellNo) :
    State.reservationOf i (s.setLot l x) = State.reservationOf i s := rfl
@[simp] theorem State.setLot_holdOpt (s : State) (l : LotSlot) (x : Option Lot) (i : Nat) :
    State.hold? i (s.setLot l x) = State.hold? i s := rfl

/-! ### modLot -/

@[simp] theorem State.modLot_cells (s : State) (l : LotSlot) (f : Lot → Lot) : (s.modLot l f).cells = s.cells := rfl
@[simp] theorem State.modLot_ports (s : State) (l : LotSlot) (f : Lot → Lot) : (s.modLot l f).ports = s.ports := rfl
@[simp] theorem State.modLot_insertions (s : State) (l : LotSlot) (f : Lot → Lot) : (s.modLot l f).insertions = s.insertions := rfl
@[simp] theorem State.modLot_limitSets (s : State) (l : LotSlot) (f : Lot → Lot) : (s.modLot l f).limitSets = s.limitSets := rfl
@[simp] theorem State.modLot_hm (s : State) (l : LotSlot) (f : Lot → Lot) : (s.modLot l f).hm = s.hm := rfl
@[simp] theorem State.modLot_de (s : State) (l : LotSlot) (f : Lot → Lot) : (s.modLot l f).de = s.de := rfl
@[simp] theorem State.modLot_ships (s : State) (l : LotSlot) (f : Lot → Lot) : (s.modLot l f).ships = s.ships := rfl
@[simp] theorem State.modLot_ft (s : State) (l : LotSlot) (f : Lot → Lot) : (s.modLot l f).ft = s.ft := rfl
@[simp] theorem State.modLot_os (s : State) (l : LotSlot) (f : Lot → Lot) : (s.modLot l f).os = s.os := rfl
@[simp] theorem State.modLot_ru (s : State) (l : LotSlot) (f : Lot → Lot) : (s.modLot l f).ru = s.ru := rfl
@[simp] theorem State.modLot_host (s : State) (l : LotSlot) (f : Lot → Lot) : (s.modLot l f).host = s.host := rfl
@[simp] theorem State.modLot_freeIx (s : State) (l : LotSlot) (f : Lot → Lot) : (s.modLot l f).freeIx = s.freeIx := rfl
@[simp] theorem State.modLot_pending (s : State) (l : LotSlot) (f : Lot → Lot) : (s.modLot l f).pending = s.pending := rfl
@[simp] theorem State.modLot_cell (s : State) (l : LotSlot) (f : Lot → Lot) (i : CellNo) :
    (s.modLot l f).cell i = s.cell i := rfl
@[simp] theorem State.modLot_port (s : State) (l : LotSlot) (f : Lot → Lot) (i : PortNo) :
    (s.modLot l f).port i = s.port i := rfl
@[simp] theorem State.modLot_insertion (s : State) (l : LotSlot) (f : Lot → Lot) (i : CellNo) :
    (s.modLot l f).insertion i = s.insertion i := rfl
@[simp] theorem State.modLot_limitSetOpt (s : State) (l : LotSlot) (f : Lot → Lot) (i : LimitNo) :
    (s.modLot l f).limitSet? i = s.limitSet? i := rfl
@[simp] theorem State.modLot_limitSet (s : State) (l : LotSlot) (f : Lot → Lot) (i : LimitNo) :
    (s.modLot l f).limitSet i = s.limitSet i := rfl
@[simp] theorem State.modLot_ship (s : State) (l : LotSlot) (f : Lot → Lot) (i : ShipNo) :
    (s.modLot l f).ship i = s.ship i := rfl
@[simp] theorem State.modLot_hostByte (s : State) (l : LotSlot) (f : Lot → Lot) (i : Nat) :
    (s.modLot l f).hostByte i = s.hostByte i := rfl
@[simp] theorem State.modLot_minute (s : State) (l : LotSlot) (f : Lot → Lot) :
    (s.modLot l f).minute = s.minute := rfl
@[simp] theorem State.modLot_running (s : State) (l : LotSlot) (f : Lot → Lot) :
    (s.modLot l f).running = s.running := rfl
@[simp] theorem State.modLot_working (s : State) (l : LotSlot) (f : Lot → Lot) :
    (s.modLot l f).working = s.working := rfl
@[simp] theorem State.modLot_backpressure (s : State) (l : LotSlot) (f : Lot → Lot) :
    (s.modLot l f).backpressure = s.backpressure := rfl
@[simp] theorem State.modLot_reservationOf (s : State) (l : LotSlot) (f : Lot → Lot) (i : CellNo) :
    State.reservationOf i (s.modLot l f) = State.reservationOf i s := rfl
@[simp] theorem State.modLot_holdOpt (s : State) (l : LotSlot) (f : Lot → Lot) (i : Nat) :
    State.hold? i (s.modLot l f) = State.hold? i s := rfl

/-! ### modCell -/

@[simp] theorem State.modCell_lm (s : State) (c : CellNo) (f : Cell → Cell) : (s.modCell c f).lm = s.lm := rfl
@[simp] theorem State.modCell_ports (s : State) (c : CellNo) (f : Cell → Cell) : (s.modCell c f).ports = s.ports := rfl
@[simp] theorem State.modCell_insertions (s : State) (c : CellNo) (f : Cell → Cell) : (s.modCell c f).insertions = s.insertions := rfl
@[simp] theorem State.modCell_limitSets (s : State) (c : CellNo) (f : Cell → Cell) : (s.modCell c f).limitSets = s.limitSets := rfl
@[simp] theorem State.modCell_hm (s : State) (c : CellNo) (f : Cell → Cell) : (s.modCell c f).hm = s.hm := rfl
@[simp] theorem State.modCell_de (s : State) (c : CellNo) (f : Cell → Cell) : (s.modCell c f).de = s.de := rfl
@[simp] theorem State.modCell_ships (s : State) (c : CellNo) (f : Cell → Cell) : (s.modCell c f).ships = s.ships := rfl
@[simp] theorem State.modCell_ft (s : State) (c : CellNo) (f : Cell → Cell) : (s.modCell c f).ft = s.ft := rfl
@[simp] theorem State.modCell_os (s : State) (c : CellNo) (f : Cell → Cell) : (s.modCell c f).os = s.os := rfl
@[simp] theorem State.modCell_ru (s : State) (c : CellNo) (f : Cell → Cell) : (s.modCell c f).ru = s.ru := rfl
@[simp] theorem State.modCell_host (s : State) (c : CellNo) (f : Cell → Cell) : (s.modCell c f).host = s.host := rfl
@[simp] theorem State.modCell_freeIx (s : State) (c : CellNo) (f : Cell → Cell) : (s.modCell c f).freeIx = s.freeIx := rfl
@[simp] theorem State.modCell_pending (s : State) (c : CellNo) (f : Cell → Cell) : (s.modCell c f).pending = s.pending := rfl
@[simp] theorem State.modCell_lot (s : State) (c : CellNo) (f : Cell → Cell) (i : LotSlot) :
    (s.modCell c f).lot i = s.lot i := rfl
@[simp] theorem State.modCell_recipeOpt (s : State) (c : CellNo) (f : Cell → Cell) (i : RecipeNo) :
    (s.modCell c f).recipe? i = s.recipe? i := rfl
@[simp] theorem State.modCell_recipe (s : State) (c : CellNo) (f : Cell → Cell) (i : RecipeNo) :
    (s.modCell c f).recipe i = s.recipe i := rfl
@[simp] theorem State.modCell_port (s : State) (c : CellNo) (f : Cell → Cell) (i : PortNo) :
    (s.modCell c f).port i = s.port i := rfl
@[simp] theorem State.modCell_insertion (s : State) (c : CellNo) (f : Cell → Cell) (i : CellNo) :
    (s.modCell c f).insertion i = s.insertion i := rfl
@[simp] theorem State.modCell_limitSetOpt (s : State) (c : CellNo) (f : Cell → Cell) (i : LimitNo) :
    (s.modCell c f).limitSet? i = s.limitSet? i := rfl
@[simp] theorem State.modCell_limitSet (s : State) (c : CellNo) (f : Cell → Cell) (i : LimitNo) :
    (s.modCell c f).limitSet i = s.limitSet i := rfl
@[simp] theorem State.modCell_ship (s : State) (c : CellNo) (f : Cell → Cell) (i : ShipNo) :
    (s.modCell c f).ship i = s.ship i := rfl
@[simp] theorem State.modCell_hostByte (s : State) (c : CellNo) (f : Cell → Cell) (i : Nat) :
    (s.modCell c f).hostByte i = s.hostByte i := rfl
@[simp] theorem State.modCell_minute (s : State) (c : CellNo) (f : Cell → Cell) :
    (s.modCell c f).minute = s.minute := rfl
@[simp] theorem State.modCell_running (s : State) (c : CellNo) (f : Cell → Cell) :
    (s.modCell c f).running = s.running := rfl
@[simp] theorem State.modCell_working (s : State) (c : CellNo) (f : Cell → Cell) :
    (s.modCell c f).working = s.working := rfl
@[simp] theorem State.modCell_backpressure (s : State) (c : CellNo) (f : Cell → Cell) :
    (s.modCell c f).backpressure = s.backpressure := rfl
@[simp] theorem State.modCell_reservationOf (s : State) (c : CellNo) (f : Cell → Cell) (i : CellNo) :
    State.reservationOf i (s.modCell c f) = State.reservationOf i s := rfl
@[simp] theorem State.modCell_holdOpt (s : State) (c : CellNo) (f : Cell → Cell) (i : Nat) :
    State.hold? i (s.modCell c f) = State.hold? i s := rfl

/-! ### modPort -/

@[simp] theorem State.modPort_lm (s : State) (p : PortNo) (f : Port → Port) : (s.modPort p f).lm = s.lm := rfl
@[simp] theorem State.modPort_cells (s : State) (p : PortNo) (f : Port → Port) : (s.modPort p f).cells = s.cells := rfl
@[simp] theorem State.modPort_insertions (s : State) (p : PortNo) (f : Port → Port) : (s.modPort p f).insertions = s.insertions := rfl
@[simp] theorem State.modPort_limitSets (s : State) (p : PortNo) (f : Port → Port) : (s.modPort p f).limitSets = s.limitSets := rfl
@[simp] theorem State.modPort_hm (s : State) (p : PortNo) (f : Port → Port) : (s.modPort p f).hm = s.hm := rfl
@[simp] theorem State.modPort_de (s : State) (p : PortNo) (f : Port → Port) : (s.modPort p f).de = s.de := rfl
@[simp] theorem State.modPort_ships (s : State) (p : PortNo) (f : Port → Port) : (s.modPort p f).ships = s.ships := rfl
@[simp] theorem State.modPort_ft (s : State) (p : PortNo) (f : Port → Port) : (s.modPort p f).ft = s.ft := rfl
@[simp] theorem State.modPort_os (s : State) (p : PortNo) (f : Port → Port) : (s.modPort p f).os = s.os := rfl
@[simp] theorem State.modPort_ru (s : State) (p : PortNo) (f : Port → Port) : (s.modPort p f).ru = s.ru := rfl
@[simp] theorem State.modPort_host (s : State) (p : PortNo) (f : Port → Port) : (s.modPort p f).host = s.host := rfl
@[simp] theorem State.modPort_freeIx (s : State) (p : PortNo) (f : Port → Port) : (s.modPort p f).freeIx = s.freeIx := rfl
@[simp] theorem State.modPort_pending (s : State) (p : PortNo) (f : Port → Port) : (s.modPort p f).pending = s.pending := rfl
@[simp] theorem State.modPort_lot (s : State) (p : PortNo) (f : Port → Port) (i : LotSlot) :
    (s.modPort p f).lot i = s.lot i := rfl
@[simp] theorem State.modPort_recipeOpt (s : State) (p : PortNo) (f : Port → Port) (i : RecipeNo) :
    (s.modPort p f).recipe? i = s.recipe? i := rfl
@[simp] theorem State.modPort_recipe (s : State) (p : PortNo) (f : Port → Port) (i : RecipeNo) :
    (s.modPort p f).recipe i = s.recipe i := rfl
@[simp] theorem State.modPort_cell (s : State) (p : PortNo) (f : Port → Port) (i : CellNo) :
    (s.modPort p f).cell i = s.cell i := rfl
@[simp] theorem State.modPort_insertion (s : State) (p : PortNo) (f : Port → Port) (i : CellNo) :
    (s.modPort p f).insertion i = s.insertion i := rfl
@[simp] theorem State.modPort_limitSetOpt (s : State) (p : PortNo) (f : Port → Port) (i : LimitNo) :
    (s.modPort p f).limitSet? i = s.limitSet? i := rfl
@[simp] theorem State.modPort_limitSet (s : State) (p : PortNo) (f : Port → Port) (i : LimitNo) :
    (s.modPort p f).limitSet i = s.limitSet i := rfl
@[simp] theorem State.modPort_ship (s : State) (p : PortNo) (f : Port → Port) (i : ShipNo) :
    (s.modPort p f).ship i = s.ship i := rfl
@[simp] theorem State.modPort_hostByte (s : State) (p : PortNo) (f : Port → Port) (i : Nat) :
    (s.modPort p f).hostByte i = s.hostByte i := rfl
@[simp] theorem State.modPort_minute (s : State) (p : PortNo) (f : Port → Port) :
    (s.modPort p f).minute = s.minute := rfl
@[simp] theorem State.modPort_running (s : State) (p : PortNo) (f : Port → Port) :
    (s.modPort p f).running = s.running := rfl
@[simp] theorem State.modPort_working (s : State) (p : PortNo) (f : Port → Port) :
    (s.modPort p f).working = s.working := rfl
@[simp] theorem State.modPort_backpressure (s : State) (p : PortNo) (f : Port → Port) :
    (s.modPort p f).backpressure = s.backpressure := rfl
@[simp] theorem State.modPort_reservationOf (s : State) (p : PortNo) (f : Port → Port) (i : CellNo) :
    State.reservationOf i (s.modPort p f) = State.reservationOf i s := rfl
@[simp] theorem State.modPort_holdOpt (s : State) (p : PortNo) (f : Port → Port) (i : Nat) :
    State.hold? i (s.modPort p f) = State.hold? i s := rfl

/-! ### setInsertion -/

@[simp] theorem State.setInsertion_lm (s : State) (c : CellNo) (x : Option Insertion) : (s.setInsertion c x).lm = s.lm := rfl
@[simp] theorem State.setInsertion_cells (s : State) (c : CellNo) (x : Option Insertion) : (s.setInsertion c x).cells = s.cells := rfl
@[simp] theorem State.setInsertion_ports (s : State) (c : CellNo) (x : Option Insertion) : (s.setInsertion c x).ports = s.ports := rfl
@[simp] theorem State.setInsertion_limitSets (s : State) (c : CellNo) (x : Option Insertion) : (s.setInsertion c x).limitSets = s.limitSets := rfl
@[simp] theorem State.setInsertion_hm (s : State) (c : CellNo) (x : Option Insertion) : (s.setInsertion c x).hm = s.hm := rfl
@[simp] theorem State.setInsertion_de (s : State) (c : CellNo) (x : Option Insertion) : (s.setInsertion c x).de = s.de := rfl
@[simp] theorem State.setInsertion_ships (s : State) (c : CellNo) (x : Option Insertion) : (s.setInsertion c x).ships = s.ships := rfl
@[simp] theorem State.setInsertion_ft (s : State) (c : CellNo) (x : Option Insertion) : (s.setInsertion c x).ft = s.ft := rfl
@[simp] theorem State.setInsertion_os (s : State) (c : CellNo) (x : Option Insertion) : (s.setInsertion c x).os = s.os := rfl
@[simp] theorem State.setInsertion_ru (s : State) (c : CellNo) (x : Option Insertion) : (s.setInsertion c x).ru = s.ru := rfl
@[simp] theorem State.setInsertion_host (s : State) (c : CellNo) (x : Option Insertion) : (s.setInsertion c x).host = s.host := rfl
@[simp] theorem State.setInsertion_freeIx (s : State) (c : CellNo) (x : Option Insertion) : (s.setInsertion c x).freeIx = s.freeIx := rfl
@[simp] theorem State.setInsertion_pending (s : State) (c : CellNo) (x : Option Insertion) : (s.setInsertion c x).pending = s.pending := rfl
@[simp] theorem State.setInsertion_lot (s : State) (c : CellNo) (x : Option Insertion) (i : LotSlot) :
    (s.setInsertion c x).lot i = s.lot i := rfl
@[simp] theorem State.setInsertion_recipeOpt (s : State) (c : CellNo) (x : Option Insertion) (i : RecipeNo) :
    (s.setInsertion c x).recipe? i = s.recipe? i := rfl
@[simp] theorem State.setInsertion_recipe (s : State) (c : CellNo) (x : Option Insertion) (i : RecipeNo) :
    (s.setInsertion c x).recipe i = s.recipe i := rfl
@[simp] theorem State.setInsertion_cell (s : State) (c : CellNo) (x : Option Insertion) (i : CellNo) :
    (s.setInsertion c x).cell i = s.cell i := rfl
@[simp] theorem State.setInsertion_port (s : State) (c : CellNo) (x : Option Insertion) (i : PortNo) :
    (s.setInsertion c x).port i = s.port i := rfl
@[simp] theorem State.setInsertion_limitSetOpt (s : State) (c : CellNo) (x : Option Insertion) (i : LimitNo) :
    (s.setInsertion c x).limitSet? i = s.limitSet? i := rfl
@[simp] theorem State.setInsertion_limitSet (s : State) (c : CellNo) (x : Option Insertion) (i : LimitNo) :
    (s.setInsertion c x).limitSet i = s.limitSet i := rfl
@[simp] theorem State.setInsertion_ship (s : State) (c : CellNo) (x : Option Insertion) (i : ShipNo) :
    (s.setInsertion c x).ship i = s.ship i := rfl
@[simp] theorem State.setInsertion_hostByte (s : State) (c : CellNo) (x : Option Insertion) (i : Nat) :
    (s.setInsertion c x).hostByte i = s.hostByte i := rfl
@[simp] theorem State.setInsertion_minute (s : State) (c : CellNo) (x : Option Insertion) :
    (s.setInsertion c x).minute = s.minute := rfl
@[simp] theorem State.setInsertion_running (s : State) (c : CellNo) (x : Option Insertion) :
    (s.setInsertion c x).running = s.running := rfl
@[simp] theorem State.setInsertion_working (s : State) (c : CellNo) (x : Option Insertion) :
    (s.setInsertion c x).working = s.working := rfl
@[simp] theorem State.setInsertion_backpressure (s : State) (c : CellNo) (x : Option Insertion) :
    (s.setInsertion c x).backpressure = s.backpressure := rfl
@[simp] theorem State.setInsertion_reservationOf (s : State) (c : CellNo) (x : Option Insertion) (i : CellNo) :
    State.reservationOf i (s.setInsertion c x) = State.reservationOf i s := rfl
@[simp] theorem State.setInsertion_holdOpt (s : State) (c : CellNo) (x : Option Insertion) (i : Nat) :
    State.hold? i (s.setInsertion c x) = State.hold? i s := rfl

/-! ### modInsertion -/

@[simp] theorem State.modInsertion_lm (s : State) (c : CellNo) (f : Insertion → Insertion) : (s.modInsertion c f).lm = s.lm := rfl
@[simp] theorem State.modInsertion_cells (s : State) (c : CellNo) (f : Insertion → Insertion) : (s.modInsertion c f).cells = s.cells := rfl
@[simp] theorem State.modInsertion_ports (s : State) (c : CellNo) (f : Insertion → Insertion) : (s.modInsertion c f).ports = s.ports := rfl
@[simp] theorem State.modInsertion_limitSets (s : State) (c : CellNo) (f : Insertion → Insertion) : (s.modInsertion c f).limitSets = s.limitSets := rfl
@[simp] theorem State.modInsertion_hm (s : State) (c : CellNo) (f : Insertion → Insertion) : (s.modInsertion c f).hm = s.hm := rfl
@[simp] theorem State.modInsertion_de (s : State) (c : CellNo) (f : Insertion → Insertion) : (s.modInsertion c f).de = s.de := rfl
@[simp] theorem State.modInsertion_ships (s : State) (c : CellNo) (f : Insertion → Insertion) : (s.modInsertion c f).ships = s.ships := rfl
@[simp] theorem State.modInsertion_ft (s : State) (c : CellNo) (f : Insertion → Insertion) : (s.modInsertion c f).ft = s.ft := rfl
@[simp] theorem State.modInsertion_os (s : State) (c : CellNo) (f : Insertion → Insertion) : (s.modInsertion c f).os = s.os := rfl
@[simp] theorem State.modInsertion_ru (s : State) (c : CellNo) (f : Insertion → Insertion) : (s.modInsertion c f).ru = s.ru := rfl
@[simp] theorem State.modInsertion_host (s : State) (c : CellNo) (f : Insertion → Insertion) : (s.modInsertion c f).host = s.host := rfl
@[simp] theorem State.modInsertion_freeIx (s : State) (c : CellNo) (f : Insertion → Insertion) : (s.modInsertion c f).freeIx = s.freeIx := rfl
@[simp] theorem State.modInsertion_pending (s : State) (c : CellNo) (f : Insertion → Insertion) : (s.modInsertion c f).pending = s.pending := rfl
@[simp] theorem State.modInsertion_lot (s : State) (c : CellNo) (f : Insertion → Insertion) (i : LotSlot) :
    (s.modInsertion c f).lot i = s.lot i := rfl
@[simp] theorem State.modInsertion_recipeOpt (s : State) (c : CellNo) (f : Insertion → Insertion) (i : RecipeNo) :
    (s.modInsertion c f).recipe? i = s.recipe? i := rfl
@[simp] theorem State.modInsertion_recipe (s : State) (c : CellNo) (f : Insertion → Insertion) (i : RecipeNo) :
    (s.modInsertion c f).recipe i = s.recipe i := rfl
@[simp] theorem State.modInsertion_cell (s : State) (c : CellNo) (f : Insertion → Insertion) (i : CellNo) :
    (s.modInsertion c f).cell i = s.cell i := rfl
@[simp] theorem State.modInsertion_port (s : State) (c : CellNo) (f : Insertion → Insertion) (i : PortNo) :
    (s.modInsertion c f).port i = s.port i := rfl
@[simp] theorem State.modInsertion_limitSetOpt (s : State) (c : CellNo) (f : Insertion → Insertion) (i : LimitNo) :
    (s.modInsertion c f).limitSet? i = s.limitSet? i := rfl
@[simp] theorem State.modInsertion_limitSet (s : State) (c : CellNo) (f : Insertion → Insertion) (i : LimitNo) :
    (s.modInsertion c f).limitSet i = s.limitSet i := rfl
@[simp] theorem State.modInsertion_ship (s : State) (c : CellNo) (f : Insertion → Insertion) (i : ShipNo) :
    (s.modInsertion c f).ship i = s.ship i := rfl
@[simp] theorem State.modInsertion_hostByte (s : State) (c : CellNo) (f : Insertion → Insertion) (i : Nat) :
    (s.modInsertion c f).hostByte i = s.hostByte i := rfl
@[simp] theorem State.modInsertion_minute (s : State) (c : CellNo) (f : Insertion → Insertion) :
    (s.modInsertion c f).minute = s.minute := rfl
@[simp] theorem State.modInsertion_running (s : State) (c : CellNo) (f : Insertion → Insertion) :
    (s.modInsertion c f).running = s.running := rfl
@[simp] theorem State.modInsertion_working (s : State) (c : CellNo) (f : Insertion → Insertion) :
    (s.modInsertion c f).working = s.working := rfl
@[simp] theorem State.modInsertion_backpressure (s : State) (c : CellNo) (f : Insertion → Insertion) :
    (s.modInsertion c f).backpressure = s.backpressure := rfl
@[simp] theorem State.modInsertion_reservationOf (s : State) (c : CellNo) (f : Insertion → Insertion) (i : CellNo) :
    State.reservationOf i (s.modInsertion c f) = State.reservationOf i s := rfl
@[simp] theorem State.modInsertion_holdOpt (s : State) (c : CellNo) (f : Insertion → Insertion) (i : Nat) :
    State.hold? i (s.modInsertion c f) = State.hold? i s := rfl

/-! ### setLimitSet -/

@[simp] theorem State.setLimitSet_lm (s : State) (n : LimitNo) (x : Option LimitSet) : (s.setLimitSet n x).lm = s.lm := rfl
@[simp] theorem State.setLimitSet_cells (s : State) (n : LimitNo) (x : Option LimitSet) : (s.setLimitSet n x).cells = s.cells := rfl
@[simp] theorem State.setLimitSet_ports (s : State) (n : LimitNo) (x : Option LimitSet) : (s.setLimitSet n x).ports = s.ports := rfl
@[simp] theorem State.setLimitSet_insertions (s : State) (n : LimitNo) (x : Option LimitSet) : (s.setLimitSet n x).insertions = s.insertions := rfl
@[simp] theorem State.setLimitSet_hm (s : State) (n : LimitNo) (x : Option LimitSet) : (s.setLimitSet n x).hm = s.hm := rfl
@[simp] theorem State.setLimitSet_de (s : State) (n : LimitNo) (x : Option LimitSet) : (s.setLimitSet n x).de = s.de := rfl
@[simp] theorem State.setLimitSet_ships (s : State) (n : LimitNo) (x : Option LimitSet) : (s.setLimitSet n x).ships = s.ships := rfl
@[simp] theorem State.setLimitSet_ft (s : State) (n : LimitNo) (x : Option LimitSet) : (s.setLimitSet n x).ft = s.ft := rfl
@[simp] theorem State.setLimitSet_os (s : State) (n : LimitNo) (x : Option LimitSet) : (s.setLimitSet n x).os = s.os := rfl
@[simp] theorem State.setLimitSet_ru (s : State) (n : LimitNo) (x : Option LimitSet) : (s.setLimitSet n x).ru = s.ru := rfl
@[simp] theorem State.setLimitSet_host (s : State) (n : LimitNo) (x : Option LimitSet) : (s.setLimitSet n x).host = s.host := rfl
@[simp] theorem State.setLimitSet_freeIx (s : State) (n : LimitNo) (x : Option LimitSet) : (s.setLimitSet n x).freeIx = s.freeIx := rfl
@[simp] theorem State.setLimitSet_pending (s : State) (n : LimitNo) (x : Option LimitSet) : (s.setLimitSet n x).pending = s.pending := rfl
@[simp] theorem State.setLimitSet_lot (s : State) (n : LimitNo) (x : Option LimitSet) (i : LotSlot) :
    (s.setLimitSet n x).lot i = s.lot i := rfl
@[simp] theorem State.setLimitSet_recipeOpt (s : State) (n : LimitNo) (x : Option LimitSet) (i : RecipeNo) :
    (s.setLimitSet n x).recipe? i = s.recipe? i := rfl
@[simp] theorem State.setLimitSet_recipe (s : State) (n : LimitNo) (x : Option LimitSet) (i : RecipeNo) :
    (s.setLimitSet n x).recipe i = s.recipe i := rfl
@[simp] theorem State.setLimitSet_cell (s : State) (n : LimitNo) (x : Option LimitSet) (i : CellNo) :
    (s.setLimitSet n x).cell i = s.cell i := rfl
@[simp] theorem State.setLimitSet_port (s : State) (n : LimitNo) (x : Option LimitSet) (i : PortNo) :
    (s.setLimitSet n x).port i = s.port i := rfl
@[simp] theorem State.setLimitSet_insertion (s : State) (n : LimitNo) (x : Option LimitSet) (i : CellNo) :
    (s.setLimitSet n x).insertion i = s.insertion i := rfl
@[simp] theorem State.setLimitSet_ship (s : State) (n : LimitNo) (x : Option LimitSet) (i : ShipNo) :
    (s.setLimitSet n x).ship i = s.ship i := rfl
@[simp] theorem State.setLimitSet_hostByte (s : State) (n : LimitNo) (x : Option LimitSet) (i : Nat) :
    (s.setLimitSet n x).hostByte i = s.hostByte i := rfl
@[simp] theorem State.setLimitSet_minute (s : State) (n : LimitNo) (x : Option LimitSet) :
    (s.setLimitSet n x).minute = s.minute := rfl
@[simp] theorem State.setLimitSet_running (s : State) (n : LimitNo) (x : Option LimitSet) :
    (s.setLimitSet n x).running = s.running := rfl
@[simp] theorem State.setLimitSet_working (s : State) (n : LimitNo) (x : Option LimitSet) :
    (s.setLimitSet n x).working = s.working := rfl
@[simp] theorem State.setLimitSet_backpressure (s : State) (n : LimitNo) (x : Option LimitSet) :
    (s.setLimitSet n x).backpressure = s.backpressure := rfl
@[simp] theorem State.setLimitSet_reservationOf (s : State) (n : LimitNo) (x : Option LimitSet) (i : CellNo) :
    State.reservationOf i (s.setLimitSet n x) = State.reservationOf i s := rfl
@[simp] theorem State.setLimitSet_holdOpt (s : State) (n : LimitNo) (x : Option LimitSet) (i : Nat) :
    State.hold? i (s.setLimitSet n x) = State.hold? i s := rfl

/-! ### setShip -/

@[simp] theorem State.setShip_lm (s : State) (n : ShipNo) (x : Option Ship) : (s.setShip n x).lm = s.lm := rfl
@[simp] theorem State.setShip_cells (s : State) (n : ShipNo) (x : Option Ship) : (s.setShip n x).cells = s.cells := rfl
@[simp] theorem State.setShip_ports (s : State) (n : ShipNo) (x : Option Ship) : (s.setShip n x).ports = s.ports := rfl
@[simp] theorem State.setShip_insertions (s : State) (n : ShipNo) (x : Option Ship) : (s.setShip n x).insertions = s.insertions := rfl
@[simp] theorem State.setShip_limitSets (s : State) (n : ShipNo) (x : Option Ship) : (s.setShip n x).limitSets = s.limitSets := rfl
@[simp] theorem State.setShip_hm (s : State) (n : ShipNo) (x : Option Ship) : (s.setShip n x).hm = s.hm := rfl
@[simp] theorem State.setShip_de (s : State) (n : ShipNo) (x : Option Ship) : (s.setShip n x).de = s.de := rfl
@[simp] theorem State.setShip_ft (s : State) (n : ShipNo) (x : Option Ship) : (s.setShip n x).ft = s.ft := rfl
@[simp] theorem State.setShip_os (s : State) (n : ShipNo) (x : Option Ship) : (s.setShip n x).os = s.os := rfl
@[simp] theorem State.setShip_ru (s : State) (n : ShipNo) (x : Option Ship) : (s.setShip n x).ru = s.ru := rfl
@[simp] theorem State.setShip_host (s : State) (n : ShipNo) (x : Option Ship) : (s.setShip n x).host = s.host := rfl
@[simp] theorem State.setShip_freeIx (s : State) (n : ShipNo) (x : Option Ship) : (s.setShip n x).freeIx = s.freeIx := rfl
@[simp] theorem State.setShip_pending (s : State) (n : ShipNo) (x : Option Ship) : (s.setShip n x).pending = s.pending := rfl
@[simp] theorem State.setShip_lot (s : State) (n : ShipNo) (x : Option Ship) (i : LotSlot) :
    (s.setShip n x).lot i = s.lot i := rfl
@[simp] theorem State.setShip_recipeOpt (s : State) (n : ShipNo) (x : Option Ship) (i : RecipeNo) :
    (s.setShip n x).recipe? i = s.recipe? i := rfl
@[simp] theorem State.setShip_recipe (s : State) (n : ShipNo) (x : Option Ship) (i : RecipeNo) :
    (s.setShip n x).recipe i = s.recipe i := rfl
@[simp] theorem State.setShip_cell (s : State) (n : ShipNo) (x : Option Ship) (i : CellNo) :
    (s.setShip n x).cell i = s.cell i := rfl
@[simp] theorem State.setShip_port (s : State) (n : ShipNo) (x : Option Ship) (i : PortNo) :
    (s.setShip n x).port i = s.port i := rfl
@[simp] theorem State.setShip_insertion (s : State) (n : ShipNo) (x : Option Ship) (i : CellNo) :
    (s.setShip n x).insertion i = s.insertion i := rfl
@[simp] theorem State.setShip_limitSetOpt (s : State) (n : ShipNo) (x : Option Ship) (i : LimitNo) :
    (s.setShip n x).limitSet? i = s.limitSet? i := rfl
@[simp] theorem State.setShip_limitSet (s : State) (n : ShipNo) (x : Option Ship) (i : LimitNo) :
    (s.setShip n x).limitSet i = s.limitSet i := rfl
@[simp] theorem State.setShip_hostByte (s : State) (n : ShipNo) (x : Option Ship) (i : Nat) :
    (s.setShip n x).hostByte i = s.hostByte i := rfl
@[simp] theorem State.setShip_minute (s : State) (n : ShipNo) (x : Option Ship) :
    (s.setShip n x).minute = s.minute := rfl
@[simp] theorem State.setShip_running (s : State) (n : ShipNo) (x : Option Ship) :
    (s.setShip n x).running = s.running := rfl
@[simp] theorem State.setShip_working (s : State) (n : ShipNo) (x : Option Ship) :
    (s.setShip n x).working = s.working := rfl
@[simp] theorem State.setShip_backpressure (s : State) (n : ShipNo) (x : Option Ship) :
    (s.setShip n x).backpressure = s.backpressure := rfl
@[simp] theorem State.setShip_reservationOf (s : State) (n : ShipNo) (x : Option Ship) (i : CellNo) :
    State.reservationOf i (s.setShip n x) = State.reservationOf i s := rfl
@[simp] theorem State.setShip_holdOpt (s : State) (n : ShipNo) (x : Option Ship) (i : Nat) :
    State.hold? i (s.setShip n x) = State.hold? i s := rfl

/-! ### modShip -/

@[simp] theorem State.modShip_lm (s : State) (n : ShipNo) (f : Ship → Ship) : (s.modShip n f).lm = s.lm := rfl
@[simp] theorem State.modShip_cells (s : State) (n : ShipNo) (f : Ship → Ship) : (s.modShip n f).cells = s.cells := rfl
@[simp] theorem State.modShip_ports (s : State) (n : ShipNo) (f : Ship → Ship) : (s.modShip n f).ports = s.ports := rfl
@[simp] theorem State.modShip_insertions (s : State) (n : ShipNo) (f : Ship → Ship) : (s.modShip n f).insertions = s.insertions := rfl
@[simp] theorem State.modShip_limitSets (s : State) (n : ShipNo) (f : Ship → Ship) : (s.modShip n f).limitSets = s.limitSets := rfl
@[simp] theorem State.modShip_hm (s : State) (n : ShipNo) (f : Ship → Ship) : (s.modShip n f).hm = s.hm := rfl
@[simp] theorem State.modShip_de (s : State) (n : ShipNo) (f : Ship → Ship) : (s.modShip n f).de = s.de := rfl
@[simp] theorem State.modShip_ft (s : State) (n : ShipNo) (f : Ship → Ship) : (s.modShip n f).ft = s.ft := rfl
@[simp] theorem State.modShip_os (s : State) (n : ShipNo) (f : Ship → Ship) : (s.modShip n f).os = s.os := rfl
@[simp] theorem State.modShip_ru (s : State) (n : ShipNo) (f : Ship → Ship) : (s.modShip n f).ru = s.ru := rfl
@[simp] theorem State.modShip_host (s : State) (n : ShipNo) (f : Ship → Ship) : (s.modShip n f).host = s.host := rfl
@[simp] theorem State.modShip_freeIx (s : State) (n : ShipNo) (f : Ship → Ship) : (s.modShip n f).freeIx = s.freeIx := rfl
@[simp] theorem State.modShip_pending (s : State) (n : ShipNo) (f : Ship → Ship) : (s.modShip n f).pending = s.pending := rfl
@[simp] theorem State.modShip_lot (s : State) (n : ShipNo) (f : Ship → Ship) (i : LotSlot) :
    (s.modShip n f).lot i = s.lot i := rfl
@[simp] theorem State.modShip_recipeOpt (s : State) (n : ShipNo) (f : Ship → Ship) (i : RecipeNo) :
    (s.modShip n f).recipe? i = s.recipe? i := rfl
@[simp] theorem State.modShip_recipe (s : State) (n : ShipNo) (f : Ship → Ship) (i : RecipeNo) :
    (s.modShip n f).recipe i = s.recipe i := rfl
@[simp] theorem State.modShip_cell (s : State) (n : ShipNo) (f : Ship → Ship) (i : CellNo) :
    (s.modShip n f).cell i = s.cell i := rfl
@[simp] theorem State.modShip_port (s : State) (n : ShipNo) (f : Ship → Ship) (i : PortNo) :
    (s.modShip n f).port i = s.port i := rfl
@[simp] theorem State.modShip_insertion (s : State) (n : ShipNo) (f : Ship → Ship) (i : CellNo) :
    (s.modShip n f).insertion i = s.insertion i := rfl
@[simp] theorem State.modShip_limitSetOpt (s : State) (n : ShipNo) (f : Ship → Ship) (i : LimitNo) :
    (s.modShip n f).limitSet? i = s.limitSet? i := rfl
@[simp] theorem State.modShip_limitSet (s : State) (n : ShipNo) (f : Ship → Ship) (i : LimitNo) :
    (s.modShip n f).limitSet i = s.limitSet i := rfl
@[simp] theorem State.modShip_hostByte (s : State) (n : ShipNo) (f : Ship → Ship) (i : Nat) :
    (s.modShip n f).hostByte i = s.hostByte i := rfl
@[simp] theorem State.modShip_minute (s : State) (n : ShipNo) (f : Ship → Ship) :
    (s.modShip n f).minute = s.minute := rfl
@[simp] theorem State.modShip_running (s : State) (n : ShipNo) (f : Ship → Ship) :
    (s.modShip n f).running = s.running := rfl
@[simp] theorem State.modShip_working (s : State) (n : ShipNo) (f : Ship → Ship) :
    (s.modShip n f).working = s.working := rfl
@[simp] theorem State.modShip_backpressure (s : State) (n : ShipNo) (f : Ship → Ship) :
    (s.modShip n f).backpressure = s.backpressure := rfl
@[simp] theorem State.modShip_reservationOf (s : State) (n : ShipNo) (f : Ship → Ship) (i : CellNo) :
    State.reservationOf i (s.modShip n f) = State.reservationOf i s := rfl
@[simp] theorem State.modShip_holdOpt (s : State) (n : ShipNo) (f : Ship → Ship) (i : Nat) :
    State.hold? i (s.modShip n f) = State.hold? i s := rfl

/-! ### hostWrite -/

@[simp] theorem State.hostWrite_lm (s : State) (a : Nat) (bs : List Byte) : (s.hostWrite a bs).lm = s.lm := rfl
@[simp] theorem State.hostWrite_cells (s : State) (a : Nat) (bs : List Byte) : (s.hostWrite a bs).cells = s.cells := rfl
@[simp] theorem State.hostWrite_ports (s : State) (a : Nat) (bs : List Byte) : (s.hostWrite a bs).ports = s.ports := rfl
@[simp] theorem State.hostWrite_insertions (s : State) (a : Nat) (bs : List Byte) : (s.hostWrite a bs).insertions = s.insertions := rfl
@[simp] theorem State.hostWrite_limitSets (s : State) (a : Nat) (bs : List Byte) : (s.hostWrite a bs).limitSets = s.limitSets := rfl
@[simp] theorem State.hostWrite_hm (s : State) (a : Nat) (bs : List Byte) : (s.hostWrite a bs).hm = s.hm := rfl
@[simp] theorem State.hostWrite_de (s : State) (a : Nat) (bs : List Byte) : (s.hostWrite a bs).de = s.de := rfl
@[simp] theorem State.hostWrite_ships (s : State) (a : Nat) (bs : List Byte) : (s.hostWrite a bs).ships = s.ships := rfl
@[simp] theorem State.hostWrite_ft (s : State) (a : Nat) (bs : List Byte) : (s.hostWrite a bs).ft = s.ft := rfl
@[simp] theorem State.hostWrite_os (s : State) (a : Nat) (bs : List Byte) : (s.hostWrite a bs).os = s.os := rfl
@[simp] theorem State.hostWrite_ru (s : State) (a : Nat) (bs : List Byte) : (s.hostWrite a bs).ru = s.ru := rfl
@[simp] theorem State.hostWrite_freeIx (s : State) (a : Nat) (bs : List Byte) : (s.hostWrite a bs).freeIx = s.freeIx := rfl
@[simp] theorem State.hostWrite_pending (s : State) (a : Nat) (bs : List Byte) : (s.hostWrite a bs).pending = s.pending := rfl
@[simp] theorem State.hostWrite_lot (s : State) (a : Nat) (bs : List Byte) (i : LotSlot) :
    (s.hostWrite a bs).lot i = s.lot i := rfl
@[simp] theorem State.hostWrite_recipeOpt (s : State) (a : Nat) (bs : List Byte) (i : RecipeNo) :
    (s.hostWrite a bs).recipe? i = s.recipe? i := rfl
@[simp] theorem State.hostWrite_recipe (s : State) (a : Nat) (bs : List Byte) (i : RecipeNo) :
    (s.hostWrite a bs).recipe i = s.recipe i := rfl
@[simp] theorem State.hostWrite_cell (s : State) (a : Nat) (bs : List Byte) (i : CellNo) :
    (s.hostWrite a bs).cell i = s.cell i := rfl
@[simp] theorem State.hostWrite_port (s : State) (a : Nat) (bs : List Byte) (i : PortNo) :
    (s.hostWrite a bs).port i = s.port i := rfl
@[simp] theorem State.hostWrite_insertion (s : State) (a : Nat) (bs : List Byte) (i : CellNo) :
    (s.hostWrite a bs).insertion i = s.insertion i := rfl
@[simp] theorem State.hostWrite_limitSetOpt (s : State) (a : Nat) (bs : List Byte) (i : LimitNo) :
    (s.hostWrite a bs).limitSet? i = s.limitSet? i := rfl
@[simp] theorem State.hostWrite_limitSet (s : State) (a : Nat) (bs : List Byte) (i : LimitNo) :
    (s.hostWrite a bs).limitSet i = s.limitSet i := rfl
@[simp] theorem State.hostWrite_ship (s : State) (a : Nat) (bs : List Byte) (i : ShipNo) :
    (s.hostWrite a bs).ship i = s.ship i := rfl
@[simp] theorem State.hostWrite_minute (s : State) (a : Nat) (bs : List Byte) :
    (s.hostWrite a bs).minute = s.minute := rfl
@[simp] theorem State.hostWrite_running (s : State) (a : Nat) (bs : List Byte) :
    (s.hostWrite a bs).running = s.running := rfl
@[simp] theorem State.hostWrite_working (s : State) (a : Nat) (bs : List Byte) :
    (s.hostWrite a bs).working = s.working := rfl
@[simp] theorem State.hostWrite_backpressure (s : State) (a : Nat) (bs : List Byte) :
    (s.hostWrite a bs).backpressure = s.backpressure := rfl
@[simp] theorem State.hostWrite_reservationOf (s : State) (a : Nat) (bs : List Byte) (i : CellNo) :
    State.reservationOf i (s.hostWrite a bs) = State.reservationOf i s := rfl
@[simp] theorem State.hostWrite_holdOpt (s : State) (a : Nat) (bs : List Byte) (i : Nat) :
    State.hold? i (s.hostWrite a bs) = State.hold? i s := rfl

/-! ### report -/

@[simp] theorem State.report_lm (s : State) (e : Report) : (s.report e).lm = s.lm := rfl
@[simp] theorem State.report_cells (s : State) (e : Report) : (s.report e).cells = s.cells := rfl
@[simp] theorem State.report_ports (s : State) (e : Report) : (s.report e).ports = s.ports := rfl
@[simp] theorem State.report_insertions (s : State) (e : Report) : (s.report e).insertions = s.insertions := rfl
@[simp] theorem State.report_limitSets (s : State) (e : Report) : (s.report e).limitSets = s.limitSets := rfl
@[simp] theorem State.report_hm (s : State) (e : Report) : (s.report e).hm = s.hm := rfl
@[simp] theorem State.report_de (s : State) (e : Report) : (s.report e).de = s.de := rfl
@[simp] theorem State.report_ships (s : State) (e : Report) : (s.report e).ships = s.ships := rfl
@[simp] theorem State.report_ft (s : State) (e : Report) : (s.report e).ft = s.ft := rfl
@[simp] theorem State.report_os (s : State) (e : Report) : (s.report e).os = s.os := rfl
@[simp] theorem State.report_host (s : State) (e : Report) : (s.report e).host = s.host := rfl
@[simp] theorem State.report_freeIx (s : State) (e : Report) : (s.report e).freeIx = s.freeIx := rfl
@[simp] theorem State.report_pending (s : State) (e : Report) : (s.report e).pending = s.pending := rfl
@[simp] theorem State.report_lot (s : State) (e : Report) (i : LotSlot) :
    (s.report e).lot i = s.lot i := rfl
@[simp] theorem State.report_recipeOpt (s : State) (e : Report) (i : RecipeNo) :
    (s.report e).recipe? i = s.recipe? i := rfl
@[simp] theorem State.report_recipe (s : State) (e : Report) (i : RecipeNo) :
    (s.report e).recipe i = s.recipe i := rfl
@[simp] theorem State.report_cell (s : State) (e : Report) (i : CellNo) :
    (s.report e).cell i = s.cell i := rfl
@[simp] theorem State.report_port (s : State) (e : Report) (i : PortNo) :
    (s.report e).port i = s.port i := rfl
@[simp] theorem State.report_insertion (s : State) (e : Report) (i : CellNo) :
    (s.report e).insertion i = s.insertion i := rfl
@[simp] theorem State.report_limitSetOpt (s : State) (e : Report) (i : LimitNo) :
    (s.report e).limitSet? i = s.limitSet? i := rfl
@[simp] theorem State.report_limitSet (s : State) (e : Report) (i : LimitNo) :
    (s.report e).limitSet i = s.limitSet i := rfl
@[simp] theorem State.report_ship (s : State) (e : Report) (i : ShipNo) :
    (s.report e).ship i = s.ship i := rfl
@[simp] theorem State.report_hostByte (s : State) (e : Report) (i : Nat) :
    (s.report e).hostByte i = s.hostByte i := rfl
@[simp] theorem State.report_minute (s : State) (e : Report) :
    (s.report e).minute = s.minute := rfl
@[simp] theorem State.report_running (s : State) (e : Report) :
    (s.report e).running = s.running := rfl
@[simp] theorem State.report_working (s : State) (e : Report) :
    (s.report e).working = s.working := rfl
@[simp] theorem State.report_reservationOf (s : State) (e : Report) (i : CellNo) :
    State.reservationOf i (s.report e) = State.reservationOf i s := rfl
@[simp] theorem State.report_holdOpt (s : State) (e : Report) (i : Nat) :
    State.hold? i (s.report e) = State.hold? i s := rfl

/-! ### triggerPass -/

@[simp] theorem State.triggerPass_lm (s : State) : (s.triggerPass).lm = s.lm := rfl
@[simp] theorem State.triggerPass_cells (s : State) : (s.triggerPass).cells = s.cells := rfl
@[simp] theorem State.triggerPass_ports (s : State) : (s.triggerPass).ports = s.ports := rfl
@[simp] theorem State.triggerPass_insertions (s : State) : (s.triggerPass).insertions = s.insertions := rfl
@[simp] theorem State.triggerPass_limitSets (s : State) : (s.triggerPass).limitSets = s.limitSets := rfl
@[simp] theorem State.triggerPass_hm (s : State) : (s.triggerPass).hm = s.hm := rfl
@[simp] theorem State.triggerPass_ships (s : State) : (s.triggerPass).ships = s.ships := rfl
@[simp] theorem State.triggerPass_ft (s : State) : (s.triggerPass).ft = s.ft := rfl
@[simp] theorem State.triggerPass_os (s : State) : (s.triggerPass).os = s.os := rfl
@[simp] theorem State.triggerPass_ru (s : State) : (s.triggerPass).ru = s.ru := rfl
@[simp] theorem State.triggerPass_host (s : State) : (s.triggerPass).host = s.host := rfl
@[simp] theorem State.triggerPass_freeIx (s : State) : (s.triggerPass).freeIx = s.freeIx := rfl
@[simp] theorem State.triggerPass_pending (s : State) : (s.triggerPass).pending = s.pending := rfl
@[simp] theorem State.triggerPass_lot (s : State) (i : LotSlot) :
    (s.triggerPass).lot i = s.lot i := rfl
@[simp] theorem State.triggerPass_recipeOpt (s : State) (i : RecipeNo) :
    (s.triggerPass).recipe? i = s.recipe? i := rfl
@[simp] theorem State.triggerPass_recipe (s : State) (i : RecipeNo) :
    (s.triggerPass).recipe i = s.recipe i := rfl
@[simp] theorem State.triggerPass_cell (s : State) (i : CellNo) :
    (s.triggerPass).cell i = s.cell i := rfl
@[simp] theorem State.triggerPass_port (s : State) (i : PortNo) :
    (s.triggerPass).port i = s.port i := rfl
@[simp] theorem State.triggerPass_insertion (s : State) (i : CellNo) :
    (s.triggerPass).insertion i = s.insertion i := rfl
@[simp] theorem State.triggerPass_limitSetOpt (s : State) (i : LimitNo) :
    (s.triggerPass).limitSet? i = s.limitSet? i := rfl
@[simp] theorem State.triggerPass_limitSet (s : State) (i : LimitNo) :
    (s.triggerPass).limitSet i = s.limitSet i := rfl
@[simp] theorem State.triggerPass_ship (s : State) (i : ShipNo) :
    (s.triggerPass).ship i = s.ship i := rfl
@[simp] theorem State.triggerPass_hostByte (s : State) (i : Nat) :
    (s.triggerPass).hostByte i = s.hostByte i := rfl
@[simp] theorem State.triggerPass_minute (s : State) :
    (s.triggerPass).minute = s.minute := rfl
@[simp] theorem State.triggerPass_running (s : State) :
    (s.triggerPass).running = s.running := rfl
@[simp] theorem State.triggerPass_working (s : State) :
    (s.triggerPass).working = s.working := rfl
@[simp] theorem State.triggerPass_backpressure (s : State) :
    (s.triggerPass).backpressure = s.backpressure := rfl
@[simp] theorem State.triggerPass_holdOpt (s : State) (i : Nat) :
    State.hold? i (s.triggerPass) = State.hold? i s := rfl

/-! ### modScanner -/

@[simp] theorem State.modScanner_lm (s : State) (f : Scanner → Scanner) : (s.modScanner f).lm = s.lm := rfl
@[simp] theorem State.modScanner_cells (s : State) (f : Scanner → Scanner) : (s.modScanner f).cells = s.cells := rfl
@[simp] theorem State.modScanner_ports (s : State) (f : Scanner → Scanner) : (s.modScanner f).ports = s.ports := rfl
@[simp] theorem State.modScanner_insertions (s : State) (f : Scanner → Scanner) : (s.modScanner f).insertions = s.insertions := rfl
@[simp] theorem State.modScanner_limitSets (s : State) (f : Scanner → Scanner) : (s.modScanner f).limitSets = s.limitSets := rfl
@[simp] theorem State.modScanner_hm (s : State) (f : Scanner → Scanner) : (s.modScanner f).hm = s.hm := rfl
@[simp] theorem State.modScanner_de (s : State) (f : Scanner → Scanner) : (s.modScanner f).de = s.de := rfl
@[simp] theorem State.modScanner_ships (s : State) (f : Scanner → Scanner) : (s.modScanner f).ships = s.ships := rfl
@[simp] theorem State.modScanner_ft (s : State) (f : Scanner → Scanner) : (s.modScanner f).ft = s.ft := rfl
@[simp] theorem State.modScanner_ru (s : State) (f : Scanner → Scanner) : (s.modScanner f).ru = s.ru := rfl
@[simp] theorem State.modScanner_host (s : State) (f : Scanner → Scanner) : (s.modScanner f).host = s.host := rfl
@[simp] theorem State.modScanner_freeIx (s : State) (f : Scanner → Scanner) : (s.modScanner f).freeIx = s.freeIx := rfl
@[simp] theorem State.modScanner_pending (s : State) (f : Scanner → Scanner) : (s.modScanner f).pending = s.pending := rfl
@[simp] theorem State.modScanner_lot (s : State) (f : Scanner → Scanner) (i : LotSlot) :
    (s.modScanner f).lot i = s.lot i := rfl
@[simp] theorem State.modScanner_recipeOpt (s : State) (f : Scanner → Scanner) (i : RecipeNo) :
    (s.modScanner f).recipe? i = s.recipe? i := rfl
@[simp] theorem State.modScanner_recipe (s : State) (f : Scanner → Scanner) (i : RecipeNo) :
    (s.modScanner f).recipe i = s.recipe i := rfl
@[simp] theorem State.modScanner_cell (s : State) (f : Scanner → Scanner) (i : CellNo) :
    (s.modScanner f).cell i = s.cell i := rfl
@[simp] theorem State.modScanner_port (s : State) (f : Scanner → Scanner) (i : PortNo) :
    (s.modScanner f).port i = s.port i := rfl
@[simp] theorem State.modScanner_insertion (s : State) (f : Scanner → Scanner) (i : CellNo) :
    (s.modScanner f).insertion i = s.insertion i := rfl
@[simp] theorem State.modScanner_limitSetOpt (s : State) (f : Scanner → Scanner) (i : LimitNo) :
    (s.modScanner f).limitSet? i = s.limitSet? i := rfl
@[simp] theorem State.modScanner_limitSet (s : State) (f : Scanner → Scanner) (i : LimitNo) :
    (s.modScanner f).limitSet i = s.limitSet i := rfl
@[simp] theorem State.modScanner_ship (s : State) (f : Scanner → Scanner) (i : ShipNo) :
    (s.modScanner f).ship i = s.ship i := rfl
@[simp] theorem State.modScanner_hostByte (s : State) (f : Scanner → Scanner) (i : Nat) :
    (s.modScanner f).hostByte i = s.hostByte i := rfl
@[simp] theorem State.modScanner_minute (s : State) (f : Scanner → Scanner) :
    (s.modScanner f).minute = s.minute := rfl
@[simp] theorem State.modScanner_backpressure (s : State) (f : Scanner → Scanner) :
    (s.modScanner f).backpressure = s.backpressure := rfl
@[simp] theorem State.modScanner_reservationOf (s : State) (f : Scanner → Scanner) (i : CellNo) :
    State.reservationOf i (s.modScanner f) = State.reservationOf i s := rfl
@[simp] theorem State.modScanner_holdOpt (s : State) (f : Scanner → Scanner) (i : Nat) :
    State.hold? i (s.modScanner f) = State.hold? i s := rfl

/-! ### modReports -/

@[simp] theorem State.modReports_lm (s : State) (f : ReportUnit → ReportUnit) : (s.modReports f).lm = s.lm := rfl
@[simp] theorem State.modReports_cells (s : State) (f : ReportUnit → ReportUnit) : (s.modReports f).cells = s.cells := rfl
@[simp] theorem State.modReports_ports (s : State) (f : ReportUnit → ReportUnit) : (s.modReports f).ports = s.ports := rfl
@[simp] theorem State.modReports_insertions (s : State) (f : ReportUnit → ReportUnit) : (s.modReports f).insertions = s.insertions := rfl
@[simp] theorem State.modReports_limitSets (s : State) (f : ReportUnit → ReportUnit) : (s.modReports f).limitSets = s.limitSets := rfl
@[simp] theorem State.modReports_hm (s : State) (f : ReportUnit → ReportUnit) : (s.modReports f).hm = s.hm := rfl
@[simp] theorem State.modReports_de (s : State) (f : ReportUnit → ReportUnit) : (s.modReports f).de = s.de := rfl
@[simp] theorem State.modReports_ships (s : State) (f : ReportUnit → ReportUnit) : (s.modReports f).ships = s.ships := rfl
@[simp] theorem State.modReports_ft (s : State) (f : ReportUnit → ReportUnit) : (s.modReports f).ft = s.ft := rfl
@[simp] theorem State.modReports_os (s : State) (f : ReportUnit → ReportUnit) : (s.modReports f).os = s.os := rfl
@[simp] theorem State.modReports_host (s : State) (f : ReportUnit → ReportUnit) : (s.modReports f).host = s.host := rfl
@[simp] theorem State.modReports_freeIx (s : State) (f : ReportUnit → ReportUnit) : (s.modReports f).freeIx = s.freeIx := rfl
@[simp] theorem State.modReports_pending (s : State) (f : ReportUnit → ReportUnit) : (s.modReports f).pending = s.pending := rfl
@[simp] theorem State.modReports_lot (s : State) (f : ReportUnit → ReportUnit) (i : LotSlot) :
    (s.modReports f).lot i = s.lot i := rfl
@[simp] theorem State.modReports_recipeOpt (s : State) (f : ReportUnit → ReportUnit) (i : RecipeNo) :
    (s.modReports f).recipe? i = s.recipe? i := rfl
@[simp] theorem State.modReports_recipe (s : State) (f : ReportUnit → ReportUnit) (i : RecipeNo) :
    (s.modReports f).recipe i = s.recipe i := rfl
@[simp] theorem State.modReports_cell (s : State) (f : ReportUnit → ReportUnit) (i : CellNo) :
    (s.modReports f).cell i = s.cell i := rfl
@[simp] theorem State.modReports_port (s : State) (f : ReportUnit → ReportUnit) (i : PortNo) :
    (s.modReports f).port i = s.port i := rfl
@[simp] theorem State.modReports_insertion (s : State) (f : ReportUnit → ReportUnit) (i : CellNo) :
    (s.modReports f).insertion i = s.insertion i := rfl
@[simp] theorem State.modReports_limitSetOpt (s : State) (f : ReportUnit → ReportUnit) (i : LimitNo) :
    (s.modReports f).limitSet? i = s.limitSet? i := rfl
@[simp] theorem State.modReports_limitSet (s : State) (f : ReportUnit → ReportUnit) (i : LimitNo) :
    (s.modReports f).limitSet i = s.limitSet i := rfl
@[simp] theorem State.modReports_ship (s : State) (f : ReportUnit → ReportUnit) (i : ShipNo) :
    (s.modReports f).ship i = s.ship i := rfl
@[simp] theorem State.modReports_hostByte (s : State) (f : ReportUnit → ReportUnit) (i : Nat) :
    (s.modReports f).hostByte i = s.hostByte i := rfl
@[simp] theorem State.modReports_minute (s : State) (f : ReportUnit → ReportUnit) :
    (s.modReports f).minute = s.minute := rfl
@[simp] theorem State.modReports_running (s : State) (f : ReportUnit → ReportUnit) :
    (s.modReports f).running = s.running := rfl
@[simp] theorem State.modReports_working (s : State) (f : ReportUnit → ReportUnit) :
    (s.modReports f).working = s.working := rfl
@[simp] theorem State.modReports_reservationOf (s : State) (f : ReportUnit → ReportUnit) (i : CellNo) :
    State.reservationOf i (s.modReports f) = State.reservationOf i s := rfl
@[simp] theorem State.modReports_holdOpt (s : State) (f : ReportUnit → ReportUnit) (i : Nat) :
    State.hold? i (s.modReports f) = State.hold? i s := rfl

/-! ### Reading back -/

theorem State.cell_modCell (s : State) (c d : CellNo) (f : Cell → Cell) :
    (s.modCell c f).cell d = if d = c then f (s.cell c) else s.cell d := by
  simp only [State.cell, State.modCell, Fin.getElem_fin, Vector.getElem_set, Fin.ext_iff, eq_comm]

theorem State.port_modPort (s : State) (p q : PortNo) (f : Port → Port) :
    (s.modPort p f).port q = if q = p then f (s.port p) else s.port q := by
  simp only [State.port, State.modPort, Fin.getElem_fin, Vector.getElem_set, Fin.ext_iff, eq_comm]

theorem State.insertion_setInsertion (s : State) (c d : CellNo) (x : Option Insertion) :
    (s.setInsertion c x).insertion d = if d = c then x else s.insertion d := by
  simp only [State.insertion, State.setInsertion, Fin.getElem_fin, Vector.getElem_set, Fin.ext_iff, eq_comm]

theorem State.insertion_modInsertion (s : State) (c d : CellNo) (f : Insertion → Insertion) :
    (s.modInsertion c f).insertion d = if d = c then (s.insertion c).map f else s.insertion d := by
  simp only [State.modInsertion, State.insertion_setInsertion]

theorem State.lot_setLot (s : State) (l m : LotSlot) (x : Option Lot) :
    (s.setLot l x).lot m = if m = l then x else s.lot m := by
  simp only [State.lot, State.setLot, Fin.getElem_fin, Vector.getElem_set, Fin.ext_iff, eq_comm]

theorem State.lot_modLot (s : State) (l m : LotSlot) (f : Lot → Lot) :
    (s.modLot l f).lot m = if m = l then (s.lot l).map f else s.lot m := by
  simp only [State.modLot, State.lot_setLot]

theorem State.recipeOpt_setRecipe (s : State) (r q : RecipeNo) (x : Option Recipe) :
    (s.setRecipe r x).recipe? q = if q = r then x else s.recipe? q := by
  simp only [State.recipe?, State.setRecipe, Fin.getElem_fin, Vector.getElem_set, Fin.ext_iff, eq_comm]

theorem State.limitSetOpt_setLimitSet (s : State) (n m : LimitNo) (x : Option LimitSet) :
    (s.setLimitSet n x).limitSet? m = if m = n then x else s.limitSet? m := by
  simp only [State.limitSet?, State.setLimitSet, Fin.getElem_fin, Vector.getElem_set, Fin.ext_iff, eq_comm]

theorem State.ship_setShip (s : State) (n m : ShipNo) (x : Option Ship) :
    (s.setShip n x).ship m = if m = n then x else s.ship m := by
  simp only [State.ship, State.setShip, Fin.getElem_fin, Vector.getElem_set, Fin.ext_iff, eq_comm]

theorem State.ship_modShip (s : State) (n m : ShipNo) (f : Ship → Ship) :
    (s.modShip n f).ship m = if m = n then (s.ship n).map f else s.ship m := by
  simp only [State.modShip, State.ship_setShip]

/-! ### What the other components keep -/

@[simp] theorem State.setLot_recipes (s : State) (l : LotSlot) (x : Option Lot) :
    (s.setLot l x).lm.recipes = s.lm.recipes := rfl
@[simp] theorem State.modLot_recipes (s : State) (l : LotSlot) (f : Lot → Lot) :
    (s.modLot l f).lm.recipes = s.lm.recipes := rfl
@[simp] theorem State.setLot_queue (s : State) (l : LotSlot) (x : Option Lot) : (s.setLot l x).lm.queue = s.lm.queue := rfl
@[simp] theorem State.modLot_queue (s : State) (l : LotSlot) (f : Lot → Lot) : (s.modLot l f).lm.queue = s.lm.queue := rfl
@[simp] theorem State.setRecipe_lots (s : State) (r : RecipeNo) (x : Option Recipe) :
    (s.setRecipe r x).lm.lots = s.lm.lots := rfl
@[simp] theorem State.setRecipe_queue (s : State) (r : RecipeNo) (x : Option Recipe) :
    (s.setRecipe r x).lm.queue = s.lm.queue := rfl
@[simp] theorem State.triggerPass_params (s : State) : s.triggerPass.de.params = s.de.params := rfl
@[simp] theorem State.triggerPass_reservations (s : State) : s.triggerPass.de.reservations = s.de.reservations := rfl
@[simp] theorem State.triggerPass_passPending (s : State) : s.triggerPass.de.passPending = true := rfl

end Sys2Proof.Machine
end

