-- ==== Sys2Proof/Laws/Moves.lean ====
section
/-! SUPPORT. What the operations of the blocks can do, said once: `Acts` for what an order's owner can do, `Moves` for what
the floor's own work can do, `Closes` for a run's close; and how lots join and leave the dispatch queue (R13). Each operation
has one lemma, in the form "an action followed by the operation is an action". -/

namespace Sys2Proof.Machine

/-! ## Report records -/

/-- Records appended, in order. -/
def ReportUnit.appendAll (u : ReportUnit) (es : List (Word × Report)) : ReportUnit :=
  es.foldl (fun u e => u.append e.1 e.2) u

/-- One Report Unit is another with records appended. -/
def ReportUnit.Grows (u v : ReportUnit) : Prop := ∃ es, v = u.appendAll es

theorem ReportUnit.Grows.refl (u : ReportUnit) : u.Grows u := ⟨[], rfl⟩

theorem ReportUnit.Grows.append {u v : ReportUnit} (h : u.Grows v) (t : Word) (e : Report) : u.Grows (v.append t e) := by
  obtain ⟨es, rfl⟩ := h
  exact ⟨es ++ [(t, e)], by simp [ReportUnit.appendAll, List.foldl_append]⟩

/-! ## The derived cell state -/

/-- The derived state reads of a cell record only these fields. -/
theorem State.derivedState_congr {s t : State} (c : CellNo)
    (hm : (t.cell c).mapping = (s.cell c).mapping)
    (hp : ∀ p, (t.port p).winStart = (s.port p).winStart ∧ (t.port p).winStop = (s.port p).winStop)
    (hh : (t.cell c).heard = (s.cell c).heard) (hi : (t.cell c).mismatched = (s.cell c).mismatched)
    (hv : (t.cell c).service = (s.cell c).service) (hn : (t.insertion c).isSome = (s.insertion c).isSome)
    (hr : (t.reservationOf c).isSome = (s.reservationOf c).isSome) : t.derivedState c = s.derivedState c := by
  unfold State.derivedState Port.inWindow
  simp only [hm, hh, hi, hv, hn, hr]
  cases (s.cell c).mapping with
  | none => rfl
  | some m => simp only [(hp m.port).1, (hp m.port).2]

/-- A change of a cell record that the derived state does not see, and that leaves the cell state and the count ranges. -/
structure Quiet (f : Cell → Cell) : Prop where
  mapping : ∀ x, (f x).mapping = x.mapping
  heard : ∀ x, (f x).heard = x.heard
  reported : ∀ x, (f x).reported = x.reported
  freeze : ∀ x, (f x).freeze = x.freeze
  frozen : ∀ x, (f x).frozen = x.frozen
  service : ∀ x, (f x).service = x.service
  state : ∀ x, (f x).state = x.state
  counts : ∀ x, x.Saturated → (f x).Saturated

/-- Nothing that a cell's state depends on has changed. -/
structure Still (s t : State) : Prop where
  ports : t.ports = s.ports
  reservations : t.de.reservations = s.de.reservations
  mapping : ∀ c, (t.cell c).mapping = (s.cell c).mapping
  heard : ∀ c, (t.cell c).heard = (s.cell c).heard
  mismatched : ∀ c, (t.cell c).mismatched = (s.cell c).mismatched
  service : ∀ c, (t.cell c).service = (s.cell c).service
  state : ∀ c, (t.cell c).state = (s.cell c).state
  insertion : ∀ c, (t.insertion c).isSome = (s.insertion c).isSome

theorem Still.refl (s : State) : Still s s := ⟨rfl, rfl, fun _ => rfl, fun _ => rfl, fun _ => rfl, fun _ => rfl, fun _ => rfl,
  fun _ => rfl⟩

theorem Still.ofEq {s t : State} (hc : t.cells = s.cells) (hi : t.insertions = s.insertions) (hp : t.ports = s.ports)
    (hr : t.de.reservations = s.de.reservations) : Still s t where
  ports := hp
  reservations := hr
  mapping := fun _ => by simp [State.cell, hc]
  heard := fun _ => by simp [State.cell, hc]
  mismatched := fun _ => by simp [State.cell, hc]
  service := fun _ => by simp [State.cell, hc]
  state := fun _ => by simp [State.cell, hc]
  insertion := fun _ => by simp [State.insertion, hi]

theorem Still.trans {s t u : State} (h : Still s t) (k : Still t u) : Still s u :=
  ⟨k.ports.trans h.ports, k.reservations.trans h.reservations, fun c => (k.mapping c).trans (h.mapping c),
    fun c => (k.heard c).trans (h.heard c), fun c => (k.mismatched c).trans (h.mismatched c),
    fun c => (k.service c).trans (h.service c), fun c => (k.state c).trans (h.state c),
    fun c => (k.insertion c).trans (h.insertion c)⟩

theorem Still.derived {s t : State} (h : Still s t) (c : CellNo) : t.derivedState c = s.derivedState c :=
  State.derivedState_congr c (h.mapping c) (fun p => by simp [State.port, h.ports]) (h.heard c) (h.mismatched c)
    (h.service c) (h.insertion c) (by simp [State.reservationOf, h.reservations])

theorem Still.settled {s t : State} (h : Still s t) {X : CellNo → Prop} (k : s.SettledOutside X) : t.SettledOutside X :=
  fun c => (k c).imp id fun e => by rw [h.state c, h.derived c, e]

/-! ## The relations -/

/-- The scanner, host memory, the queue and the free index stay; records are appended; the bounds of the counts and tables are kept. -/
structure Core (s t : State) : Prop where
  os : t.os = s.os
  host : t.host = s.host
  freeIx : t.freeIx = s.freeIx
  pending : t.pending = s.pending
  records : s.ru.Grows t.ru
  counts : s.CountsSaturate → t.CountsSaturate
  holds : s.HoldsFit → t.HoldsFit
  ships : s.ShipsFit → t.ShipsFit
  queue : s.QueueStands → t.QueueStands

/-- The ports, the limit sets, the recipes, the floor timer and the dispatch parameters stay. -/
structure Keeps (s t : State) : Prop where
  ports : t.ports = s.ports
  limitSets : t.limitSets = s.limitSets
  recipes : t.lm.recipes = s.lm.recipes
  ft : t.ft = s.ft
  params : t.de.params = s.de.params

/-- What an order's owner can do. -/
structure Acts (s t : State) : Prop extends Core s t where
  settled : ∀ X, s.SettledOutside X → t.SettledOutside X
  units : ∀ c, s.TalliesAt c → t.TalliesAt c

/-- The same before the state of cell `c` is derived anew. -/
structure ActsBut (c : CellNo) (s t : State) : Prop extends Core s t where
  settled : ∀ X, s.SettledOutside X → t.SettledOutside fun d => X d ∨ d = c
  units : ∀ c, s.TalliesAt c → t.TalliesAt c

/-- What the floor's own work can do. -/
structure Moves (s t : State) : Prop extends Acts s t, Keeps s t

/-- The same before the state of cell `c` is derived anew. -/
structure MovesBut (c : CellNo) (s t : State) : Prop extends ActsBut c s t, Keeps s t

/-- The floor's own work at the close of the run in cell `c`, whose unit counts need not agree any more (R75). -/
structure Closes (c : CellNo) (s t : State) : Prop extends Core s t, Keeps s t where
  settled : ∀ X, s.SettledOutside X → t.SettledOutside X
  units : ∀ d, d ≠ c → s.TalliesAt d → t.TalliesAt d

theorem Core.refl (s : State) : Core s s := ⟨rfl, rfl, rfl, rfl, .refl _, id, id, id, id⟩

theorem Core.trans {s t u : State} (h : Core s t) (k : Core t u) : Core s u where
  os := k.os.trans h.os
  host := k.host.trans h.host
  freeIx := k.freeIx.trans h.freeIx
  pending := k.pending.trans h.pending
  records := by
    obtain ⟨a, ha⟩ := h.records
    obtain ⟨b, hb⟩ := k.records
    exact ⟨a ++ b, by simp [hb, ha, ReportUnit.appendAll, List.foldl_append]⟩
  counts := fun x => k.counts (h.counts x)
  holds := fun x => k.holds (h.holds x)
  ships := fun x => k.ships (h.ships x)
  queue := fun x => k.queue (h.queue x)

theorem Keeps.refl (s : State) : Keeps s s := ⟨rfl, rfl, rfl, rfl, rfl⟩

theorem Keeps.trans {s t u : State} (h : Keeps s t) (k : Keeps t u) : Keeps s u where
  ports := k.ports.trans h.ports
  limitSets := k.limitSets.trans h.limitSets
  recipes := k.recipes.trans h.recipes
  ft := k.ft.trans h.ft
  params := k.params.trans h.params

theorem Acts.refl (s : State) : Acts s s := ⟨.refl s, fun _ => id, fun _ => id⟩

theorem Acts.trans {s t u : State} (h : Acts s t) (k : Acts t u) : Acts s u :=
  ⟨h.toCore.trans k.toCore, fun X x => k.settled X (h.settled X x), fun c x => k.units c (h.units c x)⟩

theorem Moves.refl (s : State) : Moves s s := ⟨.refl s, .refl s⟩

theorem Moves.trans {s t u : State} (h : Moves s t) (k : Moves t u) : Moves s u :=
  ⟨h.toActs.trans k.toActs, h.toKeeps.trans k.toKeeps⟩

theorem ActsBut.trans {c : CellNo} {s t u : State} (h : ActsBut c s t) (k : Acts t u) : ActsBut c s u :=
  ⟨h.toCore.trans k.toCore, fun X x => k.settled _ (h.settled X x), fun c x => k.units c (h.units c x)⟩

theorem MovesBut.trans {c : CellNo} {s t u : State} (h : MovesBut c s t) (k : Moves t u) : MovesBut c s u :=
  ⟨h.toActsBut.trans k.toActs, h.toKeeps.trans k.toKeeps⟩

theorem Moves.but {c : CellNo} {s t u : State} (h : Moves s t) (k : MovesBut c t u) : MovesBut c s u :=
  ⟨⟨h.toCore.trans k.toCore, fun X x => k.settled X (h.settled X x), fun c x => k.units c (h.units c x)⟩,
    h.toKeeps.trans k.toKeeps⟩

theorem Acts.but {c : CellNo} {s t u : State} (h : Acts s t) (k : ActsBut c t u) : ActsBut c s u :=
  ⟨h.toCore.trans k.toCore, fun X x => k.settled X (h.settled X x), fun c x => k.units c (h.units c x)⟩

theorem Moves.closes {c : CellNo} {s t : State} (h : Moves s t) : Closes c s t :=
  ⟨h.toCore, h.toKeeps, h.settled, fun d _ => h.units d⟩

theorem Closes.trans {c : CellNo} {s t u : State} (h : Closes c s t) (k : Closes c t u) : Closes c s u :=
  ⟨h.toCore.trans k.toCore, h.toKeeps.trans k.toKeeps, fun X x => k.settled X (h.settled X x),
    fun d hd x => k.units d hd (h.units d hd x)⟩

/-- Where the cell has no insertion left, its unit counts agree. -/
theorem Closes.moves {c : CellNo} {s t : State} (h : Closes c s t) (hc : t.insertion c = none) : Moves s t :=
  ⟨⟨h.toCore, h.settled, fun d x => by
    by_cases hd : d = c
    · intro i hi; rw [hd, hc] at hi; cases hi
    · exact h.units d hd x⟩, h.toKeeps⟩

/-! ## The dispatch queue (R13, R14) -/

theorem State.NotAfter.congr {s t : State} (h : ∀ l, (t.lot l).map (fun x => (x.ready, x.admission)) =
    (s.lot l).map fun x => (x.ready, x.admission)) {l m : LotSlot} (k : s.NotAfter l m) : t.NotAfter l m := by
  intro x y hx hy
  have el := h l
  have em := h m
  rw [hx] at el
  rw [hy] at em
  obtain ⟨a, ha, ea⟩ := Option.map_eq_some_iff.mp el.symm
  obtain ⟨b, hb, eb⟩ := Option.map_eq_some_iff.mp em.symm
  have := k a b ha hb
  simp only [Prod.mk.injEq] at ea eb
  rwa [ea.1, ea.2, eb.1, eb.2] at this

theorem State.NotAfter.trans {s : State} {l m n : LotSlot} (hm : (s.lot m).isSome) (h : s.NotAfter l m)
    (k : s.NotAfter m n) : s.NotAfter l n := by
  intro x z hx hz
  obtain ⟨y, hy⟩ := Option.isSome_iff_exists.mp hm
  rcases h x y hx hy with a | ⟨a, a' | ⟨a', a''⟩⟩ <;> rcases k y z hy hz with b | ⟨b, b' | ⟨b', b''⟩⟩
  · exact .inl (by omega)
  · exact .inl (by omega)
  · exact .inl (by omega)
  · exact .inl (by omega)
  · exact .inr ⟨by omega, .inl (by omega)⟩
  · exact .inr ⟨by omega, .inl (b' ▸ a')⟩
  · exact .inl (by omega)
  · exact .inr ⟨by omega, .inl (a' ▸ b')⟩
  · exact .inr ⟨by omega, .inr ⟨a'.trans b', le_trans a'' b''⟩⟩

theorem State.notAfter_of_before {s : State} {l m : LotSlot} (h : s.queueBefore l m = true) : s.NotAfter l m := by
  intro x y hx hy
  unfold State.queueBefore at h
  rw [hx, hy] at h
  dsimp only at h
  split at h
  · exact .inl (of_decide_eq_true h)
  · next hr =>
    split at h
    · exact .inr ⟨not_not.mp hr, .inl (of_decide_eq_true h)⟩
    · next ha => exact .inr ⟨not_not.mp hr, .inr ⟨not_not.mp ha, le_of_lt (of_decide_eq_true h)⟩⟩

theorem State.notAfter_of_not_before {s : State} {l m : LotSlot} (h : s.queueBefore l m = false) : s.NotAfter m l := by
  intro y x hy hx
  unfold State.queueBefore at h
  rw [hx, hy] at h
  dsimp only at h
  split at h
  · next hr => exact .inl (by have := of_decide_eq_false h; omega)
  · next hr =>
    have e := not_not.mp hr
    split at h
    · next ha =>
      have := of_decide_eq_false h
      have hn : x.admission.toNat ≠ y.admission.toNat := fun q => ha (BitVec.eq_of_toNat_eq q)
      exact .inr ⟨e.symm, .inl (by omega)⟩
    · next ha => exact .inr ⟨e.symm, .inr ⟨(not_not.mp ha).symm, not_lt.mp (of_decide_eq_false h)⟩⟩

theorem mem_queueInsert (before : LotSlot → LotSlot → Bool) (l m : LotSlot) (q : List LotSlot) :
    m ∈ queueInsert before l q ↔ m = l ∨ m ∈ q := by
  induction q with
  | nil => simp [queueInsert]
  | cons x xs ih =>
    unfold queueInsert
    split
    · simp
    · simp only [List.mem_cons, ih]; tauto

theorem nodup_queueInsert (before : LotSlot → LotSlot → Bool) {l : LotSlot} {q : List LotSlot} (hl : l ∉ q) (h : q.Nodup) :
    (queueInsert before l q).Nodup := by
  induction q with
  | nil => simp [queueInsert]
  | cons x xs ih =>
    unfold queueInsert
    split
    · exact List.nodup_cons.mpr ⟨hl, h⟩
    · have hx := List.nodup_cons.mp h
      refine List.nodup_cons.mpr ⟨fun k => ?_, ih (fun k => hl (List.mem_cons_of_mem _ k)) hx.2⟩
      rcases (mem_queueInsert before l x xs).mp k with e | e
      · exact hl (e ▸ List.mem_cons_self)
      · exact hx.1 e

theorem pairwise_queueInsert {s : State} (l : LotSlot) (q : List LotSlot) (hq : ∀ m ∈ q, (s.lot m).isSome)
    (h : q.Pairwise s.NotAfter) : (queueInsert s.queueBefore l q).Pairwise s.NotAfter := by
  induction q with
  | nil => simp [queueInsert]
  | cons x xs ih =>
    have hx := List.pairwise_cons.mp h
    unfold queueInsert
    split
    · next hb =>
      refine List.pairwise_cons.mpr ⟨fun m hm => ?_, h⟩
      have a := State.notAfter_of_before hb
      rcases List.mem_cons.mp hm with e | e
      · exact e ▸ a
      · exact a.trans (hq x List.mem_cons_self) (hx.1 m e)
    · next hb =>
      refine List.pairwise_cons.mpr ⟨fun m hm => ?_, ih (fun m hm => hq m (List.mem_cons_of_mem _ hm)) hx.2⟩
      rcases (mem_queueInsert _ l m xs).mp hm with e | e
      · exact e ▸ State.notAfter_of_not_before (by simpa using hb)
      · exact hx.1 m e

/-- A lot made QUEUED joins the queue in its place. -/
theorem State.QueueStands.join {s t : State} {l : LotSlot} {x : Lot} (h : s.QueueStands) (hq : t.lm.queue = s.lm.queue)
    (ht : ∀ m, t.lot m = if m = l then some x else s.lot m) (hx : x.state = .queued)
    (hl : ∀ y, s.lot l = some y → y.state ≠ .queued) : (t.joinQueue l).QueueStands := by
  obtain ⟨hmem, hdup, hord⟩ := h
  have hnot : l ∉ s.lm.queue := fun k => by
    obtain ⟨y, hy, e⟩ := (hmem l).mp k
    exact hl y hy e
  have hne : ∀ m ∈ s.lm.queue, t.lot m = s.lot m := fun m hm => by
    rw [ht, if_neg fun (e : m = l) => hnot (e ▸ hm)]
  refine ⟨fun m => ?_, ?_, ?_⟩
  · show m ∈ queueInsert t.queueBefore l t.lm.queue ↔ ∃ x, t.lot m = some x ∧ x.state = .queued
    rw [mem_queueInsert, hq, ht, hmem m]
    by_cases e : m = l
    · rw [if_pos e]; exact ⟨fun _ => ⟨x, rfl, hx⟩, fun _ => .inl e⟩
    · rw [if_neg e]; exact ⟨fun k => k.resolve_left e, .inr⟩
  · show (queueInsert t.queueBefore l t.lm.queue).Nodup
    rw [hq]
    exact nodup_queueInsert _ hnot hdup
  · show (queueInsert t.queueBefore l t.lm.queue).Pairwise t.NotAfter
    rw [hq]
    refine pairwise_queueInsert l _ (fun m hm => ?_) (hord.imp_of_mem fun {a b} ha hb k => ?_)
    · obtain ⟨y, hy, _⟩ := (hmem m).mp hm
      rw [hne m hm, hy]; rfl
    · intro y z hy hz
      rw [hne _ ha] at hy
      rw [hne _ hb] at hz
      exact k y z hy hz

/-- The queue depends on each lot's state, ready minute and admission number alone. -/
theorem State.QueueStands.congr {s t : State} (h : s.QueueStands) (hq : t.lm.queue = s.lm.queue)
    (ht : ∀ l, (t.lot l).map (fun x => (x.state, x.ready, x.admission)) =
      (s.lot l).map fun x => (x.state, x.ready, x.admission)) : t.QueueStands := by
  obtain ⟨hmem, hdup, hord⟩ := h
  refine ⟨fun l => ?_, hq ▸ hdup, hq ▸ hord.imp fun {a b} k => ?_⟩
  · have e := congrArg (Option.map Prod.fst) (ht l)
    simp only [Option.map_map] at e
    have key : ∀ o : Option Lot, (∃ x, o = some x ∧ x.state = .queued) ↔
        o.map (Prod.fst ∘ fun x => (x.state, x.ready, x.admission)) = some .queued := fun o => by
      cases o <;> simp
    rw [hq, hmem l, key, key, e]
  · refine State.NotAfter.congr (fun l => ?_) k
    have e := congrArg (Option.map Prod.snd) (ht l)
    simp only [Option.map_map] at e
    exact e

/-- A lot that departs from QUEUED, or that was not QUEUED, changed alone. -/
theorem State.QueueStands.leave {s t : State} {l : LotSlot} (h : s.QueueStands) (hq : t.lm.queue = s.lm.queue.erase l)
    (ht : ∀ m, m ≠ l → t.lot m = s.lot m) (hl : ∀ x, t.lot l = some x → x.state ≠ .queued) : t.QueueStands := by
  obtain ⟨hmem, hdup, hord⟩ := h
  have hm : ∀ m, m ∈ t.lm.queue ↔ m ≠ l ∧ m ∈ s.lm.queue := fun m => by rw [hq, hdup.mem_erase_iff]
  refine ⟨fun m => ?_, hq ▸ hdup.erase l, ?_⟩
  · rw [hm]
    by_cases e : m = l
    · refine ⟨fun k => absurd e k.1, fun ⟨x, hx, q⟩ => ?_⟩
      exact absurd q (hl x (e ▸ hx))
    · rw [ht m e, hmem m]; exact ⟨fun k => k.2, fun k => ⟨e, k⟩⟩
  · rw [hq]
    refine (hord.sublist List.erase_sublist).imp_of_mem fun {a b} ha hb k => ?_
    rw [← hq, hm] at ha hb
    intro y z hy hz
    rw [ht _ ha.1] at hy
    rw [ht _ hb.1] at hz
    exact k y z hy hz

/-- A lot that was not QUEUED and does not become so, changed alone. -/
theorem State.QueueStands.apart {s t : State} {l : LotSlot} (h : s.QueueStands) (hq : t.lm.queue = s.lm.queue)
    (ht : ∀ m, m ≠ l → t.lot m = s.lot m) (hs : ∀ x, s.lot l = some x → x.state ≠ .queued)
    (hl : ∀ x, t.lot l = some x → x.state ≠ .queued) : t.QueueStands := by
  refine h.leave (hq.trans (Eq.symm (List.erase_of_not_mem fun k => ?_))) ht hl
  obtain ⟨y, hy, e⟩ := (h.1 l).mp k
  exact hs y hy e

end Sys2Proof.Machine
end

