-- ==== Sys2Proof/Laws/Engine.lean ====
section
/-! SUPPORT. `Moves` for each operation of the blocks, from the updates upwards: chapters 1 to 8. -/

namespace Sys2Proof.Machine

variable {s t : State}

/-! ## From quiet updates -/

/-- An update that no cell state depends on and that writes no record. -/
theorem Moves.ofStill (h : Still s t) (hl : t.lm.recipes = s.lm.recipes) (hs : t.limitSets = s.limitSets)
    (hf : t.ft = s.ft) (ho : t.os = s.os) (hh : t.host = s.host) (hx : t.freeIx = s.freeIx)
    (hp : t.pending = s.pending) (hd : t.de.params = s.de.params) (hr : s.ru.Grows t.ru)
    (hc : ∀ c, (s.cell c).Saturated → (t.cell c).Saturated) (hho : s.HoldsFit → t.HoldsFit)
    (hsh : s.ShipsFit → t.ShipsFit) (hq : s.QueueStands → t.QueueStands) (hu : ∀ c, s.TalliesAt c → t.TalliesAt c) :
    Moves s t where
  os := ho
  freeIx := hx
  pending := hp
  records := hr
  counts := fun k => ⟨fun c => hc c (k.1 c), fun p => by simpa [State.port, h.ports] using k.2 p⟩
  holds := hho
  ships := hsh
  queue := hq
  units := hu
  settled := fun _ => h.settled
  host := hh
  ports := h.ports
  limitSets := hs
  recipes := hl
  ft := hf
  params := hd

theorem Moves.report (h : Moves s t) (e : Report) : Moves s (t.report e) :=
  h.trans (.ofStill (.ofEq rfl rfl rfl rfl) rfl rfl rfl rfl rfl rfl rfl rfl ((ReportUnit.Grows.refl _).append _ _) (fun _ => id) id id
    id fun _ => id)

theorem Moves.triggerPass (h : Moves s t) : Moves s t.triggerPass :=
  h.trans (.ofStill (.ofEq rfl rfl rfl rfl) rfl rfl rfl rfl rfl rfl rfl rfl (.refl _) (fun _ => id) id id id fun _ => id)

/-- A change of a lot that the queue does not see and that does not lengthen its hold list. -/
structure Lot.Mild (f : Lot → Lot) : Prop where
  holds : ∀ x, (f x).holds.length ≤ x.holds.length
  place : ∀ x, ((f x).state, (f x).ready, (f x).admission) = (x.state, x.ready, x.admission)

/-- A change of a lot that touches neither its hold list nor what the queue sees of it. -/
theorem Lot.Mild.of {f : Lot → Lot} (h : ∀ x, (f x).holds = x.holds)
    (k : ∀ x, ((f x).state, (f x).ready, (f x).admission) = (x.state, x.ready, x.admission)) : Lot.Mild f :=
  ⟨fun x => by rw [h x], k⟩

theorem State.HoldsFit.modLot (k : s.HoldsFit) (l : LotSlot) (f : Lot → Lot)
    (hf : ∀ x, (f x).holds.length ≤ x.holds.length) : (s.modLot l f).HoldsFit := by
  refine ⟨k.1, fun m x hx => ?_⟩
  rw [State.lot_modLot] at hx
  split at hx
  · obtain ⟨y, hy, rfl⟩ := Option.map_eq_some_iff.mp hx
    exact (hf y).trans (k.2 _ y hy)
  · exact k.2 m x hx

theorem State.QueueStands.modLot (k : s.QueueStands) (l : LotSlot) {f : Lot → Lot}
    (hf : ∀ x, ((f x).state, (f x).ready, (f x).admission) = (x.state, x.ready, x.admission)) :
    (s.modLot l f).QueueStands := by
  refine k.congr rfl fun m => ?_
  rw [State.lot_modLot]
  split
  · next e => subst e; rw [Option.map_map]; congr 1; funext x; exact hf x
  · rfl

theorem Moves.modLot (h : Moves s t) (l : LotSlot) (f : Lot → Lot) (hf : Lot.Mild f) : Moves s (t.modLot l f) :=
  h.trans (.ofStill (.ofEq rfl rfl rfl rfl) rfl rfl rfl rfl rfl rfl rfl rfl (.refl _) (fun _ => id)
    (fun k => k.modLot l f hf.holds) id (fun k => k.modLot l hf.place) fun _ => id)

/-- A lot that is not QUEUED enters QUEUED. -/
theorem Moves.requeue (h : Moves s t) (l : LotSlot) {x : Lot} (hx : t.lot l = some x) (hn : x.state ≠ .queued) :
    Moves s (t.requeue l) := by
  refine h.trans (.ofStill (.ofEq rfl rfl rfl rfl) rfl rfl rfl rfl rfl rfl rfl rfl (.refl _) (fun _ => id) ?_ id ?_
    fun _ => id)
  · exact fun k => k.modLot l (fun x => { x with state := .queued, ready := t.minute }) fun _ => le_refl _
  · intro k
    refine k.join (x := { x with state := .queued, ready := t.minute }) rfl (fun m => ?_) rfl fun y hy => ?_
    · rw [State.lot_modLot, hx]; split <;> rfl
    · rw [hx] at hy; obtain rfl := Option.some.inj hy; exact hn

theorem Moves.setLotState (h : Moves s t) (l : LotSlot) (new : LotState) : Moves s (t.setLotState l new) := by
  unfold State.setLotState
  dsimp only
  split
  · exact h
  · next x hx =>
    split
    · exact h
    · next hne =>
      refine Moves.report ?_ _
      split
      · next hn => exact (h.requeue l hx fun e => hne (e.trans hn.symm)).triggerPass
      · next hn =>
        have other : ∀ m, m ≠ l → (t.modLot l fun x => { x with state := new }).lot m = t.lot m := fun m hm => by
          rw [State.lot_modLot, if_neg hm]
        have here : ∀ y, (t.modLot l fun x => { x with state := new }).lot l = some y → y.state ≠ .queued := fun y hy => by
          rw [State.lot_modLot, if_pos rfl, hx] at hy
          obtain rfl := Option.some.inj hy
          exact hn
        split
        · exact h.trans (.ofStill (.ofEq rfl rfl rfl rfl) rfl rfl rfl rfl rfl rfl rfl rfl (.refl _) (fun _ => id)
            (fun k => k.modLot l _ fun _ => le_refl _) id (fun k => k.leave rfl other here) fun _ => id)
        · next hq =>
          exact h.trans (.ofStill (.ofEq rfl rfl rfl rfl) rfl rfl rfl rfl rfl rfl rfl rfl (.refl _) (fun _ => id)
            (fun k => k.modLot l _ fun _ => le_refl _) id
            (fun k => k.apart rfl other (fun y hy => by rw [hx] at hy; obtain rfl := Option.some.inj hy; exact hq) here)
            fun _ => id)

theorem Moves.changeStep (h : Moves s t) (l : LotSlot) (k : Nat) (f : LotStep → LotStep) :
    Moves s (t.changeStep l k f) := h.modLot _ _ (.of (fun _ => rfl) fun _ => rfl)

theorem Moves.closeStep (h : Moves s t) (l : LotSlot) : Moves s (t.closeStep l) := by
  unfold State.closeStep
  dsimp only
  repeat' first
    | assumption
    | split
    | apply Moves.setLotState
    | apply Moves.modLot
    | apply Moves.changeStep
    | exact Lot.Mild.of (fun _ => rfl) fun _ => rfl

/-! ## Cells and insertions -/

theorem Still.modCell (c : CellNo) {f : Cell → Cell} (hf : Quiet f) : Still s (s.modCell c f) where
  ports := rfl
  reservations := rfl
  mapping := fun d => by rw [State.cell_modCell]; split <;> simp_all [hf.mapping]
  heard := fun d => by rw [State.cell_modCell]; split <;> simp_all [hf.heard]
  mismatched := fun d => by
    rw [State.cell_modCell]; split <;> simp_all [Cell.mismatched, hf.reported, hf.freeze, hf.frozen]
  service := fun d => by rw [State.cell_modCell]; split <;> simp_all [hf.service]
  state := fun d => by rw [State.cell_modCell]; split <;> simp_all [hf.state]
  insertion := fun _ => rfl

theorem Moves.modCell (h : Moves s t) (c : CellNo) {f : Cell → Cell} (hf : Quiet f) : Moves s (t.modCell c f) := by
  refine h.trans (.ofStill (.modCell c hf) rfl rfl rfl rfl rfl rfl rfl rfl (.refl _) (fun d k => ?_) id id id fun _ => id)
  rw [State.cell_modCell]
  split
  · next e => exact hf.counts _ (e ▸ k)
  · exact k

theorem Still.modInsertion (c : CellNo) (f : Insertion → Insertion) : Still s (s.modInsertion c f) :=
  ⟨rfl, rfl, fun _ => rfl, fun _ => rfl, fun _ => rfl, fun _ => rfl, fun _ => rfl, fun d => by
    rw [State.insertion_modInsertion]; split <;> simp_all⟩

theorem State.TalliesAt.modInsertion {d : CellNo} (k : s.TalliesAt d) (c : CellNo) {f : Insertion → Insertion}
    (hf : ∀ i, s.insertion c = some i → i.Tallies → (f i).Tallies) : (s.modInsertion c f).TalliesAt d := by
  intro j hj
  rw [State.insertion_modInsertion] at hj
  split at hj
  · next e =>
    subst e
    obtain ⟨i, hi, rfl⟩ := Option.map_eq_some_iff.mp hj
    exact hf i hi (k i hi)
  · exact k j hj

/-- A change of an insertion record whose unit counts still agree. -/
theorem Moves.modInsertion (h : Moves s t) (c : CellNo) (f : Insertion → Insertion)
    (hf : ∀ i, t.insertion c = some i → i.Tallies → (f i).Tallies) : Moves s (t.modInsertion c f) :=
  h.trans (.ofStill (.modInsertion c f) rfl rfl rfl rfl rfl rfl rfl rfl (.refl _) (fun _ => id) id id id
    fun _ k => k.modInsertion c hf)

/-- A change of the command slot is quiet. -/
theorem Quiet.slot (f : CommandSlot → CommandSlot) : Quiet fun x => { x with slot := f x.slot } :=
  ⟨fun _ => rfl, fun _ => rfl, fun _ => rfl, fun _ => rfl, fun _ => rfl, fun _ => rfl, fun _ => rfl, fun _ => id⟩

theorem Moves.request (h : Moves s t) (c : CellNo) (cmd : Command) : Moves s (t.request c cmd) := by
  unfold State.request
  dsimp only
  split
  · exact (h.modCell c (Quiet.slot fun x => { x with desired := some cmd, tag := _ })).modInsertion c _ (by exact fun _ _ => id)
  · exact h.modCell c (Quiet.slot fun x => { x with desired := some cmd })

theorem Moves.setInsState (h : Moves s t) (c : CellNo) (new : InsState) (cause : InsCause) :
    Moves s (t.setInsState c new cause) := by
  unfold State.setInsState
  split
  · exact h
  · exact (h.modInsertion c _ (by exact fun _ _ => id)).report _

theorem Moves.suspend (h : Moves s t) (c : CellNo) : Moves s (t.suspend c) := by
  unfold State.suspend
  dsimp only
  repeat' first
    | assumption
    | split
    | apply Moves.request
    | apply Moves.setInsState
    | apply Moves.modInsertion
    | exact fun _ _ => id

/-! ## The derivation of the cell state -/

theorem Still.report (e : Report) : Still s (s.report e) := .ofEq rfl rfl rfl rfl

theorem Still.request (c : CellNo) (cmd : Command) : Still s (s.request c cmd) := by
  unfold State.request
  dsimp only
  split
  · exact (Still.modCell c (Quiet.slot fun x => { x with desired := some cmd, tag := _ })).trans (.modInsertion c _)
  · exact .modCell c (Quiet.slot fun x => { x with desired := some cmd })

theorem Still.setInsState (c : CellNo) (new : InsState) (cause : InsCause) : Still s (s.setInsState c new cause) := by
  unfold State.setInsState
  split
  · exact .refl s
  · exact (Still.modInsertion c _).trans (.report _)

theorem Still.suspend (c : CellNo) : Still s (s.suspend c) := by
  unfold State.suspend
  dsimp only
  split
  · exact .refl s
  · split
    · exact .modInsertion c _
    · split
      · exact ((Still.modInsertion c _).trans (.setInsState c _ _)).trans (.request c _)
      · exact (Still.modInsertion c _).trans (.setInsState c _ _)

/-- Deleting the entries of a cell leaves the reservations of the others. -/
theorem State.reservationOf_delete (s : State) {c d : CellNo} (hd : d ≠ c) :
    (s.deleteReservation c).reservationOf d = s.reservationOf d := by
  simp only [State.reservationOf, State.deleteReservation, List.find?_filter]
  congr 1
  funext r
  by_cases hr : r.cell = d <;> simp [hr, hd]

/-- The derived state of a cell in SILENT or MISMATCH does not see its reservation. -/
theorem State.derivedState_delete (s : State) (c d : CellNo)
    (hc : s.derivedState c = .silent ∨ s.derivedState c = .mismatch) :
    (s.deleteReservation c).derivedState d = s.derivedState d := by
  by_cases hd : d = c
  · subst hd
    have hm : (s.deleteReservation d).cell d = s.cell d := rfl
    have hp : ∀ p, (s.deleteReservation d).port p = s.port p := fun _ => rfl
    have hi : (s.deleteReservation d).insertion d = s.insertion d := rfl
    revert hc
    unfold State.derivedState
    simp only [hm, hp, hi]
    cases (s.cell d).mapping with
    | none => simp
    | some m =>
      simp only
      generalize (s.reservationOf d).isSome = a
      generalize ((s.deleteReservation d).reservationOf d).isSome = b
      repeat' first
        | (split <;> simp_all)
  · exact State.derivedState_congr d rfl (fun _ => ⟨rfl, rfl⟩) rfl rfl rfl rfl (by rw [State.reservationOf_delete s hd])

theorem Still.setLotState (l : LotSlot) (new : LotState) : Still s (s.setLotState l new) := by
  unfold State.setLotState
  dsimp only
  split
  · exact .refl s
  · split
    · exact .refl s
    · split
      · exact .ofEq rfl rfl rfl rfl
      · split <;> exact .ofEq rfl rfl rfl rfl

theorem State.TalliesAt.setInsertion {d : CellNo} (k : s.TalliesAt d) (c : CellNo) {x : Option Insertion}
    (hx : ∀ i, x = some i → i.Tallies) : (s.setInsertion c x).TalliesAt d := by
  intro j hj
  rw [State.insertion_setInsertion] at hj
  split at hj
  · exact hx j hj
  · exact k j hj

/-- Deleting a cell's entries unsettles at most that cell. -/
theorem MovesBut.deleteReservation (s : State) (c : CellNo) : MovesBut c s (s.deleteReservation c) where
  os := rfl
  freeIx := rfl
  pending := rfl
  records := .refl _
  counts := id
  holds := id
  ships := id
  queue := id
  units := fun _ => id
  settled := fun X k d => by
    by_cases hd : d = c
    · exact .inl (.inr hd)
    · refine (k d).imp .inl fun e => ?_
      refine e.trans (Eq.symm ?_)
      exact State.derivedState_congr d rfl (fun _ => ⟨rfl, rfl⟩) rfl rfl rfl rfl (by rw [State.reservationOf_delete s hd])
  host := rfl
  ports := rfl
  limitSets := rfl
  recipes := rfl
  ft := rfl
  params := rfl

/-- Filling or clearing an insertion record unsettles at most its cell. -/
theorem MovesBut.setInsertion (s : State) (c : CellNo) (x : Option Insertion) (hx : ∀ i, x = some i → i.Tallies) :
    MovesBut c s (s.setInsertion c x) where
  os := rfl
  freeIx := rfl
  pending := rfl
  records := .refl _
  counts := id
  holds := id
  ships := id
  queue := id
  units := fun _ k => k.setInsertion c hx
  settled := fun X k d => by
    by_cases hd : d = c
    · exact .inl (.inr hd)
    · refine (k d).imp .inl fun e => ?_
      refine e.trans (Eq.symm ?_)
      exact State.derivedState_congr d rfl (fun _ => ⟨rfl, rfl⟩) rfl rfl rfl
        (by rw [State.insertion_setInsertion, if_neg hd]) rfl
  host := rfl
  ports := rfl
  limitSets := rfl
  recipes := rfl
  ft := rfl
  params := rfl

/-- Any change of a cell record that keeps its counts in range unsettles at most that cell. -/
theorem MovesBut.modCell (s : State) (c : CellNo) {f : Cell → Cell} (hf : ∀ x, x.Saturated → (f x).Saturated) :
    MovesBut c s (s.modCell c f) where
  os := rfl
  freeIx := rfl
  pending := rfl
  records := .refl _
  counts := fun k => ⟨fun d => by
    rw [State.cell_modCell]; split
    · exact hf _ (k.1 c)
    · exact k.1 d, k.2⟩
  holds := id
  ships := id
  queue := id
  units := fun _ => id
  settled := fun X k d => by
    by_cases hd : d = c
    · exact .inl (.inr hd)
    · have hc : (s.modCell c f).cell d = s.cell d := by rw [State.cell_modCell, if_neg hd]
      have hder : (s.modCell c f).derivedState d = s.derivedState d :=
        State.derivedState_congr d (by rw [hc]) (fun _ => ⟨rfl, rfl⟩) (by rw [hc]) (by rw [hc]) (by rw [hc]) rfl rfl
      exact (k d).imp .inl fun e => by rw [hc, e, hder]
  host := rfl
  ports := rfl
  limitSets := rfl
  recipes := rfl
  ft := rfl
  params := rfl

/-- The cancellation of an entry whose cell stands in SILENT or MISMATCH leaves every cell settled. -/
theorem Moves.cancelFor (c : CellNo) (cause : CancelCause)
    (hc : s.derivedState c = .silent ∨ s.derivedState c = .mismatch) : Moves s (s.cancelFor c cause) := by
  unfold State.cancelFor
  split
  · exact .refl s
  · next r hr =>
    have hrc : r.cell = c := by
      have := List.find?_some hr
      simpa using this
    subst hrc
    have h0 : Moves s (s.deleteReservation r.cell) := by
      refine ⟨⟨(MovesBut.deleteReservation s r.cell).toCore, fun X k d => ?_, fun _ => id⟩,
        (MovesBut.deleteReservation s r.cell).toKeeps⟩
      refine (k d).imp id fun e => ?_
      rw [State.derivedState_delete s r.cell d hc]
      exact e
    exact (h0.report _).setLotState _ _

theorem Quiet.silence (n : Nat) : Quiet fun x => { x with silence := n } :=
  ⟨fun _ => rfl, fun _ => rfl, fun _ => rfl, fun _ => rfl, fun _ => rfl, fun _ => rfl, fun _ => rfl, fun _ => id⟩

/-- The effects of the state entered, which is the one derived (Table 2-6). -/
theorem Moves.enterCellState (c : CellNo) (new : CellState) (h : s.derivedState c = new) :
    Moves s (s.enterCellState c new) := by
  have hs : (s.suspend c).derivedState c = new := by rw [(Still.suspend c).derived, h]
  unfold State.enterCellState
  cases new with
  | parked => exact ((Moves.refl s).modCell c (Quiet.silence 0)).suspend c
  | silent => exact ((Moves.refl s).suspend c).trans (.cancelFor c _ (.inl hs))
  | mismatch => exact ((Moves.refl s).suspend c).trans (.cancelFor c _ (.inr hs))
  | idle => exact (Moves.refl s).triggerPass
  | detached => exact .refl s
  | busy => exact .refl s
  | reserved => exact .refl s
  | outOfService => exact .refl s

/-- The derivation settles its cell. -/
theorem State.settled_deriveCell {X : CellNo → Prop} (s : State) (c : CellNo) (cause : CellCause)
    (k : s.SettledOutside fun d => X d ∨ d = c) : (s.deriveCell c cause).SettledOutside X := by
  unfold State.deriveCell
  dsimp only
  split
  · next e =>
    intro d
    by_cases hd : d = c
    · exact .inr (by rw [hd, e])
    · exact (k d).imp (fun x => x.resolve_right hd) id
  · let t := (s.modCell c fun x => { x with state := s.derivedState c }).report
      (.cellState c (s.cell c).state (s.derivedState c) cause)
    have hcell : ∀ d, t.cell d = if d = c then { s.cell c with state := s.derivedState c } else s.cell d :=
      fun d => State.cell_modCell s c d fun x => { x with state := s.derivedState c }
    have hder : ∀ d, t.derivedState d = s.derivedState d := fun d => by
      refine State.derivedState_congr d ?_ (fun _ => ⟨rfl, rfl⟩) ?_ ?_ ?_ rfl rfl <;>
        (rw [hcell]; split <;> simp_all [Cell.mismatched])
    have ht : t.SettledOutside X := fun d => by
      rw [hcell, hder]
      by_cases hd : d = c
      · exact .inr (by simp [hd])
      · rw [if_neg hd]; exact (k d).imp (fun x => x.resolve_right hd) id
    exact (Moves.enterCellState c _ (hder c)).settled X ht

theorem State.core_deriveCell (s : State) (c : CellNo) (cause : CellCause) :
    Core s (s.deriveCell c cause) ∧ Keeps s (s.deriveCell c cause) ∧
      ∀ d, s.TalliesAt d → (s.deriveCell c cause).TalliesAt d := by
  unfold State.deriveCell
  dsimp only
  split
  · exact ⟨.refl s, .refl s, fun _ => id⟩
  · have h := MovesBut.modCell s c (f := fun x => { x with state := s.derivedState c }) fun _ => id
    have h := h.trans ((Moves.refl _).report (.cellState c (s.cell c).state (s.derivedState c) cause))
    have hder : ((s.modCell c fun x => { x with state := s.derivedState c }).report
        (.cellState c (s.cell c).state (s.derivedState c) cause)).derivedState c = s.derivedState c := by
      refine State.derivedState_congr c ?_ (fun _ => ⟨rfl, rfl⟩) ?_ ?_ ?_ rfl rfl <;>
        simp [State.cell_modCell, Cell.mismatched]
    have k := Moves.enterCellState c _ hder
    exact ⟨h.toCore.trans k.toCore, h.toKeeps.trans k.toKeeps, fun d x => k.units d (h.units d x)⟩

theorem MovesBut.deriveCell {c : CellNo} (h : MovesBut c s t) (cause : CellCause) : Moves s (t.deriveCell c cause) :=
  ⟨⟨h.toCore.trans (t.core_deriveCell c cause).1, fun X k => t.settled_deriveCell c cause (h.settled X k),
    fun d k => (t.core_deriveCell c cause).2.2 d (h.units d k)⟩, h.toKeeps.trans (t.core_deriveCell c cause).2.1⟩

theorem ActsBut.deriveCell {c : CellNo} (h : ActsBut c s t) (cause : CellCause) : Acts s (t.deriveCell c cause) :=
  ⟨h.toCore.trans (t.core_deriveCell c cause).1, fun X k => t.settled_deriveCell c cause (h.settled X k),
    fun d k => (t.core_deriveCell c cause).2.2 d (h.units d k)⟩

theorem Moves.deriveCell (h : Moves s t) (c : CellNo) (cause : CellCause) : Moves s (t.deriveCell c cause) :=
  ⟨⟨h.toCore.trans (t.core_deriveCell c cause).1, fun X k =>
    t.settled_deriveCell c cause fun d => (h.settled X k d).imp .inl id,
    fun d k => (t.core_deriveCell c cause).2.2 d (h.units d k)⟩, h.toKeeps.trans (t.core_deriveCell c cause).2.1⟩

theorem Moves.cancelOfLot (h : Moves s t) (l : LotSlot) (cause : CancelCause) : Moves s (t.cancelOfLot l cause) := by
  unfold State.cancelOfLot
  split
  · exact h
  · next r _ =>
    exact (h.but ((MovesBut.deleteReservation t r.cell).trans
      (((Moves.refl _).report _).setLotState _ _))).deriveCell _

theorem Moves.foldl {α : Type} (f : State → α → State) (hf : ∀ u a, Moves u (f u a)) (xs : List α) (h : Moves s t) :
    Moves s (xs.foldl f t) := by
  induction xs generalizing t with
  | nil => exact h
  | cons x xs ih => exact ih (h.trans (hf t x))

/-! ## Chapter 4: starting, pausing, abandoning -/

/-- Two changes that unsettle the same cell. -/
theorem MovesBut.again {c : CellNo} {u : State} (h : MovesBut c s t) (k : MovesBut c t u) : MovesBut c s u :=
  ⟨⟨h.toCore.trans k.toCore, fun X x d => (k.settled _ (h.settled X x) d).imp (fun y => y.elim id .inr) id,
    fun d x => k.units d (h.units d x)⟩, h.toKeeps.trans k.toKeeps⟩

/-- The start of an insertion, whose cell may have lost its reservation just before (R127). -/
theorem MovesBut.startInsertion (l : LotSlot) (c : CellNo) (h : MovesBut c s t) : Moves s (t.startInsertion l c) := by
  unfold State.startInsertion
  dsimp only
  split
  · exact h.deriveCell _
  · refine Moves.report ?_ _
    refine MovesBut.deriveCell (c := c) ?_ _
    refine MovesBut.trans ?_ (((Moves.refl _).request _ _).setLotState _ _)
    refine h.again (MovesBut.setInsertion t c _ fun i hi => ?_)
    obtain rfl := Option.some.inj hi
    exact ⟨rfl, Nat.zero_le _⟩

theorem Moves.startInsertion (h : Moves s t) (l : LotSlot) (c : CellNo) : Moves s (t.startInsertion l c) :=
  MovesBut.startInsertion l c ⟨⟨h.toCore, fun X k d => (h.settled X k d).imp .inl id, h.units⟩, h.toKeeps⟩

theorem Moves.pauseRequest (h : Moves s t) (c : CellNo) (f : PauseSet → PauseSet) : Moves s (t.pauseRequest c f) := by
  unfold State.pauseRequest
  dsimp only
  repeat' first
    | assumption
    | split
    | with_reducible apply Moves.request
    | with_reducible apply Moves.setInsState
    | with_reducible apply Moves.modInsertion
    | exact fun _ _ => id

theorem Moves.readPause (h : Moves s t) (c : CellNo) (k : HandlerState) (f : StatusFrame) :
    Moves s (t.readPause c k f) := by
  unfold State.readPause
  repeat' first
    | assumption
    | split
    | with_reducible apply Moves.setInsState

theorem MovesBut.clearInsertion (s : State) (c : CellNo) : MovesBut c s (s.clearInsertion c) :=
  (MovesBut.setInsertion s c none fun _ h => nomatch h).trans ((Moves.refl _).modCell c (Quiet.slot fun x => { x with desired := none }))

theorem Moves.returnLot (h : Moves s t) (l : LotSlot) : Moves s (t.returnLot l) := by
  unfold State.returnLot
  repeat' first
    | assumption
    | split
    | with_reducible apply Moves.setLotState

theorem Cell.loadFailed_saturated (x : Cell) (h : x.Saturated) : x.loadFailed.Saturated := by
  refine ⟨h.1, h.2.1, ?_⟩
  simp only [Cell.loadFailed]
  exact Nat.min_le_right _ _

theorem Moves.abandon (h : Moves s t) (c : CellNo) (timer : Option FailedTimer) : Moves s (t.abandon c timer) := by
  unfold State.abandon
  dsimp only
  split
  · exact h
  · next i _ =>
    have k := (MovesBut.clearInsertion t c).trans ((Moves.refl _).returnLot i.lot)
    split
    · exact (h.but ((k.again (MovesBut.modCell _ c Cell.loadFailed_saturated)).trans
        ((Moves.refl _).report _))).deriveCell _
    · exact (h.but (k.trans ((Moves.refl _).report _))).deriveCell _

theorem Moves.abortRequest (h : Moves s t) (c : CellNo) : Moves s (t.abortRequest c) := by
  unfold State.abortRequest
  dsimp only
  repeat' first
    | assumption
    | split
    | with_reducible apply Moves.abandon
    | with_reducible apply Moves.request
    | with_reducible apply Moves.setInsState
    | with_reducible apply Moves.modInsertion
    | exact fun _ _ => id

/-! ## Chapter 8: membership and release -/

/-- A change of a ship order that does not lengthen its list. -/
theorem Moves.modShip (h : Moves s t) (n : ShipNo) (f : Ship → Ship) (hf : ∀ o, (f o).lots.length ≤ o.lots.length) :
    Moves s (t.modShip n f) := by
  refine h.trans (.ofStill (.ofEq rfl rfl rfl rfl) rfl rfl rfl rfl rfl rfl rfl rfl (.refl _) (fun _ => id) id ?_ id fun _ => id)
  intro k m o ho
  rw [State.ship_modShip] at ho
  split at ho
  · obtain ⟨y, hy, rfl⟩ := Option.map_eq_some_iff.mp ho
    exact (hf y).trans (k _ y hy)
  · exact k m o ho

theorem Moves.removeMember (h : Moves s t) (n : ShipNo) (l : LotSlot) (cause : RemovalCause) :
    Moves s (t.removeMember n l cause) := by
  unfold State.removeMember
  dsimp only
  split
  · exact h
  · next o ho =>
    refine Moves.report ?_ _
    refine Moves.modLot ?_ _ _ ?_
    on_goal 2 => exact Lot.Mild.of (fun _ => rfl) fun _ => rfl
    refine h.trans (.ofStill (.ofEq rfl rfl rfl rfl) rfl rfl rfl rfl rfl rfl rfl rfl (.refl _) (fun _ => id) id ?_ id fun _ => id)
    intro k m q hq
    rw [State.ship_modShip] at hq
    split at hq
    · obtain ⟨y, hy, rfl⟩ := Option.map_eq_some_iff.mp hq
      exact (List.length_erase_le ..).trans (k _ o ho)
    · exact k m q hq

theorem Moves.releaseMember (h : Moves s t) (n : ShipNo) (o : Ship) (l : LotSlot) : Moves s (t.releaseMember n o l) := by
  unfold State.releaseMember
  repeat' first
    | assumption
    | split
    | with_reducible apply Moves.setLotState
    | with_reducible apply Moves.report

theorem Moves.releaseOrder (h : Moves s t) (n : ShipNo) (manner : ReleaseManner) (k : Nat) :
    Moves s (t.releaseOrder n manner k) := by
  unfold State.releaseOrder
  dsimp only
  split
  · exact h
  · refine Moves.report ?_ _
    refine Moves.modShip ?_ _ _ ?_
    · exact h.foldl _ (fun u l => (Moves.refl u).releaseMember _ _ l) _
    · exact fun _ => le_refl _

theorem Moves.examineAuto (h : Moves s t) (n : ShipNo) : Moves s (t.examineAuto n) := by
  unfold State.examineAuto
  repeat' first
    | assumption
    | split
    | with_reducible apply Moves.releaseOrder

theorem Moves.notice (h : Moves s t) (l : LotSlot) : Moves s (t.notice l) := by
  unfold State.notice
  repeat' first
    | assumption
    | split
    | with_reducible apply Moves.examineAuto

/-! ## Chapter 6: holds -/

theorem Moves.syncHold (h : Moves s t) (l : LotSlot) : Moves s (t.syncHold l) := by
  unfold State.syncHold
  repeat' first
    | assumption
    | split
    | with_reducible apply Moves.pauseRequest

theorem Moves.quarantine (h : Moves s t) (l : LotSlot) (m : QuarantineMatter) : Moves s (t.quarantine l m) := by
  unfold State.quarantine
  dsimp only
  repeat' first
    | assumption
    | split
    | with_reducible apply Moves.cancelOfLot
    | with_reducible apply Moves.syncHold
    | with_reducible apply Moves.report
    | with_reducible apply Moves.modLot
    | exact Lot.Mild.of (fun _ => rfl) fun _ => rfl

/-- A hold made for a lot whose list and the table have room. -/
theorem Moves.makeHold (l : LotSlot) (x : Lot) (r : HoldRequest) (hx : s.lot l = some x)
    (hl : x.holds.length < Config.lotHolds) (ht : s.hm.holds.length < Config.holdRecords) :
    Moves s (s.makeHold l x r).1 := by
  unfold State.makeHold
  dsimp only
  refine Moves.cancelOfLot (Moves.syncHold (Moves.report ?_ _) _) _ _
  refine .ofStill (.ofEq rfl rfl rfl rfl) rfl rfl rfl rfl rfl rfl rfl rfl (.refl _) (fun _ => id) ?_ id
    (fun k => State.QueueStands.modLot (s := { s with hm := _ }) k l fun _ => rfl) fun _ => id
  intro k
  refine ⟨?_, ?_⟩
  · simp only [State.modLot_hm, List.length_append, List.length_cons, List.length_nil]
    omega
  · intro m y hy
    rw [State.lot_modLot] at hy
    split at hy
    · obtain ⟨z, hz, rfl⟩ := Option.map_eq_some_iff.mp hy
      have hz' : s.lot l = some z := hz
      rw [hx] at hz'
      obtain rfl := Option.some.inj hz'
      simp only [List.length_append, List.length_cons, List.length_nil]
      omega
    · exact k.2 m y hy

theorem Moves.holdRequest (h : Moves s t) (l : LotSlot) (r : HoldRequest) : Moves s (t.holdRequest l r).1 := by
  refine h.trans ?_
  unfold State.holdRequest
  split
  · exact .refl t
  · next x hx =>
    split
    · exact .refl t
    · split
      · exact (Moves.refl t).quarantine _ _
      · split
        · exact (Moves.refl t).quarantine _ _
        · split
          · exact (Moves.refl t).quarantine _ _
          · exact .makeHold l x r hx (by omega) (by omega)

theorem Moves.engineHold (h : Moves s t) (l : LotSlot) (c : CellNo) (o : HoldOrigin) (k : HoldClass) :
    Moves s (t.engineHold l c o k) := h.holdRequest _ _

theorem Moves.quarantineExhausted (h : Moves s t) (l : LotSlot) : Moves s (t.quarantineExhausted l) := by
  unfold State.quarantineExhausted
  repeat' first
    | assumption
    | split
    | with_reducible apply Moves.quarantine

/-- Hold records changed or deleted, none added. -/
theorem Moves.setHolds (h : Moves s t) (hs : List Hold) (k : hs.length ≤ t.hm.holds.length) :
    Moves s { t with hm := { t.hm with holds := hs } } :=
  h.trans (.ofStill (.ofEq rfl rfl rfl rfl) rfl rfl rfl rfl rfl rfl rfl rfl (.refl _) (fun _ => id)
    (fun x => ⟨k.trans x.1, x.2⟩) id id fun _ => id)

theorem Moves.clearHold (h : Moves s t) (d : Disposition) (x : Hold) : Moves s (t.clearHold d x) := by
  unfold State.clearHold
  dsimp only
  refine Moves.report (Moves.modLot (h.setHolds _ (List.length_filter_le ..)) _ _ ?_) _
  exact ⟨fun y => List.length_erase_le, fun _ => rfl⟩

theorem Moves.clearHolds (h : Moves s t) (l : LotSlot) (x : Lot) (d : Disposition) : Moves s (t.clearHolds l x d) := by
  unfold State.clearHolds
  dsimp only
  have k := h.foldl (State.clearHold d) (fun u y => (Moves.refl u).clearHold d y) (t.holdsOf x)
  split
  · refine Moves.report ?_ _
    refine Moves.modLot k _ _ ?_
    exact Lot.Mild.of (fun _ => rfl) fun _ => rfl
  · exact k

theorem Moves.expel (h : Moves s t) (l : LotSlot) (x : Lot) (cause : RemovalCause) (p : Ship → Bool) :
    Moves s (t.expel l x cause p) := by
  unfold State.expel
  repeat' first
    | assumption
    | split
    | with_reducible apply Moves.removeMember

theorem Moves.examineFormer (h : Moves s t) (l : LotSlot) (x : Lot) : Moves s (t.examineFormer l x) := by
  unfold State.examineFormer
  repeat' first
    | assumption
    | split
    | with_reducible apply Moves.examineAuto

theorem Moves.scrap (h : Moves s t) (l : LotSlot) : Moves s (t.scrap l) := by
  unfold State.scrap
  dsimp only
  repeat' first
    | assumption
    | split
    | with_reducible apply Moves.examineFormer
    | with_reducible apply Moves.triggerPass
    | with_reducible apply Moves.expel
    | with_reducible apply Moves.syncHold
    | with_reducible apply Moves.abortRequest
    | with_reducible apply Moves.setLotState
    | with_reducible apply Moves.clearHolds

theorem Moves.downgrade (h : Moves s t) (l : LotSlot) : Moves s (t.downgrade l) := by
  unfold State.downgrade
  dsimp only
  repeat' first
    | assumption
    | split
    | with_reducible apply Moves.examineFormer
    | with_reducible apply Moves.notice
    | with_reducible apply Moves.triggerPass
    | with_reducible apply Moves.syncHold
    | with_reducible apply Moves.closeStep
    | with_reducible apply Moves.changeStep
    | with_reducible apply Moves.expel
    | with_reducible apply Moves.modLot
    | with_reducible apply Moves.clearHolds
    | exact Lot.Mild.of (fun _ => rfl) fun _ => rfl

theorem Moves.convertGap (h : Moves s t) (x : Hold) : Moves s (t.convertGap x) := by
  unfold State.convertGap
  dsimp only
  repeat' first
    | assumption
    | split
    | with_reducible apply Moves.closeStep
    | with_reducible apply Moves.changeStep

theorem Moves.continueHold (h : Moves s t) (x : Hold) : Moves s (t.continueHold x) := by
  unfold State.continueHold
  dsimp only
  repeat' first
    | assumption
    | split
    | with_reducible apply Moves.notice
    | with_reducible apply Moves.triggerPass
    | with_reducible apply Moves.syncHold
    | with_reducible apply Moves.convertGap
    | with_reducible apply Moves.clearHold

/-! ## Chapter 5: evaluations -/

theorem Moves.handTrip (h : Moves s t) (l : LotSlot) (c : CellNo) (n : LimitNo) (set : LimitSet) (k : Nat)
    (rs : Vector (EntryOutcome × Nat × Bool) 8) (p : Fin 8) : Moves s (t.handTrip l c n set k rs p) := by
  unfold State.handTrip
  repeat' first
    | assumption
    | split
    | with_reducible apply Moves.holdRequest

theorem Moves.evaluate (h : Moves s t) (kind : EvalKind) (c : CellNo) : Moves s (t.evaluate kind c) := by
  unfold State.evaluate
  dsimp only
  split
  · exact h
  · split
    · exact h
    · refine Moves.foldl _ (fun u p => (Moves.refl u).handTrip _ _ _ _ _ _ p) _ ?_
      split
      · exact h.modInsertion _ _ (by exact fun _ _ => id)
      · exact (h.modInsertion _ _ (by exact fun _ _ => id)).report _

theorem Moves.monitorUnit (h : Moves s t) (c : CellNo) : Moves s (t.monitorUnit c) := by
  unfold State.monitorUnit
  dsimp only
  repeat' first
    | assumption
    | split
    | with_reducible apply Moves.evaluate
    | with_reducible apply Moves.modInsertion
    | exact fun _ _ => id

theorem Moves.monitorClose (h : Moves s t) (c : CellNo) : Moves s (t.monitorClose c) := by
  unfold State.monitorClose
  repeat' first
    | assumption
    | split
    | with_reducible apply Moves.evaluate

/-! ## Chapter 4: the run -/

theorem satInc_le (x : Nat) : satInc x ≤ Config.countMax := Nat.min_le_right _ _

/-- The protocol-error count is quiet and saturates. -/
theorem Quiet.protocolError : Quiet fun x => { x with protocolErrors := satInc x.protocolErrors } :=
  ⟨fun _ => rfl, fun _ => rfl, fun _ => rfl, fun _ => rfl, fun _ => rfl, fun _ => rfl, fun _ => rfl,
    fun _ k => ⟨k.1, satInc_le _, k.2.2⟩⟩

/-- A load-failure count of 0 is quiet. -/
theorem Quiet.loadFailuresZero : Quiet fun x => { x with loadFailures := 0 } :=
  ⟨fun _ => rfl, fun _ => rfl, fun _ => rfl, fun _ => rfl, fun _ => rfl, fun _ => rfl, fun _ => rfl,
    fun _ k => ⟨k.1, k.2.1, Nat.zero_le _⟩⟩

/-- The measured cycle time is quiet. -/
theorem Quiet.measured (f : Cell → Nat) : Quiet fun x => { x with measured := f x } :=
  ⟨fun _ => rfl, fun _ => rfl, fun _ => rfl, fun _ => rfl, fun _ => rfl, fun _ => rfl, fun _ => rfl, fun _ => id⟩

/-- The cell's history is quiet. -/
theorem Quiet.history (r : Option RecipeNo) (t : Option TempClass) :
    Quiet fun x => { x with lastRecipe := r, lastTemp := t } :=
  ⟨fun _ => rfl, fun _ => rfl, fun _ => rfl, fun _ => rfl, fun _ => rfl, fun _ => rfl, fun _ => rfl, fun _ => id⟩

theorem Moves.protocolError (h : Moves s t) (c : CellNo) : Moves s (t.protocolError c) := h.modCell c .protocolError

theorem Moves.beginRun (h : Moves s t) (c : CellNo) (i : Insertion) : Moves s (t.beginRun c i) :=
  (h.changeStep _ _ _).modCell c .loadFailuresZero

theorem Moves.readSoaking (h : Moves s t) (c : CellNo) (f : StatusFrame) : Moves s (t.readSoaking c f) := by
  unfold State.readSoaking
  repeat' first
    | assumption
    | split
    | with_reducible apply Moves.modInsertion
    | exact fun _ _ => id

theorem Moves.readJam (h : Moves s t) (c : CellNo) (k : HandlerState) : Moves s (t.readJam c k) := by
  unfold State.readJam
  repeat' first
    | assumption
    | split
    | with_reducible apply Moves.modInsertion
    | exact fun _ _ => id

theorem Moves.readStatus (h : Moves s t) (c : CellNo) (k : HandlerState) (f : StatusFrame) :
    Moves s (t.readStatus c k f) := by
  unfold State.readStatus
  repeat' first
    | assumption
    | split
    | with_reducible apply Moves.readJam
    | with_reducible apply Moves.readSoaking
    | with_reducible apply Moves.readPause
    | with_reducible apply Moves.beginRun
    | with_reducible apply Moves.setInsState

theorem Moves.quantityExcess (h : Moves s t) (c : CellNo) : Moves s (t.quantityExcess c) := by
  unfold State.quantityExcess
  repeat' first
    | assumption
    | split
    | with_reducible apply Moves.engineHold
    | with_reducible apply Moves.modInsertion
    | exact fun _ _ => id

theorem Moves.catchUp (h : Moves s t) (c : CellNo) (n : Nat) : Moves s (t.catchUp c n) := by
  unfold State.catchUp
  dsimp only
  split
  · exact h
  · next i hi =>
    split
    · exact h
    · next hn =>
      have k := h.modInsertion c (fun j => { j with
        runGap := j.runGap + (min n i.expected - i.unitsSeen), unitsSeen := min n i.expected }) fun j hj hu => by
          rw [hi] at hj
          obtain rfl := Option.some.inj hj
          have := hu.1
          have := hu.2
          exact ⟨by dsimp only; omega, by dsimp only; omega⟩
      split
      · exact (k.changeStep _ _ _).quantityExcess c
      · exact k.changeStep _ _ _

theorem Moves.restoreTo (h : Moves s t) (c : CellNo) (new : InsState) : Moves s (t.restoreTo c new) :=
  (h.modInsertion _ _ (by exact fun _ _ => id)).setInsState _ _ _

theorem Moves.requestLoad (h : Moves s t) (c : CellNo) : Moves s (t.requestLoad c) := by
  unfold State.requestLoad
  repeat' first
    | assumption
    | split
    | with_reducible apply Moves.request
    | with_reducible apply Moves.modInsertion
    | exact fun _ _ => id

theorem Moves.restore (h : Moves s t) (c : CellNo) (f : StatusFrame) : Moves s (t.restore c f) := by
  unfold State.restore
  repeat' first
    | assumption
    | split
    | with_reducible apply Moves.requestLoad
    | with_reducible apply Moves.request
    | with_reducible apply Moves.beginRun
    | with_reducible apply Moves.restoreTo

theorem Moves.resync (h : Moves s t) (c : CellNo) (k : HandlerState) (f : StatusFrame) : Moves s (t.resync c k f) := by
  unfold State.resync
  dsimp only
  repeat' first
    | assumption
    | split
    | with_reducible apply Moves.readStatus
    | with_reducible apply Moves.restore
    | with_reducible apply Moves.catchUp

theorem Moves.deliverStatus (h : Moves s t) (c : CellNo) (k : HandlerState) (f : StatusFrame) :
    Moves s (t.deliverStatus c k f) := by
  unfold State.deliverStatus
  repeat' first
    | assumption
    | split
    | with_reducible apply Moves.resync
    | with_reducible apply Moves.readStatus

theorem Moves.countUnit (h : Moves s t) (c : CellNo) (i : Insertion) (site : Site) (b : Bin) (n : Nat)
    (hi : t.insertion c = some i) (hn : i.unitsSeen < n) (he : n ≤ i.expected) : Moves s (t.countUnit c i site b n) := by
  refine ((h.modInsertion _ _ fun j hj hu => ?_).changeStep _ _ _).monitorUnit _
  rw [hi] at hj
  obtain rfl := Option.some.inj hj
  have := hu.1
  exact ⟨by simp only [Insertion.countUnit]; omega, he⟩

theorem Moves.takeUnit (h : Moves s t) (c : CellNo) (site bin n : Nat) : Moves s (t.takeUnit c site bin n) := by
  unfold State.takeUnit
  repeat' first
    | assumption
    | split
    | with_reducible apply Moves.protocolError
    | with_reducible apply Moves.quantityExcess
    | with_reducible apply Moves.countUnit
    | omega

theorem Moves.takeRetest (h : Moves s t) (c : CellNo) (site bin n : Nat) : Moves s (t.takeRetest c site bin n) := by
  unfold State.takeRetest
  dsimp only
  repeat' first
    | assumption
    | split
    | with_reducible apply Moves.protocolError
    | with_reducible apply Moves.changeStep
    | with_reducible apply Moves.modInsertion
    | exact fun _ _ => id

theorem Moves.takeUnitFrame (h : Moves s t) (c : CellNo) (site bin kind n : Nat) :
    Moves s (t.takeUnitFrame c site bin kind n) := by
  unfold State.takeUnitFrame
  repeat' first
    | assumption
    | split
    | with_reducible apply Moves.protocolError
    | with_reducible apply Moves.takeUnit
    | with_reducible apply Moves.takeRetest

theorem Moves.takeStartIndex (h : Moves s t) (c : CellNo) (n : Word) (m : BitVec 8) :
    Moves s (t.takeStartIndex c n m) := by
  unfold State.takeStartIndex
  dsimp only
  repeat' first
    | assumption
    | split
    | with_reducible apply Moves.protocolError
    | with_reducible apply Moves.changeStep
    | with_reducible apply Moves.modInsertion
    | exact fun _ _ => id
    | exact Moves.modCell h _ (Quiet.measured fun x => newMeasured _ _ x.measured _)

/-- A change of the closing cell's insertion record. -/
theorem Closes.modInsertion (s : State) (c : CellNo) (f : Insertion → Insertion) : Closes c s (s.modInsertion c f) where
  os := rfl
  host := rfl
  freeIx := rfl
  pending := rfl
  records := .refl _
  counts := id
  holds := id
  ships := id
  queue := id
  ports := rfl
  limitSets := rfl
  recipes := rfl
  ft := rfl
  params := rfl
  settled := fun _ => (Still.modInsertion c f).settled
  units := fun d hd k i hi => k i (by rwa [State.insertion_modInsertion, if_neg hd] at hi)

theorem Closes.reconcile (s : State) (c : CellNo) (f : EndFrame) : Closes c s (s.reconcile c f) := by
  unfold State.reconcile
  dsimp only
  split
  · exact (Moves.refl s).closes
  · split
    · exact ((Moves.refl s).changeStep _ _ _).closes.trans (.modInsertion _ c _)
    · exact ((Moves.refl s).engineHold _ _ _ _).closes

theorem Moves.takeLoss (h : Moves s t) (c : CellNo) (n : Nat) : Moves s (t.takeLoss c n) := by
  unfold State.takeLoss
  dsimp only
  repeat' first
    | assumption
    | split
    | with_reducible apply Moves.engineHold
    | with_reducible apply Moves.changeStep

theorem Moves.closeRun (h : Moves s t) (i : Insertion) (o : RunOutcome) : Moves s (t.closeRun i o) :=
  h.changeStep _ _ _

theorem Moves.setHistory (h : Moves s t) (c : CellNo) (i : Insertion) : Moves s (t.setHistory c i) :=
  h.modCell c (.history _ _)

/-- The insertion record of a closing run is cleared. -/
theorem Closes.clearInsertion {c : CellNo} (h : Closes c s t) : MovesBut c s (t.clearInsertion c) := by
  have k := MovesBut.clearInsertion t c
  have hc : (t.clearInsertion c).insertion c = none := by
    show (t.setInsertion c none).insertion c = none
    rw [State.insertion_setInsertion, if_pos rfl]
  refine ⟨⟨h.toCore.trans k.toCore, fun X x => k.settled X (h.settled X x), fun d x => ?_⟩, h.toKeeps.trans k.toKeeps⟩
  by_cases hd : d = c
  · intro i hi; rw [hd, hc] at hi; cases hi
  · exact k.units d (h.units d hd x)

theorem Closes.finishClose {c : CellNo} (h : Closes c s t) (i : Insertion) (o : RunOutcome) :
    Moves s (t.finishClose c i o) :=
  ((h.clearInsertion.deriveCell _).report _).notice _

theorem Moves.finishClose (h : Moves s t) (c : CellNo) (i : Insertion) (o : RunOutcome) :
    Moves s (t.finishClose c i o) := (h.closes (c := c)).finishClose i o

theorem Closes.settleRun {c : CellNo} (h : Closes c s t) (i : Insertion) : Moves s (t.settleRun c i) := by
  have r := Moves.refl t
  unfold State.settleRun
  dsimp only
  split
  · exact (h.trans (r.setHistory c i).closes).finishClose i _
  · split
    · have k := (r.closeRun i .closed).closeStep i.lot
      split
      · exact (h.trans ((k.engineHold _ _ _ _).setHistory c i).closes).finishClose i _
      · exact (h.trans (k.setHistory c i).closes).finishClose i _
    · exact (h.trans ((((r.closeRun i .short).returnLot _).quarantineExhausted _).setHistory c i).closes).finishClose i _

theorem Moves.takeEnd (h : Moves s t) (c : CellNo) (f : EndFrame) : Moves s (t.takeEnd c f) := by
  unfold State.takeEnd
  dsimp only
  split
  · exact h
  · split
    · exact h.protocolError c
    · have k : Closes c s (((t.catchUp c f.highest.toNat).reconcile c f).takeLoss c f.loss.toNat) :=
        ((h.catchUp c _).closes.trans (.reconcile _ c f)).trans ((Moves.refl _).takeLoss c _).closes
      split
      · next hc => exact k.moves hc
      · next i _ =>
        split
        · exact (k.trans (((Moves.refl _).closeRun i .aborted).setHistory c i).closes).finishClose i _
        · have k := k.trans ((Moves.refl _).monitorClose c).closes
          split
          · next hc => exact k.moves hc
          · exact k.settleRun _

theorem Moves.freshAbort (h : Moves s t) (c : CellNo) (i : Insertion) : Moves s (t.freshAbort c i) := by
  unfold State.freshAbort
  dsimp only
  repeat' first
    | assumption
    | split
    | with_reducible apply Moves.finishClose
    | with_reducible apply Moves.setHistory
    | with_reducible apply Moves.quarantineExhausted
    | with_reducible apply Moves.returnLot
    | with_reducible apply Moves.engineHold
    | with_reducible apply Moves.closeRun

theorem Moves.deliverIdent (h : Moves s t) (c : CellNo) (fresh : Bool) : Moves s (t.deliverIdent c fresh) := by
  unfold State.deliverIdent
  repeat' first
    | assumption
    | split
    | with_reducible apply Moves.freshAbort
    | with_reducible apply Moves.modInsertion
    | exact fun _ _ => id
    | with_reducible apply Moves.requestLoad
    | with_reducible apply Moves.setInsState

theorem Moves.kitExpiry (h : Moves s t) (c : CellNo) : Moves s (t.kitExpiry c) := by
  unfold State.kitExpiry
  repeat' first
    | assumption
    | split
    | with_reducible apply Moves.abandon

theorem Moves.loadExpiry (h : Moves s t) (c : CellNo) : Moves s (t.loadExpiry c) := by
  unfold State.loadExpiry
  repeat' first
    | assumption
    | split
    | with_reducible apply Moves.abandon

theorem Moves.soakExpiry (h : Moves s t) (c : CellNo) : Moves s (t.soakExpiry c) := by
  unfold State.soakExpiry
  dsimp only
  repeat' first
    | assumption
    | split
    | with_reducible apply Moves.request
    | with_reducible apply Moves.setInsState
    | with_reducible apply Moves.pauseRequest

/-! ## Chapter 2: identity and link loss -/

theorem Cell.adopt_saturated (d : Identity) (x : Cell) (h : x.Saturated) : (x.adopt d).Saturated := by
  unfold Cell.adopt
  dsimp only
  split <;> exact h

theorem Moves.takeIdent (h : Moves s t) (c : CellNo) (f : IdentFrame) : Moves s (t.takeIdent c f) := by
  unfold State.takeIdent
  split
  · exact h.protocolError c
  · next d _ => exact ((h.but (MovesBut.modCell t c (Cell.adopt_saturated d))).deriveCell _).deliverIdent _ _

theorem Moves.silenceExpired (h : Moves s t) (c : CellNo) : Moves s (t.silenceExpired c) := by
  unfold State.silenceExpired
  dsimp only
  have k := h.modCell c (Quiet.silence 0)
  split
  · exact k
  · split
    · refine MovesBut.deriveCell (c := c) ?_ _
      refine (k.report _).but (MovesBut.modCell _ c ?_)
      exact fun _ => id
    · exact k

/-! ## Chapter 7: passes and reservations -/

theorem MovesBut.addReservation (s : State) (e : Reservation) :
    MovesBut e.cell s { s with de := { s.de with reservations := s.de.reservations ++ [e] } } where
  os := rfl
  freeIx := rfl
  pending := rfl
  records := .refl _
  counts := id
  holds := id
  ships := id
  queue := id
  units := fun _ => id
  settled := fun X k d => by
    by_cases hd : d = e.cell
    · exact .inl (.inr hd)
    · refine (k d).imp .inl fun x => ?_
      refine x.trans (Eq.symm ?_)
      refine State.derivedState_congr d rfl (fun _ => ⟨rfl, rfl⟩) rfl rfl rfl rfl ?_
      simp [State.reservationOf, List.find?_append, Ne.symm hd]
  host := rfl
  ports := rfl
  limitSets := rfl
  recipes := rfl
  ft := rfl
  params := rfl

theorem Moves.reserve (h : Moves s t) (q : Pair) (expiry : Nat) : Moves s (t.reserve q expiry) :=
  (h.but ((MovesBut.addReservation t { cell := q.cell, lot := q.lot, expiry := expiry, score := q.score }).trans
    ((Moves.refl _).setLotState _ _))).deriveCell _

theorem Moves.assign (h : Moves s t) (q : Pair) : Moves s (t.assign q) := by
  unfold State.assign
  dsimp only
  repeat' first
    | assumption
    | split
    | with_reducible apply Moves.startInsertion
    | with_reducible apply Moves.reserve
    | with_reducible apply Moves.report

theorem Moves.assignAll (n : Nat) : ∀ (cs : List Pair) {t : State}, Moves s t → Moves s (t.assignAll n cs) := by
  induction n with
  | zero => intro cs t h; exact h
  | succ n ih =>
    intro cs t h
    unfold State.assignAll
    split
    · exact h
    · split
      · exact h.triggerPass
      · exact ih _ (h.assign _)

theorem Moves.setPassPending (h : Moves s t) (b : Bool) : Moves s { t with de := { t.de with passPending := b } } :=
  h.trans (.ofStill (.ofEq rfl rfl rfl rfl) rfl rfl rfl rfl rfl rfl rfl rfl (.refl _) (fun _ => id) id id id fun _ => id)

theorem Moves.runPass (h : Moves s t) : Moves s t.runPass := by
  unfold State.runPass
  dsimp only
  split
  · exact .assignAll _ _ (h.setPassPending false)
  · exact h

theorem Moves.expireReservation (h : Moves s t) (c : CellNo) : Moves s (t.expireReservation c) := by
  unfold State.expireReservation
  split
  · exact h
  · split
    · exact (h.but ((MovesBut.deleteReservation t c).trans (((Moves.refl _).report _).setLotState _ _))).deriveCell _
    · exact h

/-! ## Chapter 9: LINE_STOP -/

theorem Moves.applyLineStop (h : Moves s t) (c : CellNo) : Moves s (t.applyLineStop c) := by
  unfold State.applyLineStop
  repeat' first
    | assumption
    | split
    | with_reducible apply Moves.pauseRequest

theorem Moves.changeMode (h : Moves s t) (old new : FloorMode) : Moves s (t.changeMode old new) := by
  have ha := h.foldl State.applyLineStop (fun u c => (Moves.refl u).applyLineStop c) allCells
  have hw := h.foldl State.withdrawLineStop (fun u c => (Moves.refl u).pauseRequest c _) allCells
  unfold State.changeMode
  dsimp only
  generalize allCells.foldl State.applyLineStop t = a at ha ⊢
  generalize allCells.foldl State.withdrawLineStop t = w at hw ⊢
  repeat' first
    | assumption
    | split
    | with_reducible apply Moves.triggerPass

end Sys2Proof.Machine
end

