-- ==== Sys2Proof/Laws/Memory.lean ====
section
/-! SUPPORT. Host memory as written: every write keeps the canonical form, and what is read after it. -/

namespace Sys2Proof.Machine

theorem Memory.read?_put (a x : Nat) (b : Byte) (m : List Host.Cell) :
    Memory.read? x (Memory.put a b m) = if x = a then some b else Memory.read? x m := by
  induction m with
  | nil => by_cases h : x = a <;> simp [Memory.put, Memory.read?, h]
  | cons y rest ih =>
    obtain ⟨y, c⟩ := y
    simp only [Memory.put]
    split
    · by_cases h : x = a <;> simp [Memory.read?, h]
    · split
      · next h => subst h; by_cases h : x = a <;> simp [Memory.read?, h]
      · next h1 h2 =>
        simp only [Memory.read?, ih]
        by_cases hx : x = y
        · subst hx; simp [Ne.symm h2]
        · simp [hx]

theorem Memory.put_wf (a : Nat) (b : Byte) (m : List Host.Cell) (h : Memory.wf m) : Memory.wf (Memory.put a b m) := by
  have lower : ∀ (m : List Host.Cell) (k : Nat), k < a → (∀ y ∈ m, k < y.1) → ∀ y ∈ Memory.put a b m, k < y.1 := by
    intro m
    induction m with
    | nil => intro k hk _ y hy; simp [Memory.put] at hy; simp [hy, hk]
    | cons z rest ih =>
      obtain ⟨z, c⟩ := z
      intro k hk hm y hy
      simp only [Memory.put] at hy
      split at hy
      · rcases List.mem_cons.mp hy with rfl | hy
        · exact hk
        · exact hm y hy
      · split at hy
        · rcases List.mem_cons.mp hy with rfl | hy
          · exact hk
          · exact hm y (List.mem_cons_of_mem _ hy)
        · rcases List.mem_cons.mp hy with rfl | hy
          · exact hm _ (List.mem_cons_self ..)
          · exact ih k hk (fun w hw => hm w (List.mem_cons_of_mem _ hw)) y hy
  induction m with
  | nil => simp [Memory.put, Memory.wf]
  | cons z rest ih =>
    obtain ⟨z, c⟩ := z
    simp only [Memory.wf, List.pairwise_cons] at h ih
    simp only [Memory.put]
    split
    · next hz =>
      refine List.pairwise_cons.mpr ⟨?_, List.pairwise_cons.mpr h⟩
      intro y hy
      rcases List.mem_cons.mp hy with rfl | hy
      · exact hz
      · exact hz.trans (h.1 y hy)
    · split
      · next hz => subst hz; exact List.pairwise_cons.mpr ⟨h.1, h.2⟩
      · next h1 h2 =>
        exact List.pairwise_cons.mpr ⟨lower rest z (by omega) h.1, ih h.2⟩

theorem Memory.write_wf (bs : List Byte) : ∀ (a : Nat) (m : List Host.Cell), Memory.wf m → Memory.wf (Memory.write a bs m) := by
  induction bs with
  | nil => intro a m h; exact h
  | cons b bs ih => intro a m h; exact ih _ _ (Memory.put_wf a b m h)

/-- A write leaves every address outside its bytes. -/
theorem Memory.read?_write_outside (bs : List Byte) : ∀ (a x : Nat) (m : List Host.Cell),
    (x < a ∨ a + bs.length ≤ x) → Memory.read? x (Memory.write a bs m) = Memory.read? x m := by
  induction bs with
  | nil => intro a x m _; rfl
  | cons b bs ih =>
    intro a x m h
    simp only [List.length_cons] at h
    rw [Memory.write, ih _ _ _ (by omega), Memory.read?_put, if_neg (by omega)]

/-- The bytes of a write are read back. -/
theorem Memory.read?_write (bs : List Byte) : ∀ (a k : Nat) (m : List Host.Cell) (h : k < bs.length),
    Memory.read? (a + k) (Memory.write a bs m) = some bs[k] := by
  induction bs with
  | nil => intro a k m h; simp at h
  | cons b bs ih =>
    intro a k m h
    cases k with
    | zero =>
      rw [Memory.write, Nat.add_zero, Memory.read?_write_outside _ _ _ _ (by omega), Memory.read?_put, if_pos rfl]
      rfl
    | succ k =>
      have := ih (a + 1) k (Memory.put a b m) (by simpa using h)
      rw [Memory.write, show a + (k + 1) = a + 1 + k by omega, this]
      rfl

theorem State.hostByte_hostWrite_outside (s : State) (a : Nat) (bs : List Byte) (x : Nat)
    (h : x < a ∨ a + bs.length ≤ x) : (s.hostWrite a bs).hostByte x = s.hostByte x :=
  Memory.read?_write_outside bs a x s.host h

theorem State.hostByte_hostWrite (s : State) (a : Nat) (bs : List Byte) (k : Nat) (h : k < bs.length) :
    (s.hostWrite a bs).hostByte (a + k) = some bs[k] := Memory.read?_write bs a k s.host h

theorem State.MemoryCanonical.hostWrite {s : State} (h : s.MemoryCanonical) (a : Nat) (bs : List Byte) :
    (s.hostWrite a bs).MemoryCanonical := Memory.write_wf bs a s.host h

/-! ## Lengths of byte strings -/

@[simp] theorem leBytes_length (k v : Nat) : (leBytes k v).length = k := by
  induction k generalizing v with
  | zero => rfl
  | succ k ih => simp [leBytes, ih]

@[simp] theorem padTo_length (k : Nat) (bs : List Byte) : (padTo k bs).length = k := by
  simp [padTo]

@[simp] theorem flagByte_length (b : Bool) : (flagByte b).length = 1 := rfl

end Sys2Proof.Machine
end

