-- ==== Sys2Proof/Laws/Orders.lean ====
section
/-! SUPPORT. `Acts` for what the owner of each order does. -/

namespace Sys2Proof.Machine

variable {s t : State}

theorem Acts.refuseWith (o : OrderOutcome) (k : Nat) (s : State) : Acts s (refuseWith o k s).1 := .refl s

@[simp] theorem doneOrder_fst (u : State) : (doneOrder u).1 = u := rfl

/-! ## Updates of the tables that only orders change -/

/-- An update that no cell state depends on, that writes no record, and that keeps the bounds. -/
theorem Acts.ofStill (h : Still s t) (ho : t.os = s.os) (hx : t.freeIx = s.freeIx) (hp : t.pending = s.pending)
    (hh : t.host = s.host) (hr : t.ru = s.ru) (hc : ∀ c, (s.cell c).Saturated → (t.cell c).Saturated) (hho : s.HoldsFit → t.HoldsFit)
    (hsh : s.ShipsFit → t.ShipsFit) (hq : s.QueueStands → t.QueueStands) (hu : ∀ c, s.TalliesAt c → t.TalliesAt c) :
    Acts s t where
  os := ho
  host := hh
  freeIx := hx
  pending := hp
  records := hr ▸ .refl _
  counts := fun k => ⟨fun c => hc c (k.1 c), fun p => by simpa [State.port, h.ports] using k.2 p⟩
  holds := hho
  ships := hsh
  queue := hq
  units := hu
  settled := fun _ => h.settled

theorem Acts.setRecipe (s : State) (r : RecipeNo) (x : Option Recipe) : Acts s (s.setRecipe r x) :=
  .ofStill (.ofEq rfl rfl rfl rfl) rfl rfl rfl rfl rfl (fun _ => id) id id id fun _ => id

theorem Acts.setLimitSet (s : State) (n : LimitNo) (x : Option LimitSet) : Acts s (s.setLimitSet n x) :=
  .ofStill (.ofEq rfl rfl rfl rfl) rfl rfl rfl rfl rfl (fun _ => id) id id id fun _ => id

theorem State.HoldsFit.setLot (k : s.HoldsFit) (l : LotSlot) (x : Option Lot) (hx : ∀ y, x = some y → y.holds.length ≤ 4) :
    (s.setLot l x).HoldsFit := by
  refine ⟨k.1, fun m y hy => ?_⟩
  rw [State.lot_setLot] at hy
  split at hy
  · exact hx y hy
  · exact k.2 m y hy

/-- A lot enters the table and the queue. -/
theorem Moves.enterTable (h : Moves s t) (l : LotSlot) (x : Lot) (hx : x.holds.length ≤ 4) (hq : x.state = .queued)
    (hl : t.lot l = none) : Moves s ((t.setLot l (some x)).joinQueue l) := by
  refine h.trans (.ofStill (.ofEq rfl rfl rfl rfl) rfl rfl rfl rfl rfl rfl rfl rfl (.refl _) (fun _ => id) ?_ id ?_
    fun _ => id)
  · exact fun k => k.setLot l (some x) fun y hy => Option.some.inj hy ▸ hx
  · exact fun k => k.join rfl (fun m => State.lot_setLot t l m (some x)) hq fun y hy => by rw [hl] at hy; cases hy

/-- A lot that is not QUEUED leaves the table. -/
theorem Moves.leaveTable (h : Moves s t) (l : LotSlot) (hl : ∀ x, t.lot l = some x → x.state ≠ .queued) :
    Moves s (t.setLot l none) := by
  refine h.trans (.ofStill (.ofEq rfl rfl rfl rfl) rfl rfl rfl rfl rfl rfl rfl rfl (.refl _) (fun _ => id)
    (fun k => k.setLot l none fun y hy => nomatch hy) id (fun k => k.apart (l := l) rfl (fun m hm => ?_) hl fun x hx => ?_)
    fun _ => id)
  · rw [State.lot_setLot, if_neg hm]
  · rw [State.lot_setLot, if_pos rfl] at hx; cases hx

theorem Moves.setShip (h : Moves s t) (n : ShipNo) (x : Option Ship) (hx : ∀ y, x = some y → y.lots.length ≤ 16) :
    Moves s (t.setShip n x) := by
  refine h.trans (.ofStill (.ofEq rfl rfl rfl rfl) rfl rfl rfl rfl rfl rfl rfl rfl (.refl _) (fun _ => id) id
    (fun k => ?_) id fun _ => id)
  intro m y hy
  rw [State.ship_setShip] at hy
  split at hy
  · exact hx y hy
  · exact k m y hy

/-! ## Chapter 1 -/

theorem Acts.putRecipe (a : RecipeArgs) (s : State) : Acts s (actPutRecipe a s).1 := by
  unfold actPutRecipe
  repeat' first
    | exact .refl s
    | exact .setRecipe s _ _
    | split

theorem Acts.dropRecipe (r : Byte) (s : State) : Acts s (actDropRecipe r s).1 := by
  unfold actDropRecipe
  repeat' first
    | exact .refl s
    | exact .setRecipe s _ _
    | split

theorem Acts.setAdmissions (s : State) (n : Word) : Acts s { s with lm := { s.lm with admissions := n } } :=
  .ofStill (.ofEq rfl rfl rfl rfl) rfl rfl rfl rfl rfl (fun _ => id) id id id fun _ => id

/-- The lowest free slot is free. -/
theorem firstFree_free {α : Type} {n : Nat} {v : Vector (Option α) n} {k : Fin n} (h : firstFree v = some k) :
    v[k] = none := by
  have := List.find?_some h
  simpa using this

theorem Acts.admitLot (a : LotArgs) (s : State) : Acts s (actAdmitLot a s).1 := by
  unfold actAdmitLot
  dsimp only
  repeat' first
    | with_reducible exact Acts.refuseWith _ _ s
    | split
  all_goals
    rename_i l hl
    refine (Acts.setAdmissions s (s.lm.admissions + 1)).trans (Moves.toActs ?_)
    have free : s.lot l = none := firstFree_free hl
    refine Moves.report (Moves.triggerPass (Moves.enterTable (.refl _) l _ ?_ ?_ ?_)) _
    · exact Nat.zero_le 4
    · rfl
    · exact free

theorem Acts.amendLot (lot : Half) (due : Word) (priority : Byte) (s : State) :
    Acts s (actAmendLot lot due priority s).1 := by
  unfold actAmendLot
  repeat' first
    | exact .refl s
    | split
  all_goals
    refine Moves.toActs (Moves.modLot (.refl s) _ _ ?_)
    exact .of (fun _ => rfl) fun _ => rfl

theorem Moves.retireMember (h : Moves s t) (n : ShipNo) (l : LotSlot) : Moves s (t.retireMember n l) := by
  have k := h.modShip n (fun o => { o with lots := o.lots.erase l }) fun o => List.length_erase_le
  unfold State.retireMember
  dsimp only
  repeat' first
    | exact k
    | split
    | exact k.setShip _ _ (by simp)

theorem State.lot_retireMember (s : State) (n : ShipNo) (l m : LotSlot) : (s.retireMember n l).lot m = s.lot m := by
  unfold State.retireMember
  dsimp only
  split
  · split <;> rfl
  · rfl

theorem Acts.retireLot (lot : Half) (s : State) : Acts s (actRetireLot lot s).1 := by
  unfold actRetireLot
  split
  · exact .refl s
  · next l _ =>
    split
    · exact .refl s
    · next x hx =>
      split
      · exact .refl s
      · next hs =>
        have hq : x.state ≠ .queued := by
          intro e
          simp [e] at hs
        split
        · exact .refl s
        · split
          · exact .refl s
          · split
            · exact .refl s
            · refine Moves.toActs (Moves.leaveTable ?_ l fun y hy => ?_)
              · split
                · exact (Moves.refl s).report _
                · exact ((Moves.refl s).report _).retireMember _ _
              · have e : s.lot l = some y := by
                  split at hy
                  · exact hy
                  · rw [State.lot_retireMember] at hy; exact hy
                rw [hx] at e
                exact Option.some.inj e ▸ hq

/-! ## Chapter 2 -/

theorem Cell.mapTo_saturated (m : Mapping) (x : Cell) : (x.mapTo m).Saturated :=
  ⟨Nat.zero_le _, Nat.zero_le _, Nat.zero_le _⟩

theorem Acts.mapCell (cell port tap : Byte) (s : State) : Acts s (actMapCell cell port tap s).1 := by
  unfold actMapCell
  repeat' first
    | exact .refl s
    | exact (ActsBut.deriveCell (MovesBut.modCell s _ fun x _ => Cell.mapTo_saturated _ x).toActsBut _)
    | split

theorem Acts.unmapCell (cell : Byte) (s : State) : Acts s (actUnmapCell cell s).1 := by
  unfold actUnmapCell
  repeat' first
    | exact .refl s
    | split
  all_goals
    refine Moves.toActs (MovesBut.deriveCell (MovesBut.modCell s _ ?_) _)
    exact fun x k => k

theorem MovesBut.deriveFrozen {c : CellNo} (h : MovesBut c s t) : Moves s (t.deriveFrozen c) := by
  unfold State.deriveFrozen
  dsimp only
  split
  · exact (h.deriveCell _).modInsertion _ _ (by intro i _ hi; split <;> exact hi)
  · exact h.deriveCell _

theorem Acts.freeze (cell action : Byte) (s : State) : Acts s (actFreeze cell action s).1 := by
  unfold actFreeze
  dsimp only
  repeat' first
    | exact .refl s
    | split
  all_goals
    refine Moves.toActs (MovesBut.deriveFrozen (MovesBut.modCell s _ ?_))
    exact fun _ => id

theorem Moves.applyPolicy (h : Moves s t) (c : CellNo) (a b : StopPolicy) : Moves s (t.applyPolicy c a b) := by
  unfold State.applyPolicy
  repeat' first
    | assumption
    | split
    | with_reducible apply Moves.pauseRequest

theorem Quiet.policy (p : StopPolicy) : Quiet fun x => { x with policy := p } :=
  ⟨fun _ => rfl, fun _ => rfl, fun _ => rfl, fun _ => rfl, fun _ => rfl, fun _ => rfl, fun _ => rfl, fun _ => id⟩

theorem Moves.setPolicy (h : Moves s t) (c : CellNo) (p : StopPolicy) : Moves s (t.setPolicy c p) := by
  have k := h.modCell c (Quiet.policy p)
  unfold State.setPolicy
  dsimp only
  repeat' first
    | exact k
    | split
    | with_reducible apply Moves.applyPolicy

theorem Cell.setService_saturated (on : Bool) (x : Cell) (h : x.Saturated) : (x.setService on).Saturated := by
  refine ⟨h.1, h.2.1, ?_⟩
  cases on
  · exact h.2.2
  · exact Nat.zero_le _

theorem Acts.setCellService (cell action policy : Byte) (s : State) :
    Acts s (actSetCellService cell action policy s).1 := by
  unfold actSetCellService
  repeat' first
    | exact .refl s
    | split
  all_goals
    exact Moves.toActs ((((Moves.refl s).setPolicy _ _).but
      (MovesBut.modCell _ _ (Cell.setService_saturated _))).deriveCell _)

/-! ## Chapter 3 -/

theorem Cell.clearLinkCounts_quiet (p : PortNo) : Quiet (Cell.clearLinkCounts p) where
  mapping := fun x => by unfold Cell.clearLinkCounts; split <;> rfl
  heard := fun x => by unfold Cell.clearLinkCounts; split <;> rfl
  reported := fun x => by unfold Cell.clearLinkCounts; split <;> rfl
  freeze := fun x => by unfold Cell.clearLinkCounts; split <;> rfl
  frozen := fun x => by unfold Cell.clearLinkCounts; split <;> rfl
  service := fun x => by unfold Cell.clearLinkCounts; split <;> rfl
  state := fun x => by unfold Cell.clearLinkCounts; split <;> rfl
  counts := fun x k => by
    unfold Cell.clearLinkCounts
    split
    · exact ⟨Nat.zero_le _, Nat.zero_le _, k.2.2⟩
    · exact k

/-- A cell of a state whose cells have all been changed alike. -/
theorem State.cell_map (s : State) (f : Cell → Cell) (c : CellNo) :
    ({ s with cells := s.cells.map f } : State).cell c = f (s.cell c) := by
  simp [State.cell]

/-- A change of a port record that leaves its scan window and keeps its counts in range. -/
theorem Acts.modPort (s : State) (p : PortNo) (f : Port → Port)
    (hw : ∀ x, (f x).winStart = x.winStart ∧ (f x).winStop = x.winStop) (hc : ∀ x, x.Saturated → (f x).Saturated) :
    Acts s (s.modPort p f) where
  os := rfl
  host := rfl
  freeIx := rfl
  pending := rfl
  records := .refl _
  queue := id
  units := fun _ => id
  counts := fun k => ⟨k.1, fun q => by
    rw [State.port_modPort]; split
    · exact hc _ (k.2 p)
    · exact k.2 q⟩
  holds := id
  ships := id
  settled := fun X k c => (k c).imp id fun e => e.trans (Eq.symm (State.derivedState_congr c rfl (fun q => by
    rw [State.port_modPort]; split
    · next h => rw [h]; exact hw _
    · exact ⟨rfl, rfl⟩) rfl rfl rfl rfl rfl))

/-- Every cell record changed alike by a quiet change. -/
theorem Moves.mapCells (s : State) {f : Cell → Cell} (hf : Quiet f) : Moves s { s with cells := s.cells.map f } := by
  refine .ofStill ⟨rfl, rfl, fun c => ?_, fun c => ?_, fun c => ?_, fun c => ?_, fun c => ?_, fun _ => rfl⟩
    rfl rfl rfl rfl rfl rfl rfl rfl (.refl _) (fun c k => ?_) id id id (fun _ => id) <;> rw [State.cell_map]
  · exact hf.mapping _
  · exact hf.heard _
  · simp [Cell.mismatched, hf.reported, hf.freeze, hf.frozen]
  · exact hf.service _
  · exact hf.state _
  · exact hf.counts _ k

theorem Acts.clearLinkCounts (port : Byte) (s : State) : Acts s (actClearLinkCounts port s).1 := by
  unfold actClearLinkCounts
  dsimp only
  split
  · exact .refl s
  · refine (Acts.modPort s _ _ ?_ ?_).trans (Moves.mapCells _ (Cell.clearLinkCounts_quiet _)).toActs
    · exact fun _ => ⟨rfl, rfl⟩
    · exact fun _ _ => ⟨Nat.zero_le _, Nat.zero_le _, Nat.zero_le _⟩

/-! ## Chapter 4 -/

theorem Acts.withInsertion (cell : Byte) (act : CellNo → Insertion → State → Acted)
    (h : ∀ c i s, Acts s (act c i s).1) (s : State) : Acts s (withInsertion cell act s).1 := by
  unfold Machine.withInsertion
  repeat' first
    | exact .refl s
    | exact h _ _ _
    | split

theorem Acts.endRun (cell : Byte) (s : State) : Acts s (actEndRun cell s).1 := by
  refine Acts.withInsertion cell _ (fun c i s => ?_) s
  repeat' first
    | exact .refl s
    | (rw [doneOrder_fst]; exact Moves.toActs ((Moves.refl s).abandon _ _))
    | exact Moves.toActs ((Moves.refl s).abandon _ _)
    | exact Moves.toActs ((Moves.refl s).modInsertion _ _ (by exact fun _ _ => id))
    | exact Moves.toActs (((Moves.refl s).setInsState _ _ _).request _ _)
    | split

theorem Acts.pauseCell (cell : Byte) (s : State) : Acts s (actPauseCell cell s).1 := by
  refine Acts.withInsertion cell _ (fun c i s => ?_) s
  rw [doneOrder_fst]
  exact Moves.toActs (Moves.pauseRequest (.refl s) c _)

theorem Acts.resumeCell (cell : Byte) (s : State) : Acts s (actResumeCell cell s).1 := by
  refine Acts.withInsertion cell _ (fun c i s => ?_) s
  rw [doneOrder_fst]
  exact Moves.toActs (Moves.pauseRequest (.refl s) c _)

/-! ## Chapter 5 -/

theorem Still.mapInsertions (s : State) (f : Insertion → Insertion) :
    Still s { s with insertions := s.insertions.map (Option.map f) } :=
  ⟨rfl, rfl, fun _ => rfl, fun _ => rfl, fun _ => rfl, fun _ => rfl, fun _ => rfl, fun c => by
    simp [State.insertion]⟩

/-- Every insertion record changed alike, by a change that leaves the unit counts agreeing. -/
theorem State.TalliesAt.mapInsertions {c : CellNo} (k : s.TalliesAt c) (f : Insertion → Insertion)
    (hf : ∀ i, i.Tallies → (f i).Tallies) : ({ s with insertions := s.insertions.map (Option.map f) } : State).TalliesAt c := by
  intro j hj
  simp only [State.insertion, Fin.getElem_fin, Vector.getElem_map, Option.map_eq_some_iff] at hj
  obtain ⟨i, hi, rfl⟩ := hj
  exact hf i (k i hi)

theorem Acts.rearmUsers (s : State) (n : LimitNo) (k : Nat) : Acts s (s.rearmUsers n k) :=
  .ofStill (.mapInsertions s fun i => if s.usesSet n i then i.rearm k else i) rfl rfl rfl rfl rfl (fun _ => id) id id id
    fun _ h => h.mapInsertions _ fun i hi => by split <;> exact hi

theorem Acts.putLimitSet (a : LimitSetArgs) (s : State) : Acts s (actPutLimitSet a s).1 := by
  unfold actPutLimitSet
  dsimp only
  repeat' first
    | exact .refl s
    | exact (Acts.setLimitSet s _ _).trans (.rearmUsers _ _ _)
    | split

theorem Acts.dropLimitSet (n : Byte) (s : State) : Acts s (actDropLimitSet n s).1 := by
  unfold actDropLimitSet
  repeat' first
    | exact .refl s
    | exact .setLimitSet s _ _
    | split

/-! ## Chapter 6 -/

theorem Acts.placeHold (lot : Half) (k : Byte) (reason : Half) (s : State) :
    Acts s (actPlaceHold lot k reason s).1 := by
  unfold actPlaceHold
  dsimp only
  repeat' first
    | exact .refl s
    | exact Moves.toActs ((Moves.refl s).holdRequest _ _)
    | split

theorem Acts.ackHold (hold : Half) (s : State) : Acts s (actAckHold hold s).1 := by
  unfold actAckHold
  repeat' first
    | exact .refl s
    | exact Moves.toActs ((Moves.refl s).setHolds _ (by simp))
    | split

theorem Acts.dispose (hold : Half) (d : Byte) (s : State) : Acts s (actDispose hold d s).1 := by
  unfold actDispose
  repeat' first
    | exact .refl s
    | exact Moves.toActs ((Moves.refl s).continueHold _)
    | exact Moves.toActs ((Moves.refl s).scrap _)
    | split

theorem Acts.disposeLot (lot : Half) (d : Byte) (s : State) : Acts s (actDisposeLot lot d s).1 := by
  unfold actDisposeLot
  repeat' first
    | exact .refl s
    | exact Moves.toActs ((Moves.refl s).scrap _)
    | exact Moves.toActs ((Moves.refl s).downgrade _)
    | split

/-! ## Chapter 7 -/

theorem Acts.decline (cell : Byte) (lot : Half) (s : State) : Acts s (actDecline cell lot s).1 := by
  unfold actDecline withReservation
  dsimp only
  repeat' first
    | exact .refl s
    | split
  all_goals
    refine Moves.toActs (MovesBut.deriveCell ((MovesBut.deleteReservation s _).trans
      (((Moves.refl _).modLot _ _ ?_).setLotState _ _)) _)
    exact .of (fun _ => rfl) fun _ => rfl

theorem Acts.confirm (cell : Byte) (lot : Half) (s : State) : Acts s (actConfirm cell lot s).1 := by
  unfold actConfirm withReservation
  dsimp only
  repeat' first
    | exact .refl s
    | exact Moves.toActs (MovesBut.startInsertion _ _ (MovesBut.deleteReservation s _))
    | split

theorem Acts.dispatchNow (s : State) : Acts s (actDispatchNow s).1 := ((Moves.refl s).triggerPass).toActs

/-! ## Chapter 8 -/

theorem Acts.openShip (kind : Byte) (customer : Word) (auto : Byte) (s : State) :
    Acts s (actOpenShip kind customer auto s).1 := by
  unfold actOpenShip
  repeat' first
    | exact .refl s
    | split
  all_goals
    refine Moves.toActs (Moves.setShip (.refl s) _ _ ?_)
    intro y hy
    obtain rfl := Option.some.inj hy
    exact Nat.zero_le _

theorem Acts.addToShip (ship : Byte) (lot : Half) (s : State) : Acts s (actAddToShip ship lot s).1 := by
  unfold actAddToShip
  dsimp only
  repeat' first
    | exact .refl s
    | split
  all_goals
    rename_i n l _ _ _ o ho _ _ _ _ _ _ _ room _
    refine Moves.toActs (Moves.examineAuto (Moves.modLot ?_ _ _ ?_) _)
    on_goal 2 => exact .of (fun _ => rfl) fun _ => rfl
    refine .ofStill (.ofEq rfl rfl rfl rfl) rfl rfl rfl rfl rfl rfl rfl rfl (.refl _) (fun _ => id) id ?_ id fun _ => id
    intro k m q hq
    rw [State.ship_modShip] at hq
    split at hq
    · obtain ⟨y, hy, rfl⟩ := Option.map_eq_some_iff.mp hq
      rw [ho] at hy
      obtain rfl := Option.some.inj hy
      simp only [List.length_append, List.length_cons, List.length_nil]
      exact Nat.lt_of_not_le room
    · exact k m q hq

theorem Acts.removeFromShip (ship : Byte) (lot : Half) (s : State) : Acts s (actRemoveFromShip ship lot s).1 := by
  unfold actRemoveFromShip
  dsimp only
  repeat' first
    | exact .refl s
    | exact Moves.toActs (((Moves.refl s).removeMember _ _ _).examineAuto _)
    | split

theorem Acts.cancelShip (ship : Byte) (s : State) : Acts s (actCancelShip ship s).1 := by
  unfold actCancelShip
  repeat' first
    | exact .refl s
    | exact Moves.toActs (((Moves.refl s).foldl _ (fun u l => (Moves.refl u).removeMember _ l _) _).setShip _ _ (by simp))
    | split

theorem Acts.releaseShip (ship mode : Byte) (s : State) : Acts s (actReleaseShip ship mode s).1 := by
  unfold actReleaseShip
  dsimp only
  repeat' first
    | exact .refl s
    | exact Moves.toActs ((Moves.refl s).releaseOrder _ _ _)
    | exact Moves.toActs (((Moves.refl s).foldl _ (fun u l => (Moves.refl u).removeMember _ l _) _).releaseOrder _ _ _)
    | split

/-! ## Chapters 9 and 10 -/

theorem Acts.setTimer (s : State) (x : FloorTimer) : Acts s { s with ft := x } :=
  .ofStill (.ofEq rfl rfl rfl rfl) rfl rfl rfl rfl rfl (fun _ => id) id id id fun _ => id

theorem Acts.rebasePacer (s : State) : Acts s s.rebasePacer := by
  unfold State.rebasePacer
  split
  · exact .setTimer s _
  · exact .refl s

theorem Acts.setClock (seconds : Word) (s : State) : Acts s (actSetClock seconds s).1 := by
  unfold actSetClock
  dsimp only
  split
  · exact .setTimer s _
  · exact (Acts.setTimer s _).trans (.rebasePacer _)

theorem Acts.setFloorMode (mode : Byte) (s : State) : Acts s (actSetFloorMode mode s).1 := by
  unfold actSetFloorMode
  dsimp only
  split
  · exact .refl s
  · exact (Acts.setTimer s _).trans ((Moves.refl _).changeMode _ _).toActs

/-- READ is refused, or writes an image into its buffer (R161). -/
theorem actRead_cases (kind : Byte) (index : Half) (buffer : Addr) (s : State) :
    (actRead kind index buffer s).1 = s ∨ ∃ bs, (actRead kind index buffer s).1 = s.hostWrite buffer.toNat bs := by
  unfold actRead
  split
  · exact .inl rfl
  · exact .inr ⟨_, rfl⟩

/-- What the owner of an order other than READ can do. -/
theorem Acts.actOf (o : Order) (h : ∀ kind index buffer, o ≠ .read kind index buffer) (s : State) :
    Acts s (actOf o s).1 := by
  cases o with
  | bad _ => exact .refl s
  | putRecipe a => exact .putRecipe a s
  | dropRecipe r => exact .dropRecipe r s
  | admitLot a => exact .admitLot a s
  | amendLot a b c => exact .amendLot a b c s
  | retireLot a => exact .retireLot a s
  | mapCell a b c => exact .mapCell a b c s
  | unmapCell a => exact .unmapCell a s
  | freeze a b => exact .freeze a b s
  | setCellService a b c => exact .setCellService a b c s
  | clearLinkCounts a => exact .clearLinkCounts a s
  | endRun a => exact .endRun a s
  | pauseCell a => exact .pauseCell a s
  | resumeCell a => exact .resumeCell a s
  | putLimitSet a => exact .putLimitSet a s
  | dropLimitSet a => exact .dropLimitSet a s
  | placeHold a b c => exact .placeHold a b c s
  | ackHold a => exact .ackHold a s
  | dispose a b => exact .dispose a b s
  | disposeLot a b => exact .disposeLot a b s
  | confirm a b => exact .confirm a b s
  | decline a b => exact .decline a b s
  | dispatchNow => exact .dispatchNow s
  | openShip a b c => exact .openShip a b c s
  | addToShip a b => exact .addToShip a b s
  | removeFromShip a b => exact .removeFromShip a b s
  | cancelShip a => exact .cancelShip a s
  | releaseShip a b => exact .releaseShip a b s
  | setClock a => exact .setClock a s
  | setFloorMode a => exact .setFloorMode a s
  | read a b c => exact absurd rfl (h a b c)

end Sys2Proof.Machine
end

