-- ==== Sys2Proof/Laws/Board.lean ====
section
/-! SUPPORT. What the taking of an order can do: the slot's bytes, the scanner, and the floor as the order's owner leaves
it. -/

namespace Sys2Proof.Machine

variable {s t : State} {slot : BoardSlot}

/-! ## The floor under the scanner's writes -/

theorem State.SameFloor.refl (s : State) : s.SameFloor s := ⟨rfl, rfl, rfl, rfl, rfl, rfl, rfl, rfl, rfl, rfl⟩

theorem State.SameFloor.hostWrite {u t : State} (h : u.SameFloor t) (a : Nat) (bs : List Byte) :
    u.SameFloor (t.hostWrite a bs) := ⟨h.1, h.2, h.3, h.4, h.5, h.6, h.7, h.8, h.9, h.10⟩

theorem State.SameFloor.useDetail {u t : State} (h : u.SameFloor t) (w : Answer) :
    u.SameFloor (t.useDetail w) := ⟨h.1, h.2, h.3, h.4, h.5, h.6, h.7, h.8, h.9, h.10⟩

theorem State.SameFloor.modScanner {u t : State} (h : u.SameFloor t) (f : Scanner → Scanner) :
    u.SameFloor (t.modScanner f) := ⟨h.1, h.2, h.3, h.4, h.5, h.6, h.7, h.8, h.9, h.10⟩

theorem State.SameFloor.takeSlot (s : State) (slot : BoardSlot) : s.SameFloor (s.takeSlot slot) := by
  unfold State.takeSlot
  exact (((State.SameFloor.modScanner (.refl s) _).hostWrite _ _).hostWrite _ _).hostWrite _ _

theorem State.takeSlot_host (s : State) (slot : BoardSlot) :
    (s.takeSlot slot).host =
      Memory.write (s.slotAddr slot + 12) (leBytes 4 (s.os.orderCount + 1).toNat)
        (Memory.write (s.slotAddr slot + 8) (leBytes 4 s.ft.clock.toNat) (Memory.write (s.slotAddr slot) [2] s.host)) := by
  unfold State.takeSlot State.hostWrite State.countOrder State.modScanner State.slotAddr
  rfl

theorem State.writeOutcome_host (u : State) (slot : BoardSlot) (w : Answer) :
    ((u.writeOutcome slot w).writeAnswered slot).host =
      Memory.write (u.slotAddr slot) [3]
      (Memory.write (u.slotAddr slot + 16) w.fields
        (Memory.write (u.slotAddr slot + 4) (leBytes 4 (u.detailOf w).toNat)
          (Memory.write (u.slotAddr slot + 3) (leBytes 1 w.fields.length)
            (Memory.write (u.slotAddr slot + 2) (leBytes 1 w.outcome.code) u.host)))) := by
  unfold State.writeAnswered State.writeOutcome State.hostWrite State.useDetail State.slotAddr State.detailOf
  rfl

/-! ## The floor read in an order's state (R160: after step 1) -/

@[simp] theorem State.takeSlot_lm (s : State) (slot : BoardSlot) : (s.takeSlot slot).lm = s.lm :=
  (State.SameFloor.takeSlot s slot).lm

@[simp] theorem State.takeSlot_cells (s : State) (slot : BoardSlot) : (s.takeSlot slot).cells = s.cells :=
  (State.SameFloor.takeSlot s slot).cells

@[simp] theorem State.takeSlot_ports (s : State) (slot : BoardSlot) : (s.takeSlot slot).ports = s.ports :=
  (State.SameFloor.takeSlot s slot).ports

@[simp] theorem State.takeSlot_insertions (s : State) (slot : BoardSlot) : (s.takeSlot slot).insertions = s.insertions :=
  (State.SameFloor.takeSlot s slot).insertions

@[simp] theorem State.takeSlot_limitSets (s : State) (slot : BoardSlot) : (s.takeSlot slot).limitSets = s.limitSets :=
  (State.SameFloor.takeSlot s slot).limitSets

@[simp] theorem State.takeSlot_hm (s : State) (slot : BoardSlot) : (s.takeSlot slot).hm = s.hm :=
  (State.SameFloor.takeSlot s slot).hm

@[simp] theorem State.takeSlot_de (s : State) (slot : BoardSlot) : (s.takeSlot slot).de = s.de :=
  (State.SameFloor.takeSlot s slot).de

@[simp] theorem State.takeSlot_ships (s : State) (slot : BoardSlot) : (s.takeSlot slot).ships = s.ships :=
  (State.SameFloor.takeSlot s slot).ships

@[simp] theorem State.takeSlot_ft (s : State) (slot : BoardSlot) : (s.takeSlot slot).ft = s.ft :=
  (State.SameFloor.takeSlot s slot).ft

@[simp] theorem State.takeSlot_ru (s : State) (slot : BoardSlot) : (s.takeSlot slot).ru = s.ru :=
  (State.SameFloor.takeSlot s slot).ru

@[simp] theorem State.takeSlot_lot (s : State) (slot : BoardSlot) (i : LotSlot) :
    (s.takeSlot slot).lot i = s.lot i := by simp [State.lot]

@[simp] theorem State.takeSlot_recipeOpt (s : State) (slot : BoardSlot) (i : RecipeNo) :
    (s.takeSlot slot).recipe? i = s.recipe? i := by simp [State.recipe?]

@[simp] theorem State.takeSlot_recipe (s : State) (slot : BoardSlot) (i : RecipeNo) :
    (s.takeSlot slot).recipe i = s.recipe i := by simp [State.recipe, State.recipe?]

@[simp] theorem State.takeSlot_cell (s : State) (slot : BoardSlot) (i : CellNo) :
    (s.takeSlot slot).cell i = s.cell i := by simp [State.cell]

@[simp] theorem State.takeSlot_port (s : State) (slot : BoardSlot) (i : PortNo) :
    (s.takeSlot slot).port i = s.port i := by simp [State.port]

@[simp] theorem State.takeSlot_insertion (s : State) (slot : BoardSlot) (i : CellNo) :
    (s.takeSlot slot).insertion i = s.insertion i := by simp [State.insertion]

@[simp] theorem State.takeSlot_limitSetOpt (s : State) (slot : BoardSlot) (i : LimitNo) :
    (s.takeSlot slot).limitSet? i = s.limitSet? i := by simp [State.limitSet?]

@[simp] theorem State.takeSlot_limitSet (s : State) (slot : BoardSlot) (i : LimitNo) :
    (s.takeSlot slot).limitSet i = s.limitSet i := by simp [State.limitSet, State.limitSet?]

@[simp] theorem State.takeSlot_ship (s : State) (slot : BoardSlot) (i : ShipNo) :
    (s.takeSlot slot).ship i = s.ship i := by simp [State.ship]

@[simp] theorem State.takeSlot_minute (s : State) (slot : BoardSlot) : (s.takeSlot slot).minute = s.minute := by
  simp [State.minute]

@[simp] theorem State.takeSlot_reservationOf (s : State) (slot : BoardSlot) (c : CellNo) :
    (s.takeSlot slot).reservationOf c = s.reservationOf c := by simp [State.reservationOf]

@[simp] theorem State.takeSlot_pending (s : State) (slot : BoardSlot) : (s.takeSlot slot).pending = s.pending := by
  unfold State.takeSlot State.hostWrite State.countOrder State.modScanner
  rfl

/-! ## Floors that agree stay so under the same update -/

variable {u : State}

theorem State.SameFloor.eq (h : u.SameFloor t) :
    t = { u with os := t.os, host := t.host, freeIx := t.freeIx, pending := t.pending } := by
  obtain ⟨h1, h2, h3, h4, h5, h6, h7, h8, h9, h10⟩ := h
  cases t; cases u
  simp_all

theorem State.SameFloor.setRecipe (h : u.SameFloor t) (r : RecipeNo) (x : Option Recipe) : (u.setRecipe r x).SameFloor (t.setRecipe r x) := by
  rw [h.eq]
  exact ⟨rfl, rfl, rfl, rfl, rfl, rfl, rfl, rfl, rfl, rfl⟩

theorem State.SameFloor.setLot (h : u.SameFloor t) (l : LotSlot) (x : Option Lot) : (u.setLot l x).SameFloor (t.setLot l x) := by
  rw [h.eq]
  exact ⟨rfl, rfl, rfl, rfl, rfl, rfl, rfl, rfl, rfl, rfl⟩

theorem State.SameFloor.modLot (h : u.SameFloor t) (l : LotSlot) (f : Lot → Lot) : (u.modLot l f).SameFloor (t.modLot l f) := by
  rw [h.eq]
  exact ⟨rfl, rfl, rfl, rfl, rfl, rfl, rfl, rfl, rfl, rfl⟩

theorem State.SameFloor.modCell (h : u.SameFloor t) (c : CellNo) (f : Cell → Cell) : (u.modCell c f).SameFloor (t.modCell c f) := by
  rw [h.eq]
  exact ⟨rfl, rfl, rfl, rfl, rfl, rfl, rfl, rfl, rfl, rfl⟩

theorem State.SameFloor.modPort (h : u.SameFloor t) (p : PortNo) (f : Port → Port) : (u.modPort p f).SameFloor (t.modPort p f) := by
  rw [h.eq]
  exact ⟨rfl, rfl, rfl, rfl, rfl, rfl, rfl, rfl, rfl, rfl⟩

theorem State.SameFloor.setInsertion (h : u.SameFloor t) (c : CellNo) (x : Option Insertion) : (u.setInsertion c x).SameFloor (t.setInsertion c x) := by
  rw [h.eq]
  exact ⟨rfl, rfl, rfl, rfl, rfl, rfl, rfl, rfl, rfl, rfl⟩

theorem State.SameFloor.modInsertion (h : u.SameFloor t) (c : CellNo) (f : Insertion → Insertion) : (u.modInsertion c f).SameFloor (t.modInsertion c f) := by
  rw [h.eq]
  exact ⟨rfl, rfl, rfl, rfl, rfl, rfl, rfl, rfl, rfl, rfl⟩

theorem State.SameFloor.setLimitSet (h : u.SameFloor t) (n : LimitNo) (x : Option LimitSet) : (u.setLimitSet n x).SameFloor (t.setLimitSet n x) := by
  rw [h.eq]
  exact ⟨rfl, rfl, rfl, rfl, rfl, rfl, rfl, rfl, rfl, rfl⟩

theorem State.SameFloor.setShip (h : u.SameFloor t) (n : ShipNo) (x : Option Ship) : (u.setShip n x).SameFloor (t.setShip n x) := by
  rw [h.eq]
  exact ⟨rfl, rfl, rfl, rfl, rfl, rfl, rfl, rfl, rfl, rfl⟩

theorem State.SameFloor.modShip (h : u.SameFloor t) (n : ShipNo) (f : Ship → Ship) : (u.modShip n f).SameFloor (t.modShip n f) := by
  rw [h.eq]
  exact ⟨rfl, rfl, rfl, rfl, rfl, rfl, rfl, rfl, rfl, rfl⟩

theorem State.SameFloor.report (h : u.SameFloor t) (e : Report) : (u.report e).SameFloor (t.report e) := by
  rw [h.eq]
  exact ⟨rfl, rfl, rfl, rfl, rfl, rfl, rfl, rfl, rfl, rfl⟩

theorem State.SameFloor.triggerPass (h : u.SameFloor t) : (u.triggerPass).SameFloor (t.triggerPass) := by
  rw [h.eq]
  exact ⟨rfl, rfl, rfl, rfl, rfl, rfl, rfl, rfl, rfl, rfl⟩

theorem State.SameFloor.joinQueue (h : u.SameFloor t) (l : LotSlot) : (u.joinQueue l).SameFloor (t.joinQueue l) := by
  rw [h.eq]
  exact ⟨rfl, rfl, rfl, rfl, rfl, rfl, rfl, rfl, rfl, rfl⟩

theorem State.SameFloor.leaveQueue (h : u.SameFloor t) (l : LotSlot) : (u.leaveQueue l).SameFloor (t.leaveQueue l) := by
  rw [h.eq]
  exact ⟨rfl, rfl, rfl, rfl, rfl, rfl, rfl, rfl, rfl, rfl⟩

theorem State.SameFloor.requeue (h : u.SameFloor t) (l : LotSlot) : (u.requeue l).SameFloor (t.requeue l) := by
  rw [h.eq]
  exact ⟨rfl, rfl, rfl, rfl, rfl, rfl, rfl, rfl, rfl, rfl⟩

theorem State.SameFloor.deleteReservation (h : u.SameFloor t) (c : CellNo) : (u.deleteReservation c).SameFloor (t.deleteReservation c) := by
  rw [h.eq]
  exact ⟨rfl, rfl, rfl, rfl, rfl, rfl, rfl, rfl, rfl, rfl⟩

theorem State.SameFloor.setLotState (h : u.SameFloor t) (l : LotSlot) (new : LotState) :
    (u.setLotState l new).SameFloor (t.setLotState l new) := by
  have e : t.lot l = u.lot l := by simp [State.lot, h.lm]
  unfold State.setLotState
  rw [e]
  split
  · exact h
  · split
    · exact h
    · dsimp only
      split
      · exact ((h.requeue l).triggerPass).report _
      · split
        · exact ((h.modLot l _).leaveQueue l).report _
        · exact (h.modLot l _).report _

/-! ## What the scanner writes -/

theorem State.takeSlot_os (s : State) (slot : BoardSlot) :
    (s.takeSlot slot).os =
      { s.os with orderCount := s.os.orderCount + 1, scanAt := s.os.nextSlot (slot.val + 1) } := rfl

theorem State.takeOrder_taken (h : s.Takes slot) (act : State → Acted) :
    s.takeOrder slot act = (s.actInSlot slot act).writeAnswered slot := by
  simp [State.takeOrder, h.1, h.2]

theorem State.takeOrder_unreached (h : s.reaches slot = false) (act : State → Acted) : s.takeOrder slot act = s := by
  simp [State.takeOrder, h]

theorem State.takeOrder_backpressure (h : s.reaches slot = true) (k : s.backpressure = true) (act : State → Acted) :
    s.takeOrder slot act = s.endScan := by
  simp [State.takeOrder, h, k]

/-! ## The bytes of an answered slot -/

/-- The bytes that an owner which leaves host memory and the scanner as they stand finds in the slot when it is
answered. -/
theorem State.slotAnswered_of (act : State → Acted) (u : State) (w : Answer) (hu : act (s.takeSlot slot) = (u, w))
    (hh : u.host = (s.takeSlot slot).host) (ho : u.os = (s.takeSlot slot).os) (hl : w.fields.length ≤ 48) :
    let t := (s.actInSlot slot act).writeAnswered slot
    s.SlotAnswered slot w.outcome w.detail w.fields t ∧ s.OnlySlot slot t := by
  intro t
  have e : t = (u.writeOutcome slot w).writeAnswered slot := by
    show (State.writeOutcome slot _ _).writeAnswered slot = _
    rw [hu]
  clear_value t
  have ha : u.slotAddr slot = s.slotAddr slot := by
    unfold State.slotAddr
    rw [ho]
    rfl
  have hb : ∀ x, t.hostByte x = Memory.read? x (Memory.write (s.slotAddr slot) [3]
      (Memory.write (s.slotAddr slot + 16) w.fields
        (Memory.write (s.slotAddr slot + 4) (leBytes 4 (u.detailOf w).toNat)
          (Memory.write (s.slotAddr slot + 3) (leBytes 1 w.fields.length)
            (Memory.write (s.slotAddr slot + 2) (leBytes 1 w.outcome.code)
              (Memory.write (s.slotAddr slot + 12) (leBytes 4 (s.os.orderCount + 1).toNat)
                (Memory.write (s.slotAddr slot + 8) (leBytes 4 s.ft.clock.toNat)
                  (Memory.write (s.slotAddr slot) [2] s.host)))))))) := by
    intro x
    rw [e, State.hostByte, State.writeOutcome_host, ha, hh, State.takeSlot_host]
  generalize hA : s.slotAddr slot = a at hb
  have l1 : ∀ n, (leBytes 1 n).length = 1 := fun n => leBytes_length 1 n
  have l4 : ∀ n, (leBytes 4 n).length = 4 := fun n => leBytes_length 4 n
  refine ⟨?_, ?_⟩
  · unfold State.SlotAnswered
    rw [hA]
    refine ⟨?_, ?_, ?_, ?_, ?_, ?_, ?_, ?_, ?_⟩
    · rw [hb]
      exact Memory.read?_write [3] a 0 _ (by simp)
    · rw [hb]
      iterate 8 rw [Memory.read?_write_outside _ _ _ _ (by first | omega | simp)]
      rfl
    · rw [hb]
      iterate 4 rw [Memory.read?_write_outside _ _ _ _ (by first | omega | simp)]
      exact Memory.read?_write [_] (a + 2) 0 _ (by simp)
    · rw [hb]
      iterate 3 rw [Memory.read?_write_outside _ _ _ _ (by first | omega | simp)]
      exact Memory.read?_write [_] (a + 3) 0 _ (by simp)
    · intro d hd k h
      have hk : k < 4 := by rw [l4] at h; exact h
      rw [hb, Memory.read?_write_outside _ _ _ _ (by simp; omega), Memory.read?_write_outside _ _ _ _ (by omega)]
      have e4 : leBytes 4 (u.detailOf w).toNat = leBytes 4 d := by
        have : u.detailOf w = BitVec.ofNat 32 d := by simp [State.detailOf, hd]
        rw [this]
        simp [leBytes]
        refine ⟨?_, ?_, ?_, ?_⟩ <;> apply BitVec.eq_of_toNat_eq <;> simp <;> omega
      rw [e4]
      exact Memory.read?_write _ (a + 4) k _ h
    · intro k h
      have hk : k < 4 := by rw [l4] at h; exact h
      rw [hb, Memory.read?_write_outside _ _ _ _ (by simp; omega), Memory.read?_write_outside _ _ _ _ (by omega),
        Memory.read?_write_outside _ _ _ _ (by rw [l4]; omega), Memory.read?_write_outside _ _ _ _ (by rw [l1]; omega),
        Memory.read?_write_outside _ _ _ _ (by rw [l1]; omega), Memory.read?_write_outside _ _ _ _ (by omega)]
      exact Memory.read?_write _ (a + 8) k _ h
    · intro k h
      have hk : k < 4 := by rw [l4] at h; exact h
      rw [hb, Memory.read?_write_outside _ _ _ _ (by simp; omega), Memory.read?_write_outside _ _ _ _ (by omega),
        Memory.read?_write_outside _ _ _ _ (by rw [l4]; omega), Memory.read?_write_outside _ _ _ _ (by rw [l1]; omega),
        Memory.read?_write_outside _ _ _ _ (by rw [l1]; omega)]
      exact Memory.read?_write _ (a + 12) k _ h
    · intro k h
      rw [hb, Memory.read?_write_outside _ _ _ _ (by simp; omega)]
      exact Memory.read?_write _ (a + 16) k _ h
    · intro k h1 h2
      rw [hb, Memory.read?_write_outside _ _ _ _ (by simp; omega), Memory.read?_write_outside _ _ _ _ (by omega),
        Memory.read?_write_outside _ _ _ _ (by rw [l4]; omega), Memory.read?_write_outside _ _ _ _ (by rw [l1]; omega),
        Memory.read?_write_outside _ _ _ _ (by rw [l1]; omega), Memory.read?_write_outside _ _ _ _ (by rw [l4]; omega),
        Memory.read?_write_outside _ _ _ _ (by rw [l4]; omega), Memory.read?_write_outside _ _ _ _ (by simp; omega)]
      rfl
  · intro x hx
    rw [hA] at hx
    rw [hb, Memory.read?_write_outside _ _ _ _ (by simp; omega), Memory.read?_write_outside _ _ _ _ (by omega),
      Memory.read?_write_outside _ _ _ _ (by rw [l4]; omega), Memory.read?_write_outside _ _ _ _ (by rw [l1]; omega),
      Memory.read?_write_outside _ _ _ _ (by rw [l1]; omega), Memory.read?_write_outside _ _ _ _ (by rw [l4]; omega),
      Memory.read?_write_outside _ _ _ _ (by rw [l4]; omega), Memory.read?_write_outside _ _ _ _ (by simp; omega)]
    rfl

theorem State.writeOutcome_os (u : State) (slot : BoardSlot) (w : Answer) :
    ((u.writeOutcome slot w).writeAnswered slot).os = u.os := by
  unfold State.writeAnswered State.writeOutcome State.hostWrite State.useDetail
  rfl

theorem State.writeOutcome_pending (u : State) (slot : BoardSlot) (w : Answer) :
    ((u.writeOutcome slot w).writeAnswered slot).pending = u.pending := by
  unfold State.writeAnswered State.writeOutcome State.hostWrite State.useDetail
  rfl

/-- An order taken and answered: the statement of a command that takes an order by `act`, from what `act` does. `u` is what
the floor becomes, written over `s` itself; `u'` is what `act` leaves. -/
theorem answers_of {i : Instr} {act : State → Acted} {u u' : State} {w : Answer}
    (hi : exec i s = .next (s.takeOrder slot act)) (ht : s.Takes slot) (hu : act (s.takeSlot slot) = (u', w))
    (hf : u.SameFloor u') (hh : u'.host = (s.takeSlot slot).host) (ho : u'.os = (s.takeSlot slot).os)
    (hp : u'.pending = s.pending) (hl : w.fields.length ≤ 48) :
    Answers i slot s w.outcome w.detail w.fields u := by
  rw [State.takeOrder_taken ht] at hi
  have b := State.slotAnswered_of (s := s) (slot := slot) act u' w hu hh ho hl
  have e : (s.actInSlot slot act).writeAnswered slot = (u'.writeOutcome slot w).writeAnswered slot := by
    show (State.writeOutcome slot _ _).writeAnswered slot = _
    rw [hu]
  refine ⟨_, hi, b.1, ⟨?_, ?_⟩, b.2, ?_⟩
  · rw [e, State.writeOutcome_os, ho, State.takeSlot_os]
  · rw [e, State.writeOutcome_pending, hp]
  · rw [e]
    exact ((((hf.hostWrite _ _).hostWrite _ _).hostWrite _ _).hostWrite _ _).useDetail _ |>.hostWrite _ _

end Sys2Proof.Machine
end

