-- ==== Sys2Proof/Laws/Bytes.lean ====
section
/-! SUPPORT. Little-endian bytes, the fields of the setup block, the CRC step and the bytes of report records, each said
without its recursion. -/

namespace Sys2Proof.Machine

theorem leBytes_eq_map (n v : Nat) : leBytes n v = (List.range n).map fun j => BitVec.ofNat 8 (v / 256 ^ j) := by
  induction n generalizing v with
  | zero => rfl
  | succ n ih => simp [leBytes, ih, List.range_succ_eq_map, Nat.div_div_eq_div_mul, Nat.pow_succ, Nat.mul_comm]

theorem padTo_of_length_le (k : Nat) (bs : List Byte) (h : bs.length ≤ k) :
    padTo k bs = bs ++ List.replicate (k - bs.length) 0 := by
  rw [padTo, List.take_append, List.take_of_length_le h, List.take_replicate]
  congr 2
  omega

/-! ## The setup block (R156) -/

theorem setupField_zero (b : SetupBytes) (k : Nat) : setupField b k 0 = 0 := by simp [setupField, ofLeBytes]

theorem setupField_succ (b : SetupBytes) (k n : Nat) (h : k < 64) :
    setupField b k (n + 1) = b[k].toNat + 256 * setupField b (k + 1) n := by
  have : (b.toList.drop k).take (n + 1) = b[k] :: (b.toList.drop (k + 1)).take n := by
    rw [List.drop_eq_getElem_cons (by simpa using h)]
    simp
  simp [setupField, this, ofLeBytes]

theorem setupField_one (b : SetupBytes) (k : Nat) (h : k < 64) : setupField b k 1 = b[k].toNat := by
  rw [setupField_succ b k 0 h, setupField_zero, Nat.mul_zero, Nat.add_zero]

theorem setupField_two (b : SetupBytes) (k : Nat) (h : k + 1 < 64) :
    setupField b k 2 = b[k].toNat + 256 * b[k + 1].toNat := by
  rw [setupField_succ b k 1 (by omega), setupField_one b (k + 1) h]

theorem ofLeBytes_eight {a b c d e f g h : Nat} (_ : a < 2 ^ 8) (_ : b < 2 ^ 8) (_ : c < 2 ^ 8) (_ : d < 2 ^ 8)
    (_ : e < 2 ^ 8) (_ : f < 2 ^ 8) (_ : g < 2 ^ 8) (_ : h < 2 ^ 8) :
    (a + 256 * (b + 256 * (c + 256 * (d + 256 * (e + 256 * (f + 256 * (g + 256 * h))))))) % 2 ^ 64 =
      a + 256 * b + 2 ^ 16 * (c + 256 * d) + 2 ^ 32 * (e + 256 * f) + 2 ^ 48 * (g + 256 * h) := by
  omega

theorem testBit_63 : ∀ j : Fin 64, (63#64).getLsbD j.val = decide (j.val < 6) := by decide

/-- Bits 0..5 taken as 0 is the multiple of 64 below (R156, Table 10-3). -/
theorem and_not_63_toNat (x : BitVec 64) : (x &&& ~~~63#64).toNat = x.toNat / 64 * 64 := by
  have : x &&& ~~~63#64 = (x >>> 6) <<< 6 := by
    apply BitVec.eq_of_getLsbD_eq
    intro i hi
    have low := testBit_63 ⟨i, hi⟩
    simp only at low
    simp only [BitVec.getLsbD_and, BitVec.getLsbD_not, low, BitVec.getLsbD_shiftLeft, BitVec.getLsbD_ushiftRight, hi]
    by_cases h6 : i < 6
    · simp [h6]
    · simp [h6, show 6 + (i - 6) = i by omega]
  rw [this]
  simp only [BitVec.toNat_shiftLeft, BitVec.toNat_ushiftRight, Nat.shiftLeft_eq, Nat.shiftRight_eq_div_pow]
  have := x.isLt
  omega

theorem setupAddr_toNat (b : SetupBytes) (k : Nat) (h : k + 7 < 64) : (setupAddr b k).toNat =
    (b[k].toNat + 256 * b[k + 1].toNat + 2 ^ 16 * (b[k + 2].toNat + 256 * b[k + 3].toNat) +
      2 ^ 32 * (b[k + 4].toNat + 256 * b[k + 5].toNat) + 2 ^ 48 * (b[k + 6].toNat + 256 * b[k + 7].toNat)) / 64 * 64 := by
  rw [setupAddr, and_not_63_toNat, BitVec.toNat_ofNat, setupField_succ b k 7 (by omega),
    setupField_succ b (k + 1) 6 (by omega), setupField_succ b (k + 1 + 1) 5 (by omega),
    setupField_succ b (k + 1 + 1 + 1) 4 (by omega), setupField_succ b (k + 1 + 1 + 1 + 1) 3 (by omega),
    setupField_succ b (k + 1 + 1 + 1 + 1 + 1) 2 (by omega), setupField_succ b (k + 1 + 1 + 1 + 1 + 1 + 1) 1 (by omega),
    setupField_one b (k + 1 + 1 + 1 + 1 + 1 + 1 + 1) (by omega)]
  exact congrArg (· / 64 * 64) (ofLeBytes_eight (BitVec.isLt _) (BitVec.isLt _) (BitVec.isLt _) (BitVec.isLt _)
    (BitVec.isLt _) (BitVec.isLt _) (BitVec.isLt _) (BitVec.isLt _))

/-! ## The CRC (R46) -/

theorem crcBit_eq (r : Half) (bit : Bool) :
    crcBit r bit = (r <<< 1) ^^^ (if r.getLsbD 15 != bit then 0x1021#16 else 0#16) := by
  unfold crcBit
  simp only [BitVec.msb_eq_getLsbD_last]
  split <;> simp

/-! ## Report records (R163, R164) -/

theorem checkpointFields_eq_sum (es : List (EntryOutcome × Nat)) (n : Nat) :
    ((es.zipIdx n).map fun (e, j) => 2 ^ (22 * j) * (e.2 % 2 ^ 20 + 2 ^ 20 * e.1.code)).sum =
      2 ^ (22 * n) * checkpointFields es := by
  induction es generalizing n with
  | nil => rfl
  | cons e es ih =>
    rw [List.zipIdx_cons, List.map_cons, List.sum_cons, ih, checkpointFields]
    simp only [Nat.mul_add, Nat.pow_add, Nat.mul_one]
    ring

theorem gradeBytes_length (x : ReleaseContent) : (gradeBytes x).length ≤ 32 := by
  have two : ∀ bs : List Bin, (bs.flatMap fun b => leBytes 2 x.bins[b]).length = 2 * bs.length := by
    intro bs
    induction bs with
    | nil => rfl
    | cons b bs ih =>
      rw [List.flatMap_cons, List.length_append, leBytes_length, ih, List.length_cons]
      omega
  have h : ∀ f : Bin → Bool, ((List.finRange 16).filter f).length ≤ 16 := fun f =>
    (List.length_filter_le f _).trans (by simp)
  rw [gradeBytes, two]
  exact Nat.mul_le_mul_left 2 (h _)

theorem Record.bytes_length (r : Record) : r.bytes.length = 32 * r.report.places := by
  have : r.bytes.length = 32 + r.report.morePlaces.length := by
    simp only [Record.bytes, List.length_append, leBytes_length, padTo_length, flagByte, List.length_cons, List.length_nil]
  rw [this]
  cases r.report <;> simp [Report.morePlaces, Report.places]

end Sys2Proof.Machine
end

