-- ==== Sys2Proof/Laws/Invariants.lean ====
section
/-! SUPPORT. The invariants of Safety.lean kept by the operations: by everything that the blocks do (`Acts`, `Moves`), and
by the operations of the scanner, the Report Unit, the resets and the time base. -/

namespace Sys2Proof.Machine

variable {s t : State} {slot : BoardSlot}

/-! ## The report FIFO's occupancy (R162) -/

@[simp] theorem ReportUnit.setCause_fifo (c : Cause) (u : ReportUnit) : (u.setCause c).fifo = u.fifo := by
  unfold ReportUnit.setCause; split <;> rfl

@[simp] theorem ReportUnit.setCause_occupancy (c : Cause) (u : ReportUnit) : (u.setCause c).occupancy = u.occupancy := by
  simp [ReportUnit.occupancy]

@[simp] theorem ReportUnit.crossMarks_fifo (a b : Nat) (u : ReportUnit) : (u.crossMarks a b).fifo = u.fifo := by
  unfold ReportUnit.crossMarks; dsimp only; split <;> split <;> simp

theorem ReportUnit.append_occupancy (w : Word) (e : Report) (u : ReportUnit) (h : u.occupancy ≤ Config.fifoPlaces) :
    (u.append w e).occupancy ≤ Config.fifoPlaces := by
  unfold ReportUnit.append
  split
  · simpa using h
  · next k => simp [ReportUnit.occupancy] at k ⊢; omega

theorem ReportUnit.Grows.fits {u v : ReportUnit} (h : u.Grows v) (k : u.occupancy ≤ Config.fifoPlaces) :
    v.occupancy ≤ Config.fifoPlaces := by
  obtain ⟨es, rfl⟩ := h
  induction es generalizing u with
  | nil => exact k
  | cons e es ih => exact ih (ReportUnit.append_occupancy _ _ _ k)

/-! ## The invariants together -/

theorem State.SettledOutside.none (h : s.CellStatesDerived) : s.SettledOutside fun _ => False := fun c => .inr (h c)

theorem Acts.sound (h : Acts s t) (hm : t.MemoryCanonical) (k : s.Sound) : t.Sound where
  memory := hm
  fifo := h.records.fits k.fifo
  source := by
    have := k.source
    unfold State.FaultSourceAgrees at this ⊢
    rwa [h.os]
  counts := h.counts k.counts
  holds := h.holds k.holds
  ships := h.ships k.ships
  cells := fun c => (h.settled _ (.none k.cells) c).resolve_left id
  queue := h.queue k.queue
  units := fun c => h.units c (k.units c)

theorem Moves.sound (h : Moves s t) (k : s.Sound) : t.Sound :=
  h.toActs.sound (by have := k.memory; unfold State.MemoryCanonical at this ⊢; rwa [h.host]) k

/-- A change of the scanner that keeps the part state and the fault source. -/
theorem State.Sound.modScanner (k : s.Sound) (f : Scanner → Scanner) (hp : (f s.os).part = s.os.part)
    (hf : (f s.os).faultSource = s.os.faultSource) : (s.modScanner f).Sound where
  memory := k.memory
  fifo := k.fifo
  source := by
    have := k.source
    unfold State.FaultSourceAgrees at this ⊢
    simpa [State.modScanner, hp, hf] using this
  counts := k.counts
  holds := k.holds
  ships := k.ships
  cells := k.cells
  queue := k.queue
  units := k.units

/-- A change of the Report Unit that does not raise the occupancy. -/
theorem State.Sound.modReports (k : s.Sound) (f : ReportUnit → ReportUnit)
    (h : (f s.ru).occupancy ≤ s.ru.occupancy) : (s.modReports f).Sound where
  memory := k.memory
  fifo := le_trans h k.fifo
  source := k.source
  counts := k.counts
  holds := k.holds
  ships := k.ships
  cells := k.cells
  queue := k.queue
  units := k.units

theorem State.Sound.hostWrite (k : s.Sound) (a : Nat) (bs : List Byte) : (s.hostWrite a bs).Sound where
  memory := k.memory.hostWrite a bs
  fifo := k.fifo
  source := k.source
  counts := k.counts
  holds := k.holds
  ships := k.ships
  cells := k.cells
  queue := k.queue
  units := k.units

theorem State.Sound.useDetail (k : s.Sound) (w : Answer) : (s.useDetail w).Sound where
  memory := k.memory
  fifo := k.fifo
  source := k.source
  counts := k.counts
  holds := k.holds
  ships := k.ships
  cells := k.cells
  queue := k.queue
  units := k.units

theorem State.Sound.setPending (k : s.Sound) (q : List Instr) : ({ s with pending := q } : State).Sound where
  memory := k.memory
  fifo := k.fifo
  source := k.source
  counts := k.counts
  holds := k.holds
  ships := k.ships
  cells := k.cells
  queue := k.queue
  units := k.units

theorem State.Sound.setFreeIx (k : s.Sound) (n : Nat) : ({ s with freeIx := n } : State).Sound where
  memory := k.memory
  fifo := k.fifo
  source := k.source
  counts := k.counts
  holds := k.holds
  ships := k.ships
  cells := k.cells
  queue := k.queue
  units := k.units

theorem State.Sound.setTimer (k : s.Sound) (x : FloorTimer) : ({ s with ft := x } : State).Sound where
  memory := k.memory
  fifo := k.fifo
  source := k.source
  counts := k.counts
  holds := k.holds
  ships := k.ships
  cells := k.cells
  queue := k.queue
  units := k.units

theorem State.Sound.enterFaulted (k : s.Sound) (src : FaultSource) (h : src ≠ .none) : (s.enterFaulted src).Sound where
  memory := k.memory
  fifo := by
    have := k.fifo
    unfold State.FifoFits at this ⊢
    simpa [State.enterFaulted] using this
  source := by unfold State.FaultSourceAgrees; simp [State.enterFaulted, h]
  counts := k.counts
  holds := k.holds
  ships := k.ships
  cells := k.cells
  queue := k.queue
  units := k.units

/-! ## Orders in their slots -/

theorem State.Sound.takeSlot (k : s.Sound) (slot : BoardSlot) : (s.takeSlot slot).Sound :=
  (((State.Sound.modScanner k _ rfl rfl).hostWrite _ _).hostWrite _ _).hostWrite _ _

theorem State.Sound.writeOutcome (k : s.Sound) (slot : BoardSlot) (w : Answer) : (s.writeOutcome slot w).Sound :=
  ((((k.hostWrite _ _).hostWrite _ _).hostWrite _ _).hostWrite _ _).useDetail _

theorem State.Sound.endScan (k : s.Sound) : s.endScan.Sound := k.modScanner _ rfl rfl

/-- An order whose owner acts by `act`, on memory that stays canonical. -/
theorem State.Sound.takeOrder (k : s.Sound) (slot : BoardSlot) (act : State → Acted)
    (h : ∀ u : State, u.Sound → (act u).1.Sound) : (s.takeOrder slot act).Sound := by
  unfold State.takeOrder
  split
  · exact k
  · split
    · exact k.endScan
    · exact ((h _ (k.takeSlot slot)).writeOutcome slot _).hostWrite _ _

theorem State.Sound.whenTaken (k : s.Sound) (slot : BoardSlot) (f : State → State) (h : (f s).Sound) :
    (s.whenTaken slot f).Sound := by
  unfold State.whenTaken
  split
  · exact k
  · split
    · exact k.endScan
    · exact h

theorem State.Sound.actOf (k : s.Sound) (o : Order) : (actOf o s).1.Sound := by
  by_cases h : ∀ kind index buffer, o ≠ .read kind index buffer
  · have a := Acts.actOf o h s
    exact a.sound (by have := k.memory; unfold State.MemoryCanonical at this ⊢; rwa [a.host]) k
  · push Not at h
    obtain ⟨kind, index, buffer, rfl⟩ := h
    rcases actRead_cases kind index buffer s with e | ⟨bs, e⟩
    · show (actRead kind index buffer s).1.Sound
      rw [e]
      exact k
    · show (actRead kind index buffer s).1.Sound
      rw [e]
      exact k.hostWrite _ _

/-- The command of an order takes the order by what its owner does. -/
theorem exec_orderCommand (slot : BoardSlot) (o : Order) (s : State) :
    exec (orderCommand slot o) s = .next (s.takeOrder slot (Machine.actOf o)) := by
  cases o <;> rfl

theorem State.Sound.order (k : s.Sound) (slot : BoardSlot) (o : Order) :
    (s.takeOrder slot (Machine.actOf o)).Sound := k.takeOrder slot _ fun _ h => h.actOf o

/-! ## Frames (chapter 3) -/

theorem Port.takePlace_window (x : Port) : x.takePlace.winStart = x.winStart ∧ x.takePlace.winStop = x.winStop := by
  unfold Port.takePlace; split <;> exact ⟨rfl, rfl⟩

theorem Port.takePlace_saturated (x : Port) (h : x.Saturated) : x.takePlace.Saturated := by
  unfold Port.takePlace; split <;> exact h

theorem Port.countStray_saturated (x : Port) (h : x.Saturated) : x.countStray.Saturated := ⟨h.1, h.2.1, satInc_le _⟩

theorem Port.takeStray_window (b : Bool) (x : Port) :
    (x.takeStray b).winStart = x.winStart ∧ (x.takeStray b).winStop = x.winStop := by
  unfold Port.takeStray
  split
  · exact ⟨rfl, rfl⟩
  · exact Port.takePlace_window x.countStray

theorem Port.takeStray_saturated (b : Bool) (x : Port) (h : x.Saturated) : (x.takeStray b).Saturated := by
  unfold Port.takeStray
  split
  · exact x.countStray_saturated h
  · exact Port.takePlace_saturated _ (x.countStray_saturated h)

theorem Quiet.silenceZero : Quiet fun x => { x with silence := 0 } := Quiet.silence 0

theorem Acts.receive (p : PortNo) (address : Byte) (act : CellNo → State → State)
    (h : ∀ c u, Moves u (act c u)) (s : State) : Acts s (s.receive p address act) := by
  unfold State.receive
  split
  · exact .refl s
  · split
    · exact (Acts.modPort s p _ Port.takePlace_window Port.takePlace_saturated).trans
        (((Moves.refl _).modCell _ .silenceZero).trans (h _ _)).toActs
    · exact .modPort s p _ (Port.takeStray_window false) (Port.takeStray_saturated false)

theorem Moves.deliver (act : CellNo → State → State) (h : ∀ c u, Moves u (act c u)) (c : CellNo) (u : State) :
    Moves u (State.deliver act c u) := by
  unfold State.deliver
  split
  · exact h c u
  · exact .refl u

theorem Quiet.lastApplied (k : Option CommandKind) (n : Half) :
    Quiet fun x => { x with slot := { x.slot with lastKind := k, lastTag := n } } :=
  Quiet.slot fun y => { y with lastKind := k, lastTag := n }

theorem Moves.takeStatus (f : StatusFrame) (c : CellNo) (u : State) : Moves u (State.takeStatus f c u) := by
  unfold State.takeStatus
  split
  · exact ((Moves.refl u).modCell c (Quiet.lastApplied _ _)).trans
      (Moves.deliver _ (fun c v => (Moves.refl v).deliverStatus c _ f) c _)
  · exact (Moves.refl u).protocolError c

theorem Acts.receiveTurnEnd (p : PortNo) (address : Byte) (s : State) : Acts s (s.receiveTurnEnd p address) := by
  unfold State.receiveTurnEnd
  split
  · exact .refl s
  · split
    · exact (Acts.modPort s p Port.endTurn (fun _ => ⟨rfl, rfl⟩) (fun _ => id)).trans
        ((Moves.refl _).modCell _ .silenceZero).toActs
    · exact .modPort s p _ (Port.takeStray_window true) (Port.takeStray_saturated true)

theorem Acts.receiveStray (p : PortNo) (address kind length : Byte) (s : State) :
    Acts s (s.receiveStray p address kind length) := by
  unfold State.receiveStray
  dsimp only
  split
  · exact .refl s
  · split
    · exact .refl s
    · exact .modPort s p _ (Port.takeStray_window _) (Port.takeStray_saturated _)

theorem Quiet.crcError : Quiet fun x => { x with crcErrors := satInc x.crcErrors } :=
  ⟨fun _ => rfl, fun _ => rfl, fun _ => rfl, fun _ => rfl, fun _ => rfl, fun _ => rfl, fun _ => rfl,
    fun _ h => ⟨satInc_le _, h.2⟩⟩

theorem Acts.receiveBad (p : PortNo) (s : State) : Acts s (s.receiveBad p) := by
  unfold State.receiveBad
  split
  · exact .refl s
  · exact (Acts.modPort s p _ (fun x => Port.takePlace_window { x with crcErrors := satInc x.crcErrors })
      (fun x h => Port.takePlace_saturated _ ⟨satInc_le _, h.2⟩)).trans ((Moves.refl _).modCell _ .crcError).toActs

theorem Acts.listenExpired (p : PortNo) (s : State) : Acts s (s.listenExpired p) := by
  unfold State.listenExpired
  split
  · exact .refl s
  · refine .modPort s p _ (fun _ => ⟨rfl, rfl⟩) (fun x h => ⟨h.1, ?_, h.2.2⟩)
    dsimp only
    split
    · exact satInc_le _
    · exact h.2.1

theorem Acts.beginTurn (p : PortNo) (s : State) : Acts s (s.beginTurn p) := by
  unfold State.beginTurn
  split
  · split
    · exact .refl s
    · exact .modPort s p _ (fun _ => ⟨rfl, rfl⟩) (fun _ => id)
  · exact .refl s

theorem Moves.expireSilence (c : CellNo) (s : State) : Moves s (s.expireSilence c) := by
  unfold State.expireSilence
  split
  · exact (Moves.refl s).silenceExpired c
  · exact .refl s

/-- What only `Acts` on canonical memory keeps. -/
theorem Acts.keepsSound (h : Acts s t) (k : s.Sound) : t.Sound :=
  h.sound (by have := k.memory; unfold State.MemoryCanonical at this ⊢; rwa [h.host]) k

/-! ## Report pages (chapter 11) -/

@[simp] theorem ReportUnit.setPage_fifo (p : PageId) (x : Page) (u : ReportUnit) : (u.setPage p x).fifo = u.fifo := by
  cases p <;> rfl

theorem ReportUnit.occupancy_of_fifo {u v : ReportUnit} (h : u.fifo = v.fifo) : u.occupancy ≤ v.occupancy := by
  simp [ReportUnit.occupancy, h]

theorem State.Sound.writeHeader (k : s.Sound) (p : PageId) (r : CloseReason) : (s.writeHeader p r).Sound :=
  k.hostWrite _ _

theorem State.Sound.fillPage (k : s.Sound) (p : PageId) : (s.modReports (ReportUnit.fill p)).Sound :=
  k.modReports _ (ReportUnit.occupancy_of_fifo (by simp [ReportUnit.fill]))

theorem State.Sound.openPage (k : s.Sound) (p : PageId) : (s.openPage p).Sound := (k.fillPage p).writeHeader _ _

theorem State.Sound.openNext (k : s.Sound) : s.openNext.Sound := by
  unfold State.openNext
  split
  · exact k
  · exact k.openPage _

theorem State.Sound.openFails (k : s.Sound) (p : PageId) : (s.openFails p).Sound :=
  (k.fillPage p).enterFaulted _ (by simp)

theorem State.Sound.closePage (k : s.Sound) (p : PageId) (r : CloseReason) : (s.closePage p r).Sound := by
  unfold State.closePage
  exact State.Sound.modReports (k.hostWrite _ _) _ (ReportUnit.occupancy_of_fifo (by simp))

theorem State.moveCase_write {p : PageId} {r : Record} {rest : List Record} (h : s.moveCase = .write p r rest) :
    s.ru.fifo = r :: rest := by
  unfold State.moveCase at h
  split at h
  · next e =>
    split at h
    · cases h
    · split at h
      · cases h
      · cases h; exact e
  · cases h

theorem State.Sound.writeRecord (k : s.Sound) {p : PageId} {r : Record} {rest : List Record}
    (h : s.moveCase = .write p r rest) : (s.writeRecord p r rest).Sound := by
  unfold State.writeRecord
  refine State.Sound.modReports (k.hostWrite _ _) _ ?_
  have e := State.moveCase_write h
  dsimp only
  split <;> simp [ReportUnit.occupancy, e]

theorem State.Sound.restartIdle (k : s.Sound) : s.restartIdle.Sound :=
  k.modReports _ (ReportUnit.occupancy_of_fifo rfl)

theorem State.Sound.moveRecord (k : s.Sound) : s.moveRecord.Sound := by
  unfold State.moveRecord
  split
  · exact k
  · exact (k.closePage _ _).openNext
  · next h =>
    dsimp only
    split
    · exact ((k.writeRecord h).closePage _ _).openNext
    · exact (k.writeRecord h).restartIdle

theorem State.Sound.moveToClose (k : s.Sound) {x : State × PageId × CloseReason} (h : s.moveToClose = some x) :
    x.1.Sound := by
  unfold State.moveToClose at h
  split at h
  · cases h
  · cases h; exact k
  · next e =>
    obtain ⟨r, _, rfl⟩ := Option.map_eq_some_iff.mp h
    exact k.writeRecord e

theorem State.idleClose_eq {x : State × PageId × CloseReason} (h : s.idleClose = some x) : x.1 = s := by
  unfold State.idleClose at h
  split at h
  · cases h
  · split at h
    · cases h; rfl
    · cases h

theorem State.Sound.idleClose (k : s.Sound) {x : State × PageId × CloseReason} (h : s.idleClose = some x) :
    x.1.Sound := State.idleClose_eq h ▸ k

theorem State.Sound.closeFails (k : s.Sound) {o : Option (State × PageId × CloseReason)}
    (h : ∀ x, o = some x → x.1.Sound) : (State.closeFails o s).Sound := by
  cases o with
  | none => exact k
  | some x => exact (h x rfl).enterFaulted _ (by simp)

theorem State.Sound.openAfterFails (k : s.Sound) {o : Option (State × PageId × CloseReason)}
    (h : ∀ x, o = some x → x.1.Sound) : (State.openAfterFails o s).Sound := by
  cases o with
  | none => exact k
  | some x =>
    unfold State.openAfterFails
    dsimp only
    split
    · exact k
    · exact ((h x rfl).closePage _ _).openFails _

theorem State.Sound.recordFails (k : s.Sound) : s.recordFails.Sound := by
  unfold State.recordFails
  split
  · exact k.enterFaulted _ (by simp)
  · exact k
  · exact k

theorem State.Sound.expireIdle (k : s.Sound) : s.expireIdle.Sound := by
  unfold State.expireIdle
  split
  · exact k
  · next h =>
    have := k.idleClose h
    exact (this.closePage _ _).openNext

theorem State.Sound.freePage (k : s.Sound) (p : PageId) : (s.freePage p).Sound :=
  k.modReports _ (ReportUnit.occupancy_of_fifo (by simp))

theorem State.Sound.setCause (k : s.Sound) (c : Cause) : (s.modReports (ReportUnit.setCause c)).Sound :=
  k.modReports _ (ReportUnit.occupancy_of_fifo (by simp))

theorem State.Sound.returnPage (k : s.Sound) (p : PageId) : (s.returnPage p).Sound := by
  unfold State.returnPage
  split
  · exact k
  · split
    · exact k.setCause _
    · split
      · exact k.freePage p
      · dsimp only
        split
        · exact ((k.freePage p).writeHeader _ _).openPage p
        · exact (k.freePage p).writeHeader _ _

theorem State.Sound.returnFreeFails (k : s.Sound) (p : PageId) : (s.returnFreeFails p).Sound := by
  unfold State.returnFreeFails
  split
  · exact (k.freePage p).enterFaulted _ (by simp)
  · exact k

theorem State.Sound.returnOpenFails (k : s.Sound) (p : PageId) : (s.returnOpenFails p).Sound := by
  unfold State.returnOpenFails
  split
  · exact ((k.freePage p).writeHeader _ _).openFails p
  · exact k

/-! ## START (R155) -/

/-- The soundness that START keeps while the cells' states are still those of the old windows. -/
structure State.SoundBut (X : CellNo → Prop) (s : State) : Prop where
  memory : s.MemoryCanonical
  fifo : s.FifoFits
  source : s.FaultSourceAgrees
  counts : s.CountsSaturate
  holds : s.HoldsFit
  ships : s.ShipsFit
  cells : s.SettledOutside X
  queue : s.QueueStands
  units : s.UnitsTally

theorem State.SoundBut.sound (h : s.SoundBut fun _ => False) : s.Sound :=
  ⟨h.memory, h.fifo, h.source, h.counts, h.holds, h.ships, fun c => (h.cells c).resolve_left id,
    h.queue, h.units⟩

theorem State.SoundBut.deriveCell {X : CellNo → Prop} (c : CellNo) (cause : CellCause)
    (h : s.SoundBut fun d => X d ∨ d = c) : (s.deriveCell c cause).SoundBut X := by
  have k := (s.core_deriveCell c cause).1
  refine ⟨?_, k.records.fits h.fifo, ?_, k.counts h.counts, k.holds h.holds, k.ships h.ships,
    s.settled_deriveCell c cause h.cells, k.queue h.queue, fun d => (s.core_deriveCell c cause).2.2 d (h.units d)⟩
  · have := h.memory; unfold State.MemoryCanonical at this ⊢; rwa [k.host]
  · have := h.source; unfold State.FaultSourceAgrees at this ⊢; rwa [k.os]

theorem State.SoundBut.foldl (cause : CellCause) (cs : List CellNo) :
    ∀ s : State, (s.SoundBut fun d => d ∈ cs) → (cs.foldl (fun s c => s.deriveCell c cause) s).Sound := by
  induction cs with
  | nil => exact fun s h => State.SoundBut.sound ⟨h.memory, h.fifo, h.source, h.counts, h.holds, h.ships,
      fun c => (h.cells c).imp (by simp) id, h.queue, h.units⟩
  | cons c cs ih =>
    intro s h
    refine ih _ (State.SoundBut.deriveCell c cause ⟨h.memory, h.fifo, h.source, h.counts, h.holds, h.ships, fun d =>
      (h.cells d).imp (fun m => ?_) id, h.queue, h.units⟩)
    rcases List.mem_cons.mp m with e | m
    · exact .inr e
    · exact .inl m

theorem Cell.unhear_saturated (x : Cell) (h : x.Saturated) : x.unhear.Saturated := by
  unfold Cell.unhear; split <;> exact h

theorem State.Sound.startCells {q : Setup} (k : s.Sound) : (s.takeSetup q).startCells.Sound := by
  refine State.SoundBut.foldl .start _ _ ⟨k.memory, k.fifo, k.source, ⟨fun c => ?_, fun p => ?_⟩, k.holds, k.ships,
    fun c => .inl (List.mem_finRange c), k.queue, k.units⟩
  · rw [State.cell_map]
    exact Cell.unhear_saturated _ (k.counts.1 c)
  · simpa [State.port, State.takeSetup, Port.Saturated] using k.counts.2 p

theorem State.part_startCells (s : State) : s.startCells.os = s.os := by
  have : ∀ (cs : List CellNo) (u : State), (cs.foldl (fun s c => s.deriveCell c .start) u).os = u.os := by
    intro cs
    induction cs with
    | nil => exact fun _ => rfl
    | cons c cs ih => exact fun u => (ih _).trans (u.core_deriveCell c .start).1.os
  exact this _ _

theorem State.Sound.startTimers (k : s.Sound) (h : s.os.faultSource = .none) : s.startTimers.Sound where
  memory := k.memory
  fifo := k.fifo
  source := by unfold State.FaultSourceAgrees State.startTimers; simp [h]
  counts := k.counts
  holds := k.holds
  ships := k.ships
  cells := k.cells
  queue := k.queue
  units := k.units

theorem State.Sound.startUp (k : s.Sound) (h : s.os.part = .halted) (b : SetupBytes) : (s.startUp b).Sound := by
  refine (k.startCells (q := Setup.ofBytes b)).startTimers ?_
  rw [State.part_startCells]
  have := k.source
  unfold State.FaultSourceAgrees at this
  simpa [h, State.takeSetup] using this

theorem State.Sound.startPages (k : s.Sound) : s.startPages.Sound :=
  ((k.writeHeader _ _).writeHeader _ _).openNext

theorem State.Sound.start (k : s.Sound) (setup : Option SetupBytes) : (s.start setup).Sound := by
  unfold State.start
  split
  · next h =>
    split
    · exact k.enterFaulted _ (by simp)
    · exact (k.startUp h _).startPages
  · exact k

theorem State.Sound.startPagesFail (k : s.Sound) (which : Fin 3) : (s.startPagesFail which).Sound := by
  unfold State.startPagesFail
  split
  · exact k.enterFaulted _ (by simp)
  · exact (k.writeHeader _ _).enterFaulted _ (by simp)
  · exact ((k.writeHeader _ _).writeHeader _ _).openFails _

/-! ## Resets (R157) -/

theorem Moves.returnReserved (s : State) : Moves s s.returnReserved := by
  unfold State.returnReserved
  refine (Moves.refl s).foldl _ (fun u l => ?_) _
  split
  · next h =>
    cases hx : u.lot l with
    | none => simp [hx] at h
    | some x => exact (Moves.refl u).requeue l hx fun e => by simp [hx, e] at h
  · exact .refl u

theorem Moves.suspendAtReset (s : State) (c : CellNo) : Moves s (s.suspendAtReset c) := by
  unfold State.suspendAtReset
  split
  · exact .refl s
  · next i hi =>
    have e : s.setInsertion c (some i.softReset) = s.modInsertion c Insertion.softReset := by
      rw [State.modInsertion, hi]; rfl
    have k := (Moves.refl s).modInsertion c Insertion.softReset fun _ _ => id
    dsimp only
    rw [e]
    split
    · exact k.request c _
    · exact k

theorem State.rederiveCells_cell (s : State) (c : CellNo) :
    s.rederiveCells.cell c = { s.cell c with state := s.derivedState c } := by
  simp [State.rederiveCells, State.cell]

theorem State.rederiveCells_rest (s : State) : s.rederiveCells.insertions = s.insertions ∧
    s.rederiveCells.ports = s.ports ∧ s.rederiveCells.de = s.de ∧ s.rederiveCells.host = s.host ∧
    s.rederiveCells.ru = s.ru ∧ s.rederiveCells.os = s.os ∧ s.rederiveCells.hm = s.hm ∧ s.rederiveCells.lm = s.lm ∧
    s.rederiveCells.ships = s.ships := by
  unfold State.rederiveCells
  exact ⟨rfl, rfl, rfl, rfl, rfl, rfl, rfl, rfl, rfl⟩

theorem State.rederiveCells_derived (s : State) : s.rederiveCells.CellStatesDerived := fun c => by
  have e := s.rederiveCells_cell c
  have d : s.rederiveCells.derivedState c = s.derivedState c :=
    State.derivedState_congr (s := s) (t := s.rederiveCells) c (by rw [e])
      (fun _ => by simp [State.port, s.rederiveCells_rest]) (by rw [e]) (by rw [e]; simp [Cell.mismatched]) (by rw [e])
      (by simp [State.insertion, s.rederiveCells_rest]) (by simp [State.reservationOf, s.rederiveCells_rest])
  rw [d, e]

theorem State.SoundBut.rederive (h : s.SoundBut fun _ => True) : s.rederiveCells.Sound := by
  obtain ⟨e1, e2, -, e4, e5, e6, e7, e8, e9⟩ := s.rederiveCells_rest
  refine ⟨?_, ?_, ?_, ⟨fun c => ?_, fun p => ?_⟩, ⟨?_, fun l x => ?_⟩, fun n o => ?_, s.rederiveCells_derived,
    h.queue.congr (by rw [e8]) fun l => by rw [State.lot, e8]; rfl, fun c i hi => h.units c i (by rwa [State.insertion, e1] at hi)⟩
  · unfold State.MemoryCanonical; rw [e4]; exact h.memory
  · unfold State.FifoFits; rw [e5]; exact h.fifo
  · unfold State.FaultSourceAgrees; rw [e6]; exact h.source
  · rw [State.rederiveCells_cell]; exact h.counts.1 c
  · rw [State.port, e2]; exact h.counts.2 p
  · rw [e7]; exact h.holds.1
  · rw [State.lot, e8]; exact h.holds.2 l x
  · rw [State.ship, e9]; exact h.ships n o

theorem Moves.soundBut (k : Moves s t) (h : s.SoundBut fun _ => True) : t.SoundBut fun _ => True where
  memory := by have := h.memory; unfold State.MemoryCanonical at this ⊢; rwa [k.host]
  fifo := k.records.fits h.fifo
  source := by have := h.source; unfold State.FaultSourceAgrees at this ⊢; rwa [k.os]
  counts := k.counts h.counts
  holds := k.holds h.holds
  ships := k.ships h.ships
  cells := fun _ => .inl trivial
  queue := k.queue h.queue
  units := fun c => k.units c (h.units c)

theorem Cell.softReset_saturated (x : Cell) (h : x.Saturated) : x.softReset.Saturated :=
  ⟨Nat.zero_le _, Nat.zero_le _, h.2.2⟩

/-- The blocks at a soft reset, before the insertions are suspended. -/
theorem State.Sound.resetBlocks (k : s.Sound) : ({ s with
    cells := s.cells.map Cell.softReset
    ports := s.ports.map Port.softReset
    de := { s.de with passPending := false, reservations := [] }
    ft := { s.ft with nextFiring := none, firing := false }
    os := s.os.softReset
    ru := s.ru.softReset } : State).SoundBut fun _ => True where
  memory := k.memory
  fifo := Nat.zero_le _
  source := by unfold State.FaultSourceAgrees; simp [Scanner.softReset]
  counts := ⟨fun c => by simpa [State.cell] using Cell.softReset_saturated _ (k.counts.1 c),
    fun p => by simp [State.port, Port.softReset, Port.Saturated]⟩
  holds := k.holds
  ships := k.ships
  cells := fun _ => .inl trivial
  queue := k.queue
  units := k.units

theorem State.Sound.softReset (k : s.Sound) : s.softReset.Sound := by
  unfold State.softReset
  exact ((Moves.foldl State.suspendAtReset Moves.suspendAtReset allCells (.refl _)).soundBut
    ((Moves.returnReserved s).sound k).resetBlocks).rederive

theorem State.reset_cell (c : CellNo) : State.reset.cell c = Cell.initial := by simp [State.cell, State.reset]
theorem State.reset_port (p : PortNo) : State.reset.port p = Port.initial := by simp [State.port, State.reset]
theorem State.reset_lot (l : LotSlot) : State.reset.lot l = none := by simp [State.lot, State.reset]
theorem State.reset_ship (n : ShipNo) : State.reset.ship n = none := by simp [State.ship, State.reset]
theorem State.reset_insertion (c : CellNo) : State.reset.insertion c = none := by simp [State.insertion, State.reset]

theorem State.sound_reset : State.reset.Sound where
  memory := List.Pairwise.nil
  fifo := Nat.zero_le _
  source := by unfold State.FaultSourceAgrees; simp [State.reset, Scanner.initial]
  counts := by
    refine ⟨fun c => ?_, fun p => ?_⟩
    · rw [State.reset_cell]; exact ⟨Nat.zero_le _, Nat.zero_le _, Nat.zero_le _⟩
    · rw [State.reset_port]; exact ⟨Nat.zero_le _, Nat.zero_le _, Nat.zero_le _⟩
  holds := ⟨Nat.zero_le _, fun l x h => by rw [State.reset_lot] at h; cases h⟩
  ships := fun n o h => by rw [State.reset_ship] at h; cases h
  cells := fun c => by
    unfold State.derivedState
    rw [State.reset_cell]
    rfl
  queue := by
    have e : State.reset.lm.queue = [] := rfl
    unfold State.QueueStands
    rw [e]
    refine ⟨fun l => ⟨fun h => (List.not_mem_nil h).elim, fun ⟨x, hx, _⟩ => ?_⟩, List.nodup_nil, List.Pairwise.nil⟩
    rw [State.reset_lot] at hx
    cases hx
  units := fun c i h => by rw [State.reset_insertion] at h; cases h

theorem State.Sound.powerOn (k : s.Sound) : s.powerOn.Sound where
  memory := k.memory
  fifo := Nat.zero_le _
  source := State.sound_reset.source
  counts := State.sound_reset.counts
  holds := State.sound_reset.holds
  ships := State.sound_reset.ships
  cells := State.sound_reset.cells
  queue := State.sound_reset.queue
  units := State.sound_reset.units

/-! ## Register writes, scanning and failed accesses (chapter 10) -/

theorem State.Sound.scan (k : s.Sound) : s.scan.Sound := by
  unfold State.scan
  split
  · exact k.modScanner _ rfl rfl
  · exact k

theorem State.Sound.expireScanPacer (k : s.Sound) : s.expireScanPacer.Sound := by
  unfold State.expireScanPacer
  split
  · exact k.modScanner _ rfl rfl
  · exact k

theorem State.Sound.startScan (k : s.Sound) : s.startScan.Sound := by
  unfold State.startScan
  split <;> exact k.modScanner _ rfl rfl

theorem State.Sound.orSame {b : Bool} {u : State} (k : s.Sound) (h : u.Sound) : (if b then u else s).Sound := by
  split
  · exact h
  · exact k

theorem State.Sound.writeControl (k : s.Sound) (value : Word) (setup : Option SetupBytes) :
    (s.writeControl value setup).Sound := by
  unfold State.writeControl
  have a := State.Sound.orSame (b := value.getLsbD 1) k k.softReset
  have b := State.Sound.orSame (b := value.getLsbD 0) a (a.start setup)
  exact State.Sound.orSame b b.scan

theorem State.Sound.clearCauses (k : s.Sound) (value : Word) : (s.modReports (ReportUnit.clearCauses value)).Sound :=
  k.modReports _ (ReportUnit.occupancy_of_fifo rfl)

theorem State.Sound.writeEnable (k : s.Sound) (value : Word) : (s.modReports (ReportUnit.writeEnable value)).Sound :=
  k.modReports _ (ReportUnit.occupancy_of_fifo rfl)

theorem State.Sound.writeRegister (k : s.Sound) (r : Reg) (value : Word) (setup : Option SetupBytes) :
    (s.writeRegister r value setup).Sound := by
  cases r with
  | ident => exact k
  | setupAddrLo => exact k.modScanner (fun x => { x with setupLo := value }) rfl rfl
  | setupAddrHi => exact k.modScanner (fun x => { x with setupHi := value }) rfl rfl
  | control => exact k.writeControl value setup
  | status => exact k
  | cause => exact k.clearCauses value
  | causeEnable => exact k.writeEnable value
  | pageReturn => exact k.returnPage _

theorem State.Sound.slotReadFails (k : s.Sound) : s.slotReadFails.Sound := by
  unfold State.slotReadFails
  split
  · exact k.enterFaulted _ (by simp)
  · exact k

theorem State.Sound.takeFails (k : s.Sound) : s.takeFails.Sound := by
  unfold State.takeFails
  refine ((k.setFreeIx _).modScanner _ ?_ ?_).enterFaulted _ (by simp) <;> (dsimp only; split <;> rfl)

theorem State.Sound.failAccess (k : s.Sound) (x : FailedAccess) : (s.failAccess x).Sound := by
  cases x with
  | slotRead => exact k.slotReadFails
  | slotTaken slot => exact k.whenTaken slot _ k.takeFails
  | limitBuffer slot => exact k.whenTaken slot _ ((k.takeSlot slot).enterFaulted _ (by simp))
  | imageBuffer slot => exact k.whenTaken slot _ ((k.takeSlot slot).enterFaulted _ (by simp))
  | slotOutcome slot o => exact k.whenTaken slot _ (((k.takeSlot slot).actOf o).enterFaulted _ (by simp))
  | slotAnswered slot o =>
    exact k.whenTaken slot _ ((((k.takeSlot slot).actOf o).writeOutcome slot _).enterFaulted _ (by simp))
  | startHeader b which =>
    show (if s.os.part = .halted then (s.startUp b).startPagesFail which else s).Sound
    split
    · next h => exact (k.startUp h b).startPagesFail which
    · exact k
  | recordPlaces => exact k.recordFails
  | moveClose => exact k.closeFails fun _ h => k.moveToClose h
  | moveOpen => exact k.openAfterFails fun _ h => k.moveToClose h
  | idleClose => exact k.closeFails fun _ h => k.idleClose h
  | idleOpen => exact k.openAfterFails fun _ h => k.idleClose h
  | returnFree p => exact k.returnFreeFails p
  | returnOpen p => exact k.returnOpenFails p

/-! ## Time (chapter 9, log entry 2) -/

/-- An update that no bound and no cell state depends on. -/
theorem State.Sound.still (k : s.Sound) (h : Still s t) (hh : t.host = s.host) (hr : t.ru.fifo = s.ru.fifo)
    (ho : t.os.part = s.os.part ∧ t.os.faultSource = s.os.faultSource)
    (hc : ∀ c, (s.cell c).Saturated → (t.cell c).Saturated) (hm : t.hm = s.hm) (hl : t.lm = s.lm)
    (hs : t.ships = s.ships) (hu : ∀ c, s.TalliesAt c → t.TalliesAt c) : t.Sound where
  memory := by have := k.memory; unfold State.MemoryCanonical at this ⊢; rwa [hh]
  fifo := le_trans (ReportUnit.occupancy_of_fifo hr) k.fifo
  source := by have := k.source; unfold State.FaultSourceAgrees at this ⊢; rwa [ho.1, ho.2]
  counts := ⟨fun c => hc c (k.counts.1 c), fun p => by simpa [State.port, h.ports] using k.counts.2 p⟩
  holds := ⟨hm ▸ k.holds.1, fun l x e => k.holds.2 l x (by rwa [State.lot, hl] at e)⟩
  ships := fun n o e => k.ships n o (by rwa [State.ship, hs] at e)
  cells := fun c => (h.settled (X := fun _ => False) (.none k.cells) c).resolve_left id
  queue := k.queue.congr (by rw [hl]) fun l => by rw [State.lot, hl]; rfl
  units := fun c => hu c (k.units c)

theorem State.Sound.rebasePacer (k : s.Sound) : s.rebasePacer.Sound := by
  unfold State.rebasePacer
  split
  · exact k.setTimer _
  · exact k

theorem State.Sound.countSecond (k : s.Sound) : s.countSecond.Sound := by
  unfold State.countSecond
  dsimp only
  split
  · exact (k.setTimer _).rebasePacer
  · exact k.setTimer _

theorem State.Sound.notifyPacer (k : s.Sound) : s.notifyPacer.Sound := by
  unfold State.notifyPacer
  split
  · exact k.setTimer _
  · exact k

theorem State.Sound.countWithNotice (k : s.Sound) : s.countWithNotice.Sound := by
  unfold State.countWithNotice
  dsimp only
  split
  · exact (k.countSecond.setTimer _).notifyPacer
  · exact k.countSecond.setTimer _

theorem State.Sound.minuteNotice (k : s.Sound) : s.minuteNotice.Sound := by
  unfold State.minuteNotice
  split
  · exact k.countWithNotice
  · exact k

theorem State.Sound.firePacer (k : s.Sound) : s.firePacer.Sound := by
  unfold State.firePacer
  split
  · exact ((Moves.refl s).triggerPass.sound k).setTimer _
  · exact k

theorem State.passSilence_cell (s : State) (c : CellNo) : s.passSilence.cell c =
    if s.silenceRuns c then { s.cell c with silence := (s.cell c).silence + 1 } else s.cell c := by
  simp [State.passSilence, State.cell]

theorem State.passSilence_rest (s : State) : s.passSilence.insertions = s.insertions ∧ s.passSilence.ports = s.ports ∧
    s.passSilence.de = s.de ∧ s.passSilence.host = s.host ∧ s.passSilence.ru = s.ru ∧ s.passSilence.os = s.os ∧
    s.passSilence.hm = s.hm ∧ s.passSilence.lm = s.lm ∧ s.passSilence.ships = s.ships := by
  unfold State.passSilence
  exact ⟨rfl, rfl, rfl, rfl, rfl, rfl, rfl, rfl, rfl⟩

theorem State.Sound.passSilence (k : s.Sound) : s.passSilence.Sound := by
  have e := s.passSilence_cell
  obtain ⟨e1, e2, e3, e4, e5, e6, e7, e8, e9⟩ := s.passSilence_rest
  refine k.still ⟨e2, by rw [e3], fun c => ?_, fun c => ?_, fun c => ?_, fun c => ?_, fun c => ?_, fun c => ?_⟩ e4
    (by rw [e5]) (by rw [e6]; exact ⟨rfl, rfl⟩) (fun c h => ?_) e7 e8 e9
    (fun c h i hi => h i (by rwa [State.insertion, e1] at hi))
  case refine_6 => rw [State.insertion, e1]; rfl
  all_goals
    rw [e]
    split
    · first
        | rfl
        | exact h
    · first
        | rfl
        | exact h

theorem Port.passWait_window (x : Port) : x.passWait.winStart = x.winStart ∧ x.passWait.winStop = x.winStop := ⟨rfl, rfl⟩

theorem State.Sound.passWaits (k : s.Sound) : ({ s with ports := s.ports.map Port.passWait } : State).Sound where
  memory := k.memory
  fifo := k.fifo
  source := k.source
  counts := ⟨k.counts.1, fun p => by simpa [State.port, Port.passWait, Port.Saturated] using k.counts.2 p⟩
  holds := k.holds
  ships := k.ships
  cells := fun c => (k.cells c).trans (Eq.symm (State.derivedState_congr c rfl
    (fun p => by simp [State.port, Port.passWait]) rfl rfl rfl rfl rfl))
  queue := k.queue
  units := k.units

theorem Insertion.second_tallies (b : Bool) (i : Insertion) (h : i.Tallies) : (i.second b).Tallies := h

theorem State.Sound.passSecond (k : s.Sound) : s.passSecond.Sound := by
  have h : ({ s with insertions := s.insertions.map (Option.map (Insertion.second s.timersRun)) } : State).Sound :=
    k.still (.mapInsertions s _) rfl rfl ⟨rfl, rfl⟩ (fun _ => id) rfl rfl rfl
      fun _ h => h.mapInsertions _ (Insertion.second_tallies s.timersRun)
  unfold State.passSecond
  dsimp only
  split
  · exact h
  · exact h.countSecond.setTimer _

theorem State.Sound.passIdle (k : s.Sound) : s.passIdle.Sound :=
  k.modReports _ (ReportUnit.occupancy_of_fifo rfl)

theorem State.Sound.passScanPacer (k : s.Sound) : s.passScanPacer.Sound :=
  k.modScanner (fun x => { x with pacer := if s.running then x.pacer + 1 else x.pacer }) rfl rfl

theorem State.Sound.endTick (k : s.Sound) : (let s := { s with ft := { s.ft with ms := s.ft.ms + 1 } }
    if 1000 ≤ s.ft.ms then s.passSecond else s : State).Sound := by
  dsimp only
  split
  · exact (k.setTimer _).passSecond
  · exact k.setTimer _

theorem State.Sound.tick (k : s.Sound) : s.tick.Sound := by
  have h := k.passSilence.passWaits
  rw [s.passSilence_rest.2.1] at h
  unfold State.tick
  exact h.passScanPacer.passIdle.endTick

theorem State.Sound.idle (k : s.Sound) : s.idle.Sound := by
  unfold State.idle
  split
  · exact k.tick
  · exact k.setPending _

end Sys2Proof.Machine
end

