-- ==== Sys2Proof/Laws/Slot.lean ====
section
/-! SUPPORT. Bytes of fields read back (R158): the little-endian bytes of a value, and the fields of a slot. -/

namespace Sys2Proof.Machine

theorem ofLeBytes_leBytes (k : Nat) : ∀ v, v < 256 ^ k → ofLeBytes (leBytes k v) = v := by
  induction k with
  | zero => intro v h; simp at h; simp [leBytes, ofLeBytes, h]
  | succ k ih =>
    intro v h
    simp only [leBytes, ofLeBytes, BitVec.toNat_ofNat]
    rw [ih _ (Nat.div_lt_of_lt_mul (by rw [pow_succ] at h; omega))]
    omega

theorem halfBytes_eq (x : Half) : halfBytes x = [BitVec.ofNat 8 x.toNat, BitVec.ofNat 8 (x.toNat / 256)] := rfl

theorem wordBytes_eq (x : Word) : wordBytes x = [BitVec.ofNat 8 x.toNat, BitVec.ofNat 8 (x.toNat / 256),
    BitVec.ofNat 8 (x.toNat / 256 / 256), BitVec.ofNat 8 (x.toNat / 256 / 256 / 256)] := rfl

theorem addrBytes_eq (x : Addr) : addrBytes x = [BitVec.ofNat 8 x.toNat, BitVec.ofNat 8 (x.toNat / 256),
    BitVec.ofNat 8 (x.toNat / 256 / 256), BitVec.ofNat 8 (x.toNat / 256 / 256 / 256),
    BitVec.ofNat 8 (x.toNat / 256 / 256 / 256 / 256), BitVec.ofNat 8 (x.toNat / 256 / 256 / 256 / 256 / 256),
    BitVec.ofNat 8 (x.toNat / 256 / 256 / 256 / 256 / 256 / 256),
    BitVec.ofNat 8 (x.toNat / 256 / 256 / 256 / 256 / 256 / 256 / 256)] := rfl

@[simp] theorem ofNat_halfBytes (x : Half) : BitVec.ofNat 16 (ofLeBytes (halfBytes x)) = x := by
  rw [halfBytes, ofLeBytes_leBytes 2 _ x.isLt]; simp

@[simp] theorem ofNat_wordBytes (x : Word) : BitVec.ofNat 32 (ofLeBytes (wordBytes x)) = x := by
  rw [wordBytes, ofLeBytes_leBytes 4 _ x.isLt]; simp

@[simp] theorem ofNat_addrBytes (x : Addr) : BitVec.ofNat 64 (ofLeBytes (addrBytes x)) = x := by
  rw [addrBytes, ofLeBytes_leBytes 8 _ x.isLt]; simp

theorem halfBytes_length (x : Half) : (halfBytes x).length = 2 := rfl
theorem wordBytes_length (x : Word) : (wordBytes x).length = 4 := rfl
theorem addrBytes_length (x : Addr) : (addrBytes x).length = 8 := rfl

theorem halfAt_append (pre post : List Byte) (x : Half) (i : Nat) (h : pre.length = i) :
    halfAt (pre ++ (halfBytes x ++ post)) i = x := by
  subst h
  rw [halfAt, List.drop_left, List.take_left' (halfBytes_length x), ofNat_halfBytes]

theorem wordAt_append (pre post : List Byte) (x : Word) (i : Nat) (h : pre.length = i) :
    wordAt (pre ++ (wordBytes x ++ post)) i = x := by
  subst h
  rw [wordAt, List.drop_left, List.take_left' (wordBytes_length x), ofNat_wordBytes]

theorem addrAt_append (pre post : List Byte) (x : Addr) (i : Nat) (h : pre.length = i) :
    addrAt (pre ++ (addrBytes x ++ post)) i = x := by
  subst h
  rw [addrAt, List.drop_left, List.take_left' (addrBytes_length x), ofNat_addrBytes]

theorem byteAt_append (pre post : List Byte) (b : Byte) (i : Nat) (h : pre.length = i) :
    byteAt (pre ++ b :: post) i = b := by
  subst h
  simp [byteAt]

theorem half_read (x : Half) : BitVec.ofNat 16 (ofLeBytes [BitVec.ofNat 8 x.toNat, BitVec.ofNat 8 (x.toNat / 256)]) = x := ofNat_halfBytes x
theorem word_read (x : Word) : BitVec.ofNat 32 (ofLeBytes [BitVec.ofNat 8 x.toNat, BitVec.ofNat 8 (x.toNat / 256),
    BitVec.ofNat 8 (x.toNat / 256 / 256), BitVec.ofNat 8 (x.toNat / 256 / 256 / 256)]) = x := ofNat_wordBytes x
theorem addr_read (x : Addr) : BitVec.ofNat 64 (ofLeBytes [BitVec.ofNat 8 x.toNat, BitVec.ofNat 8 (x.toNat / 256),
    BitVec.ofNat 8 (x.toNat / 256 / 256), BitVec.ofNat 8 (x.toNat / 256 / 256 / 256),
    BitVec.ofNat 8 (x.toNat / 256 / 256 / 256 / 256), BitVec.ofNat 8 (x.toNat / 256 / 256 / 256 / 256 / 256),
    BitVec.ofNat 8 (x.toNat / 256 / 256 / 256 / 256 / 256 / 256),
    BitVec.ofNat 8 (x.toNat / 256 / 256 / 256 / 256 / 256 / 256 / 256)]) = x := ofNat_addrBytes x

theorem entryAt_eq (e : EntryArgs) (rest : List Byte) : entryAt (entryArgBytes e ++ rest) = e := by
  simp only [entryAt, entryArgBytes, byteAt, wordAt, wordBytes_eq, List.cons_append, List.nil_append, List.drop_succ_cons, List.drop_zero,
    List.take_succ_cons, List.take_zero, word_read, List.getElem?_cons_succ, List.getElem?_cons_zero, Option.getD_some]

theorem entriesAt_eq (es : List EntryArgs) : ∀ rest, entriesAt es.length (es.flatMap entryArgBytes ++ rest) = es := by
  induction es with
  | nil => intro rest; rfl
  | cons e es ih =>
    intro rest
    have h : (entryArgBytes e ++ (es.flatMap entryArgBytes ++ rest)).drop 17 = es.flatMap entryArgBytes ++ rest :=
      List.drop_left' rfl
    simp only [List.flatMap_cons, List.length_cons, entriesAt, List.append_assoc, entryAt_eq, h, ih]

/-! ## Fields after a lot number (R158: "A lot number takes 16 bytes") -/

theorem byteAt_past (v r : List Byte) (k : Nat) (h : v.length = 16) : byteAt (v ++ r) (16 + k) = byteAt r k := by
  simp [byteAt, List.getElem?_append_right, h]
theorem drop_past (v r : List Byte) (k : Nat) (h : v.length = 16) : (v ++ r).drop (16 + k) = r.drop k := by
  rw [List.drop_append, h]; simp [h]
theorem halfAt_past (v r : List Byte) (k : Nat) (h : v.length = 16) : halfAt (v ++ r) (16 + k) = halfAt r k := by
  rw [halfAt, drop_past v r k h, halfAt]
theorem wordAt_past (v r : List Byte) (k : Nat) (h : v.length = 16) : wordAt (v ++ r) (16 + k) = wordAt r k := by
  rw [wordAt, drop_past v r k h, wordAt]
theorem stepAt_past (v r : List Byte) (k : Nat) (h : v.length = 16) : stepAt (v ++ r) (16 + k) = stepAt r k := by
  simp only [stepAt, byteAt_past v r k h, Nat.add_assoc, byteAt_past v r _ h, halfAt_past v r _ h]

end Sys2Proof.Machine
end

