-- ==== Sys2Proof/Laws/Frames.lean ====
section
/-! SUPPORT. What a good frame leads to (R44, R47, R48), records changed twice, the requests of a pause reason (R66, R67), and
numbers read as indexes (0.6). -/

namespace Sys2Proof.Machine

/-! ## Good frames -/

/-- A good frame with a place left in the turn is handled in the state `heardIn` (R44, R47). -/
theorem receive_hears {s : State} {p : PortNo} {a : Byte} {c : CellNo} (h : s.Hears p a c) (act : CellNo → State → State) :
    s.receive p a act = act c (s.heardIn p c) := by
  obtain ⟨t, ht, hc, hf, ha⟩ := h
  subst hc
  have hf' : t.frames < Config.turnFrames := hf
  simp only [State.receive, ht]
  rw [if_pos ⟨ha, hf'⟩]
  congr 1
  simp only [State.heardIn]
  congr 1
  simp only [State.modPort, Port.takePlace, ht]
  rw [if_neg (by show ¬ Config.turnFrames ≤ t.frames; omega)]
  simp

@[simp] theorem heardIn_insertion (s : State) (p c d) : (s.heardIn p c).insertion d = s.insertion d := rfl
@[simp] theorem heardIn_lot (s : State) (p c l) : (s.heardIn p c).lot l = s.lot l := rfl
@[simp] theorem heardIn_recipe (s : State) (p c l) : (s.heardIn p c).recipe l = s.recipe l := rfl
@[simp] theorem heardIn_state (s : State) (p c d) : ((s.heardIn p c).cell d).state = (s.cell d).state := by
  simp only [State.heardIn]; rw [State.cell_modCell]; split
  · rename_i h; subst h; rfl
  · rfl

/-- A delivered frame is handled (R48). -/
theorem deliver_of {s : State} {p a c i} (h : s.Delivers p a c i) (act) : State.deliver act c (s.heardIn p c) = act c (s.heardIn p c) := by
  obtain ⟨h1, h2, h3, h4⟩ := h
  simp [State.deliver, State.delivers, h2, h3, h4]

/-- A site of the site mask is accepted (R69). -/
theorem site_inMask {i : Insertion} {site : Byte} {k : Site} (h : site.toNat = number k) (hm : i.siteMask.getLsbD k.val = true) : i.site? site.toNat = some k := by
  have : ofNumber? 8 site.toNat = some k := by
    rw [h]; simp [ofNumber?, number]
  simp [Insertion.site?, this, hm]
/-- Any other site is not (R69). -/
theorem site_outsideMask {i : Insertion} {site : Byte} (h : ¬ ∃ k : Site, site.toNat = number k ∧ i.siteMask.getLsbD k.val = true) : i.site? site.toNat = none := by
  unfold Insertion.site?
  split
  · rfl
  · rename_i k hk
    split
    · rename_i hm
      exfalso; apply h
      refine ⟨k, ?_, hm⟩
      unfold ofNumber? at hk
      split at hk
      · cases hk; simp [number]; omega
      · cases hk
    · rfl

/-! ## Records changed twice -/

theorem modCell_modCell (s : State) (c : CellNo) (f g : Cell → Cell) : (s.modCell c f).modCell c g = s.modCell c fun x => g (f x) := by
  simp only [State.modCell, State.cell, Fin.getElem_fin, Vector.getElem_set_self, Vector.set_set]
theorem setInsertion_setInsertion (s : State) (c : CellNo) (x y : Option Insertion) : (s.setInsertion c x).setInsertion c y = s.setInsertion c y := by
  simp only [State.setInsertion, Vector.set_set]
theorem modInsertion_modInsertion (s : State) (c : CellNo) (f g : Insertion → Insertion) : (s.modInsertion c f).modInsertion c g = s.modInsertion c fun x => g (f x) := by
  simp only [State.modInsertion, State.insertion_setInsertion, if_true, setInsertion_setInsertion, Option.map_map]; rfl
theorem modInsertion_congr {s : State} {c : CellNo} {i : Insertion} {f g : Insertion → Insertion} (h : s.insertion c = some i) (e : f i = g i) : s.modInsertion c f = s.modInsertion c g := by
  simp [State.modInsertion, h, e]

/-- A change of insertion state writes its INSERTION_EVENT record (R60). -/
theorem setInsState_eq {s : State} {c : CellNo} {i : Insertion} (h : s.insertion c = some i) (new cause) :
  s.setInsState c new cause = (s.modInsertion c fun j => {j with state := new}).report (.insertionEvent c i.lot (some i.state) (some new) cause) := by
  simp [State.setInsState, h]

/-- A set that is not empty asks for its halt kind (R66). -/
theorem command_of_nonempty {p : PauseSet} (h : ¬ p.Empty) : p.command = p.halting ∧ p.halt.isSome = true := by
  unfold PauseSet.command PauseSet.halting PauseSet.halt
  by_cases a : p.hold = some .haltNow ∨ p.lineStop = some .haltNow ∨ p.cellOrder = some .haltNow
  · simp [a, HaltKind.command]
  · simp only [a, if_false]
    have : (p.hold.isSome = true ∨ p.lineStop.isSome = true ∨ p.cellOrder.isSome = true) := by
      by_contra hc; apply h
      simp at hc; exact ⟨hc.1, hc.2.1, hc.2.2⟩
    simp [this, HaltKind.command]
/-- An empty set asks for GO (R68). -/
theorem command_of_empty {p : PauseSet} (h : p.Empty) : p.command = .go ∧ p.halt.isSome = false := by
  obtain ⟨a, b, c⟩ := h
  simp [PauseSet.command, PauseSet.halt, a, b, c]

/-- A command that takes no new load tag only becomes the desired one (R54). -/
theorem request_plain {s : State} {c : CellNo} {cmd : Command} (h : cmd.takesTag = false) : s.request c cmd = s.asked c cmd := by
  simp [State.request, h, State.asked]
theorem command_plain (p : PauseSet) : p.command.takesTag = false := by
  unfold PauseSet.command; split
  · rename_i k _; cases k <;> rfl
  · rfl

/-- All that a request of a pause reason does, by the insertion state (R66 to R68). -/
theorem pauseRequest_eq {s : State} {c : CellNo} {i : Insertion} (h : s.insertion c = some i) (f : PauseSet → PauseSet) :
   s.pauseRequest c f =
     if f i.pause = i.pause then s else
     let u := s.modInsertion c fun j => { j with pause := f i.pause, sampleVoid := true }
     let v := (s.modInsertion c fun j => { j with pause := f i.pause, sampleVoid := true, state := .pausing }).report
          (.insertionEvent c i.lot (some i.state) (some .pausing) .pause)
     match i.state with
     | .running => if (f i.pause).halt.isSome then v.asked c (f i.pause).command else u
     | .pausing => u.asked c (f i.pause).command
     | .paused => if (f i.pause).halt.isSome && (s.cell c).goDesired then v.asked c (f i.pause).command else u.asked c (f i.pause).command
     | _ => u := by
  simp only [State.pauseRequest, h]
  by_cases e : f i.pause = i.pause
  · simp [e]
  · simp only [e, if_false]
    have hi : (s.modInsertion c fun j => { j with pause := f i.pause, sampleVoid := true }).insertion c = some { i with pause := f i.pause, sampleVoid := true } := by
      simp [State.insertion_modInsertion, h]
    cases hs : i.state <;> simp only [request_plain (command_plain _), setInsState_eq hi, modInsertion_modInsertion, hs]

/-! ## Numbers read as indexes -/

/-- A byte outside 1..n names nothing. -/
theorem ofNumber_outside {n : Nat} {b : Byte} (h : b = 0 ∨ n < b.toNat) : ofNumber? n b.toNat = none := by
  unfold ofNumber?; rw [dif_neg]; rcases h with rfl | h
  · simp
  · omega
/-- The number of an index names it. -/
theorem ofNumber_number {n x : Nat} (r : Fin n) (h : x = number r) : ofNumber? n x = some r := by
  subst h; simp [ofNumber?, number]


end Sys2Proof.Machine
end

