-- ==== Sys2Proof/Laws/Reads.lean ====
section
/-! SUPPORT. What the reads of host memory and of tap frames give, said once: a read of bytes that all stand or of which one
fails, the register at its own offset, and the command of a well-formed frame. -/

namespace Sys2Proof.Machine

/-! ## Reads of host memory -/

theorem HostView.read_some {mem : HostView} {a n : Nat} (v : Vector Byte n) (h : ∀ k : Fin n, mem (a + k.val) = some v[k]) :
    mem.read a n = some v := by
  have hall : ((List.range n).all fun k => (mem (a + k)).isSome) = true := by
    simp only [List.all_eq_true, List.mem_range]
    intro k hk
    simp [h ⟨k, hk⟩]
  simp only [HostView.read, hall, if_true, Option.some.injEq]
  ext k hk
  simp [h ⟨k, hk⟩]

theorem HostView.read_none {mem : HostView} {a n : Nat} (h : ∃ k : Fin n, mem (a + k.val) = none) :
    mem.read a n = none := by
  obtain ⟨k, hk⟩ := h
  have hall : ((List.range n).all fun k => (mem (a + k)).isSome) = false := by
    rw [Bool.eq_false_iff]
    intro hc
    simp only [List.all_eq_true, List.mem_range] at hc
    simpa [hk] using hc k.val k.isLt
  simp [HostView.read, hall]

@[simp] theorem Reg.ofOffset?_offset (r : Reg) : Reg.ofOffset? (Reg.offset r) = some r := by cases r <;> rfl

/-! ## Received frames -/

/-- A frame whose length byte counts its body makes the command of its kind when its CRC is correct, and BAD_CRC_FRAME when
it is not. -/
theorem receivedCommand_frame (p : PortNo) (address kind length : Byte) (body : List Byte) (crc : Half)
    (h : body.length = length.toNat) :
    receivedCommand p (address :: kind :: length :: (body ++ leBytes 2 crc.toNat)) =
      if crc = crc16 (address :: kind :: length :: body) then
        if tapBodyLength kind.toNat = some length.toNat then kindCommand p address kind body
        else .strayFrame p address kind length
      else .badCrcFrame p := by
  have hc : ofLeBytes (leBytes 2 crc.toNat) = crc.toNat := ofLeBytes_leBytes 2 _ crc.isLt
  have hl : (leBytes 2 crc.toNat).length = 2 := rfl
  simp only [receivedCommand, ← h, List.take_left', List.drop_left', hc, hl, true_and, BitVec.toNat_inj]

/-- A frame that the part receives as a tap formed it: the command of its kind, or a stray frame. -/
theorem receivedCommand_tapFrame (p : PortNo) (address : Byte) (kind : Nat) (body : List Byte) (hk : kind < 256)
    (hb : tapBodyLength kind = some body.length) (hl : body.length < 256) :
    receivedCommand p (tapFrame address kind body) = kindCommand p address (BitVec.ofNat 8 kind) body := by
  have hk' : (BitVec.ofNat 8 kind).toNat = kind := Nat.mod_eq_of_lt hk
  have hl' : (BitVec.ofNat 8 body.length).toNat = body.length := Nat.mod_eq_of_lt hl
  have := receivedCommand_frame p address (BitVec.ofNat 8 kind) (BitVec.ofNat 8 body.length) body
    (crc16 (address :: BitVec.ofNat 8 kind :: BitVec.ofNat 8 body.length :: body)) hl'.symm
  rw [hk', hl', if_pos rfl, if_pos hb] at this
  rw [← this]
  simp [tapFrame, frameBytes]

end Sys2Proof.Machine
end

