-- ==== Sys2Proof/Tests/Slice0.lean ====
section
/-! SUPPORT. Small tests: ill-formed terms, worked values of the manual, one step at a time on small states; and, for every
statement with hypotheses, states and operands that meet them, each clause at the boundary of its range. A membership
`x ∈ s.lot l` says `s.lot l = some x`. -/

namespace Sys2Proof.Slice0

open Sys2Proof.Machine

set_option Elab.async false

/-! ## Small states -/

/-- RUNNING, a scan pass at slot 0 of a board of 16 slots, port 0 polling taps 1 to 15. -/
def running : State :=
  { State.reset.modPort 0 fun x => { x with winStart := 1, winStop := 15 } with
    os := { State.reset.os with part := .running, boardBase := 4096, winStart := 0, winStop := 15, scanAt := some 0 }
    ru := { State.reset.ru with baseA := 65536, baseB := 131072, pageLength := 8 } }

def recipe : Recipe :=
  { programId := 77, testerClass := 3, handlerClass := 2, temp := .hot, soakMinutes := 15, kitCode := 117, minSites := 1,
    maxSites := 8, cycleTime := 4500, passSet := 3, retestSet := 0x10, retestCap := 5 }

def limits : LimitSet :=
  { minUnits := 2, interval := 2, siteMinUnits := 1,
    entries := [{ metric := .failRun, level1 := 2, level2 := 1, condition := .aboveL1, holdClass := .stopNow, band := 1,
                  enabled := true }] }

def lotStep : LotStep :=
  { recipe := 0, limitSet := 0, lossAllowance := 5, state := .opened, unitsIn := 10, bins := Vector.replicate 16 0, gap := 0,
    loss := 0, stalls := 0, runs := [] }

def lot (st : LotState) : Lot :=
  { lotNumber := Vector.replicate 16 65, startQuantity := 10, due := 100, priority := 1, steps := [lotStep], current := 1,
    state := st, empty := false, deviation := false, quarantined := false, holds := [], ship := none, ready := 0,
    admission := 1, tail := 0, bar := none }

def identity : Identity :=
  { serial := 50211, testerClass := 3, handlerClass := 2, siteCount := 8, temps := 6, kitCode := 117 }

def run : Run := { cell := 0, startSecond := 0, unitsTested := 0, endSecond := none, outcome := none }

def insertion (st : InsState) : Insertion :=
  { lot := 0, step := 1, runIndex := 1, recipe := 0, siteMask := 0x0F, expected := 10, unitsTested := 1, unitsSeen := 1,
    runGap := 0, runBins := (Vector.replicate 16 0).set 4 1, siteTested := Vector.replicate 8 0,
    sitePassed := Vector.replicate 8 0, siteFailRun := Vector.replicate 8 0, retestsUsed := 4, quantityHold := false,
    downCounter := 2, armed := Vector.replicate 8 true, loadTag := 1, lastIndex := none, sampleVoid := false,
    firstSample := false, stalls := 0, pause := { hold := none, lineStop := none, cellOrder := none },
    abortRequested := false, state := st, before := none, resyncPending := false, kitTimer := 0, loadTimer := 0,
    soakTimer := 0, soakStarted := false }

/-- Recipe 1 and limit set 1 in use by the lot of slot 0, whose state is given. -/
def withLot (st : LotState) : State :=
  ((running.setRecipe 0 (some recipe)).setLimitSet 0 (some limits)).setLot 0 (some (lot st))

/-- Cell 1 mapped to port 0 at tap 1, heard, in a turn with three frames taken. -/
def heard (s : State) : State :=
  (s.modPort 0 fun x => { x with arbiter := some 1, turn := some { cell := 0, frames := 3, wait := 0 } }).modCell 0 fun x =>
    { x with mapping := some { port := 0, tap := 1 }, heard := true, reported := some identity, state := .idle }

/-- Cell 1 idle, and the lot of slot 0 QUEUED. -/
def idleCell : State := heard { withLot .queued with lm := { (withLot .queued).lm with queue := [0] } }

/-- The lot of slot 0 in test on cell 1. -/
def testing (i : Insertion) : State :=
  let s := heard ((withLot .inTest).setLot 0 (some { lot .inTest with steps := [{ lotStep with
    bins := (Vector.replicate 16 0).set 4 1, runs := [{ run with unitsTested := 1 }] }] }))
  (s.setInsertion 0 (some i)).modCell 0 fun x => { x with state := .busy }

/-- The lot of slot 0 reserved with cell 1 until minute 0. -/
def reserved : State :=
  let s := (heard (withLot .reserved)).modCell 0 fun x => { x with state := .reserved }
  { s with de := { s.de with reservations := [{ cell := 0, lot := 0, expiry := 0, score := 9 }] } }

/-- The lot of slot 0 a member of ship order 1. -/
def shipped (lotState : LotState) (o : Ship) : State :=
  ((withLot lotState).setLot 0 (some { lot lotState with ship := some 0 })).setShip 0 (some o)

def ship (st : ShipState) (lots : List LotSlot) : Ship :=
  { customer := 9, kind := .normal, auto := false, state := st, lots := lots, releasedSecond := none }

def hold (id : Nat) (st : HoldState) : Hold :=
  { id := id, lot := 0, step := 1, origin := .manual, limit := none, reason := none, holdClass := .soft, cell := none,
    raisedSecond := 0, state := st }

/-- The lot of slot 0 with the given holds in the table and in its list. -/
def held (x : Lot) (hs : List Hold) : State :=
  { (withLot .queued).setLot 0 (some { x with holds := hs.map Hold.id }) with hm := { holds := hs, lastId := 65534 } }

/-- A state with so many records in the report FIFO. -/
def withRecords (n : Nat) (s : State) : State :=
  { s with ru := { s.ru with
    fifo := List.replicate n { second := 7, report := .lotState 0 (some .queued) none 1 } } }

/-- A state with page A FILLING and so many places used. -/
def withPage (used : Nat) (s : State) : State :=
  { s with ru := { s.ru with filling := some .a, pageA := { state := .filling, used := used, sequence := 1 } } }

/-- A command answers a next state of which `p` holds. -/
def after (i : Instr) (s : State) (p : State → Bool) : Bool :=
  match exec i s with
  | .next t => p t
  | _ => false

/-- The outcome code that an order leaves in slot 0. -/
def outcome (i : Instr) (s : State) : Option Byte :=
  match exec i s with
  | .next t => t.hostByte 4098
  | _ => none

/-- No lot stands in the table after reset. -/
theorem no_lots (l : LotSlot) : State.reset.lot l = none := by simp [State.lot, State.reset, Vector.getElem_replicate]

/-! ## Ill-formed terms (WellFormed.lean) -/

def limitArgs (count : Byte) : LimitSetArgs :=
  { number := 1, minUnits := 2, interval := 2047, siteMinUnits := 1, entryCount := count,
    entries := [{ metric := 1, bin := 16, level1 := 1000000, level2 := 0, condition := 3, holdClass := 2, band := 0,
                  enabled := 1 }] }

theorem test_illformed_bad_order : (Instr.badOrder 0 30).wellFormed = false ∧ (Instr.badOrder 0 1).wellFormed = false ∧
    (Instr.badOrder 0 31).wellFormed = true ∧ (Instr.badOrder 0 0).wellFormed = true := by decide

theorem test_illformed_limit_set : (Instr.putLimitSet 0 (limitArgs 2)).wellFormed = false ∧
    (Instr.putLimitSet 0 (limitArgs 1)).wellFormed = true := by decide

theorem test_illformed_in_failed_access :
    (Instr.hostAccessFail (.slotOutcome 0 (.bad 30))).wellFormed = false ∧
    (Instr.hostAccessFail (.slotAnswered 0 (.putLimitSet (limitArgs 0)))).wellFormed = false ∧
    (Instr.hostAccessFail (.slotAnswered 0 (.bad 31))).wellFormed = true := by decide

/-! ## Values the manual works out -/

/-- The CRC's published check value: the remainder of the nine characters 1 to 9 (R46 gives the polynomial). -/
theorem test_crc_check_value : crc16 [0x31, 0x32, 0x33, 0x34, 0x35, 0x36, 0x37, 0x38, 0x39] = 0x29B1#16 := by decide +kernel

/-- The lot of the first worked case of 7.3. -/
def worked : Lot := { lot .queued with due := 10090, ready := 9963, tail := 40 }

/-- Floor minute 10,000; the default parameters. -/
def workedScore (setup run : Nat) : Nat :=
  scoreOf State.reset.de.params 10000 setup (slackOf 10000 setup run worked) worked

theorem test_worked_runs : runMinutes 8 2403 4200 = 22 ∧ runMinutes 8 2403 4500 = 23 := by decide +kernel

theorem test_worked_scores : workedScore 15 22 = 10024 ∧ workedScore 65 23 = 9275 := by decide +kernel

/-- The pair that is not proposed (7.3): its score is 0. -/
theorem test_worked_not_proposed :
    let x := { lot .queued with priority := 0, due := 30000, ready := 9995 }
    scoreOf { State.reset.de.params with kitMinutes := 60, transitionMinutes := 40, setupWeight := 63 } 10000 130
      (slackOf 10000 130 50 x) x = 0 := by decide +kernel

/-- The pass of 7.7 takes lot 4 first: the same score as lot 9's, and an earlier due minute. -/
theorem test_worked_best_pair :
    let pair (l : LotSlot) (c : CellNo) (due score : Nat) : Pair :=
      { lot := l, cell := c, due := due, score := score, slack := 0, setup := 0, run := 0 }
    bestPair [pair 4 11 10090 10024, pair 4 29 10090 9275, pair 2 29 10150 9900, pair 9 11 10150 10024,
      pair 9 29 10150 9900] = some (pair 4 11 10090 10024) := by decide +kernel

/-! ## Steps -/

theorem test_step_reset_idles : step State.reset = .next State.reset.idle := rfl

theorem test_step_start :
    after (.start (some (Vector.replicate 64 0))) State.reset (fun t => t.running && t.os.slotCount = 16 &&
      t.ru.filling = some .a && t.ru.sequence = 1) = true := by decide +kernel

/-- The setup block of zeros: every lower end of Table 10-3. -/
theorem test_setup_block_low_ends :
    let y := Setup.ofBytes (Vector.replicate 64 0)
    (y.boardBase = 0 ∧ y.baseA = 0 ∧ y.baseB = 0 ∧ y.slotCount = 16 ∧ y.winStart = 0 ∧ y.winStop = 0 ∧ y.pageLength = 64 ∧
      y.scanPacer = 1 ∧ y.idleClose = 1 ∧ y.closeOnUrgent = false ∧ y.windows = Vector.replicate 4 (1, 1)) ∧
    y.params = { mode := .confirm, window := 1, pacer := 0, kitMinutes := 0, transitionMinutes := 0, priorityWeight := 0,
                 setupWeight := 0 } := by decide +kernel

/-- The setup block of ones: every upper end of Table 10-3, and bits 0..5 of the addresses taken as 0. -/
theorem test_setup_block_high_ends :
    let y := Setup.ofBytes (Vector.replicate 64 255)
    (y.boardBase = 0xFFFFFFFFFFFFFFC0 ∧ y.baseA = 0xFFFFFFFFFFFFFFC0 ∧ y.baseB = 0xFFFFFFFFFFFFFFC0 ∧ y.slotCount = 256 ∧
      y.winStart = 255 ∧ y.winStop = 255 ∧ y.pageLength = 4096 ∧ y.scanPacer = 255 ∧ y.idleClose = 255 ∧
      y.closeOnUrgent = true ∧ y.windows = Vector.replicate 4 (15, 15)) ∧
    y.params = { mode := .auto, window := 60, pacer := 60, kitMinutes := 255, transitionMinutes := 255,
                 priorityWeight := 4096, setupWeight := 63 } := by decide +kernel

/-- START records the mapped cell that the new window 1..1 takes in, and the one that it leaves out. -/
theorem test_start_records_cell_states :
    let s := ((State.reset.modCell 3 fun x => { x with mapping := some { port := 0, tap := 1 }, state := .parked }).modCell 5
      fun x => { x with mapping := some { port := 3, tap := 2 }, state := .silent, heard := true, silence := 9 })
    after (.start (some (Vector.replicate 64 0))) s (fun t => t.ru.fifo.map Record.report =
      [.cellState 3 .parked .silent .start, .cellState 5 .silent .parked .start] && (t.cell 5).silence = 0) = true := by
  decide +kernel

theorem test_poll_frame_bytes : pollFrame 1 true = [1, 7, 1, 1, 0xF4, 0x54] := by decide +kernel

theorem test_halt_frame_bytes :
    commandFrame 15 0x1234 .haltAtIndex = [15, 11, 2, 0x34, 0x12] ++ leBytes 2 (crc16 [15, 11, 2, 0x34, 0x12]).toNat ∧
    commandFrame 15 0x1234 .go = [15, 10, 2, 0x34, 0x12, 0x1C, 0x89] := by decide +kernel

/-- A desired command in the CELL image is an optional group behind its presence flag (R158), KIT_REQUEST first and none after. -/
theorem test_desired_command_bytes :
    desiredBytes (some (.kitRequest 0x0ABC)) = [1, 8, 0xBC, 0x0A] ++ List.replicate 22 0 ∧
    desiredBytes (some (.load 0x01020304 .hot 15 10 (Vector.replicate 16 65))) =
      [1, 9, 4, 3, 2, 1, 2, 15, 10, 0] ++ List.replicate 16 65 ∧
    desiredBytes none = List.replicate 26 0 := by decide +kernel

/-- The CELL image carries that group behind the protocol-error count, and its last field, soak started of the insertion
record, stands within its 256 bytes (R161). -/
theorem test_cell_image_desired_command :
    let s := (testing { insertion .running with soakStarted := true }).modCell 0 fun x =>
      { x with slot := { x.slot with desired := some .go } }
    ((s.cellImage 0).drop 37).take 26 = [1, 10] ++ List.replicate 24 0 ∧
    (s.cellImage 0).drop 201 = 1 :: List.replicate 54 0 := by decide +kernel

theorem test_checkpoint_bytes :
    ({ second := 0x01020304, report := .checkpoint 258 .final 47 [(.notEvaluated, 0), (.noChange, 5), (.tripped, 1000000),
      (.reArmed, 65535), (.notEvaluated, 0), (.noChange, 1), (.tripped, 999999), (.reArmed, 7)] } : Record).bytes =
    [5, 0, 2, 1, 4, 3, 2, 1, 2, 48] ++
      [0, 0, 64, 1, 0, 4, 36, 244, 254, 255, 195, 0, 0, 64, 0, 0, 244, 35, 244, 30, 0, 192] := by decide +kernel

theorem test_release_bytes :
    let content : ReleaseContent :=
      { lotNumber := Vector.replicate 16 65, ship := 31, customer := 0x01020304, passSet := 0x8001,
        bins := (Vector.replicate 16 9).set 15 0x0203, released := 1, start := 2, totalFail := 65536, totalLoss := 0,
        deviation := true, stepCount := 4 }
    ({ second := 5, report := .release 511 content } : Record).bytes =
    [14, 0, 255, 1, 5, 0, 0, 0] ++ [32, 4, 1, 0, 1, 128, 1, 0, 2, 0, 4, 3, 2, 1, 0, 0, 1, 0, 0, 0, 0, 0, 0, 0] ++
      (List.replicate 16 65 ++ List.replicate 16 0) ++ ([9, 0, 3, 2] ++ List.replicate 28 0) := by decide +kernel

theorem test_start_unreadable : after (.start none) State.reset (fun t => t.os.part = .faulted &&
    t.os.faultSource = .setup && t.ru.cause = 32) = true := by decide +kernel

/-- A PUT_RECIPE of recipe 128 with every field at an end of its range. -/
def recipeArgs : RecipeArgs :=
  { number := 128, programId := 77, testerClass := 15, handlerClass := 1, tempClass := 2, soakMinutes := 255,
    kitCode := 4095, minSites := 8, maxSites := 8, cycleTime := 60000, passSet := 1, retestSet := 2, retestCap := 0 }

theorem test_put_recipe_answers : outcome (.putRecipe 0 recipeArgs) running = some 0 := by decide +kernel

theorem test_recipe_in_use : outcome (.dropRecipe 0 1) (withLot .queued) = some 7 := by decide +kernel

theorem test_unit_counts : after (.unit 0 1 1 1 0 3) (testing (insertion .running)) (fun t =>
    (t.insertion 0).any (fun i => i.unitsTested = 2 && i.runGap = 1 && i.runBins[0] = 1 && i.downCounter = 1) &&
    (t.lot 0).any (fun x => (x.step 1).gap = 1 && (x.step 1).tested = 2)) = true := by decide +kernel

theorem test_retest_moves : after (.unitRetest 0 1 1 1 5) (testing (insertion .running)) (fun t =>
    (t.insertion 0).any (fun i => i.runBins[0] = 1 && i.runBins[4] = 0 && i.retestsUsed = 5)) = true := by decide +kernel

theorem test_dispatch_pass_reserves : after .dispatchPass { idleCell with de := { idleCell.de with passPending := true } }
    (fun t => t.de.reservations.length = 1 && (t.lot 0).any (fun x => x.state = .reserved) && t.lm.queue = [] &&
      (t.cell 0).state = .reserved && t.ru.fifo.length = 3) = true := by decide +kernel

theorem test_confirm_starts : after (.confirm 0 1 0) reserved (fun t => t.hostByte 4098 = some 1 &&
    (t.cell 0).state = .busy && (t.insertion 0).any (fun i => i.state = .loading && i.siteMask = 255)) = true := by
  decide +kernel

theorem test_end_closes_short : after (.endOfRun 0 1 { totals := (Vector.replicate 16 0).set 4 1, loss := 0, highest := 1 })
    (testing (insertion .running)) (fun t => t.insertion 0 = none && (t.lot 0).any (fun x => x.state = .queued &&
      (x.step 1).runs.length = 1 && (x.step 1).runs.all fun r => r.outcome = some .short)) = true := by decide +kernel

theorem test_release_ships : after (.releaseShip 0 1 0) (shipped .complete (ship .opened [0])) (fun t =>
    t.hostByte 4098 = some 0 && t.hostByte 4100 = some 1 && (t.lot 0).any fun x => x.state = .released) = true := by
  decide +kernel

theorem test_line_stop_pauses : after (.setFloorMode 0 2) (testing (insertion .running)) (fun t =>
    (t.insertion 0).any (fun i => i.state = .pausing && i.pause.lineStop = some .haltAtIndex) &&
    (t.cell 0).slot.desired = some .haltAtIndex) = true := by decide +kernel

theorem test_third_load_failure : after (.loadTimerExpiry 0)
    ((testing (insertion .loading)).modCell 0 fun x => { x with loadFailures := 2 }) (fun t =>
      (t.cell 0).service = false && (t.cell 0).loadFailures = 3 && (t.cell 0).state = .outOfService) = true := by
  decide +kernel

theorem test_clock_wraps : after .minuteNotice { running with ft := { running.ft with clock := 4294967295, ms := 1000 } }
    (fun t => t.ft.clock = 0 && t.ft.ms = 0) = true := by decide +kernel

/-- A SET_CLOCK between the end of a second and its count: the clock counts on from the value loaded (R148). -/
theorem test_set_clock_counts_on : after (.setClock 0 7) { running with ft := { running.ft with clock := 59, ms := 1000 } }
    (fun t => t.ft.clock = 7 && after .minuteNotice t fun u => u.ft.clock = 8 && u.ft.ms = 0) = true := by decide +kernel

/-- A minute notice that has reached the next firing fires the pacer even if SET_CLOCK comes first (R149, log entry 15). -/
theorem test_pacer_fires_after_set_clock :
    after .minuteNotice { running with ft := { running.ft with clock := 59, ms := 1000, nextFiring := some 1 } }
      (fun t => after (.setClock 0 600) t fun u => after .dispatchPacerFire u fun v =>
        v.de.passPending && v.ft.nextFiring = some 15 && !v.ft.firing) = true := by decide +kernel

/-- The bytes of a slot: state, order code, arguments from offset 16. -/
def slotBytes (state code : Byte) (args : List Byte) : Vector Byte 64 :=
  Vector.ofFn fun k => ([state, code] ++ List.replicate 14 0 ++ args)[k.val]?.getD 0

/-- Host memory with bytes at two addresses. -/
def memory (a : Nat) (xs : List Byte) (b : Nat) (ys : List Byte) : HostView := fun x =>
  if a ≤ x ∧ x < a + xs.length then xs[x - a]? else if b ≤ x then ys[x - b]? else none

theorem test_slot_spells_order :
    running.slotCommand (memory 4096 (slotBytes 1 28 [7, 0, 0, 0]).toList 0 []) 0 = some (.setClock 0 7) ∧
    running.slotCommand (memory 4096 (slotBytes 2 28 [7, 0, 0, 0]).toList 0 []) 0 = none ∧
    running.slotCommand (memory 4096 (slotBytes 1 31 []).toList 0 []) 0 = some (.badOrder 0 31) ∧
    running.slotCommand (memory 4096 [1, 28] 0 []) 0 = some (.hostAccessFail .slotRead) := by decide +kernel

theorem test_slot_spells_limit_set :
    let slot := (slotBytes 1 14 [0, 0x20, 0, 0, 0, 0, 0, 0]).toList
    running.slotCommand (memory 4096 slot 0x2000 (orderArgBytes (.putLimitSet (limitArgs 1)))) 0 =
      some (.putLimitSet 0 (limitArgs 1)) ∧
    running.slotCommand (memory 4096 slot 0x2000 [1, 2]) 0 = some (.hostAccessFail (.limitBuffer 0)) := by decide +kernel

/-- A UNIT of site 2, bin 3, unit number 258 from tap 9; its retest; and the same characters with one bit changed. -/
theorem test_frame_spells_unit :
    receivedCommand 0 (tapFrame 9 4 [2, 3, 0, 2, 1]) = .unit 0 9 2 3 0 258 ∧
    receivedCommand 0 (tapFrame 9 4 [2, 3, 1, 7, 0]) = .unitRetest 0 9 2 3 7 ∧
    receivedCommand 0 ((tapFrame 9 4 [2, 3, 0, 2, 1]).set 3 6) = .badCrcFrame 0 ∧
    receivedCommand 0 (tapFrame 9 6 [0]) = .strayFrame 0 9 6 1 := by decide +kernel

theorem test_setup_block_address :
    let s : State := { running with os := { running.os with setupLo := 0x1007F, setupHi := 2 } }
    s.os.setupBlock = 0x200010040#64 ∧
    s.startCommand (memory 0x200010040 (List.replicate 64 5) 0 []) = .start (some (Vector.replicate 64 5)) ∧
    s.startCommand (memory 0x200010040 (List.replicate 63 5) 0 []) = .start none ∧
    s.windowWrite (fun _ => none) 12 1 = some (.registerWrite .control 1 none) := by decide +kernel

/-- A scrap of a lot whose insertion is SUSPENDED leaves the command ABORT (R114 step 5, log entry 36). -/
theorem test_scrap_suspended_aborts :
    let i : Insertion := { insertion .suspended with before := some .running }
    let s := (testing i).setLot 0 (some { lot .inTest with quarantined := true })
    after (.disposeLot 0 0 0) s (fun t => (t.cell 0).slot.desired = some .abort &&
      (t.insertion 0).any fun j => j.before = some .ending && j.abortRequested) = true := by decide +kernel

theorem test_page_closes_full : after .recordMove (withPage 7 (withRecords 1 running)) (fun t =>
    t.ru.pageA.state = .closed && t.ru.filling = some .b && t.ru.fifo = [] && t.hostByte 65536 = some 2 &&
      t.hostByte 131072 = some 1) = true := by decide +kernel


/-! ## The hypotheses of the statements can be met, clause by clause

The conjuncts of each theorem are the hypotheses of the statement of that name, in its order. -/

theorem test_takes : running.Takes 0 ∧ running.Takes 15 ∧ (withLot .queued).Takes 0 ∧ reserved.Takes 0 ∧
    (testing (insertion .running)).Takes 0 ∧ (withRecords 799 running).Takes 0 := by
  unfold State.Takes; decide +kernel

theorem test_hyp_EmptyQueuePassesTime :
    let at_ (ms : Nat) (clock : Word) : State := { State.reset with ft := { State.reset.ft with ms := ms, clock := clock } }
    State.reset.pending = [] ∧ running.due = [] ∧ (withPage 0 (withRecords 1 running)).due ≠ [] ∧
    ((at_ 998 0).due = [] ∧ (at_ 998 0).ft.ms + 1 < 1000) ∧
    ((at_ 999 58).due = [] ∧ 1000 ≤ (at_ 999 58).ft.ms + 1 ∧ (at_ 999 58).minuteEnds = false) ∧
    ((at_ 999 59).due = [] ∧ (at_ 999 59).minuteEnds = true) := by decide +kernel

theorem test_hyp_SoftResetHaltsThePart : (Instr.softReset = .softReset ∨ Instr.softReset = .pcieHotReset) ∧
    (Instr.pcieHotReset = .softReset ∨ Instr.pcieHotReset = .pcieHotReset) := by decide

/-- Two lots in the queue, in its order, each QUEUED. -/
theorem test_hyp_SoftResetHaltsThePart_queue :
    let s : State := { idleCell.setLot 1 (some { lot .queued with ready := 1 }) with lm :=
      { (idleCell.setLot 1 (some { lot .queued with ready := 1 })).lm with queue := [0, 1] } }
    (∀ l ∈ s.lm.queue, ∃ x ∈ s.lot l, x.state = .queued) ∧ s.lm.queue.Pairwise s.NotAfter := by
  refine ⟨by decide +kernel, List.pairwise_pair.2 fun x y hx hy => Or.inl ?_⟩
  obtain rfl : lot .queued = x := Option.some.inj hx
  obtain rfl : { lot .queued with ready := 1 } = y := Option.some.inj hy
  decide

theorem test_hyp_StartTakesTheSetupBlock :
    State.reset.os.part = .halted ∧ State.reset.de.reservations = [] ∧ running.os.part ≠ .halted ∧
    (∀ c, ∀ i ∈ (State.reset.setInsertion 0 (some (insertion .suspended))).insertion c, i.state = .suspended) ∧
    (withRecords 976 State.reset).ru.occupancy + 48 ≤ 1024 := by decide +kernel

theorem test_hyp_ScanPassesStartOnTheFlag :
    let s := { running with os := { running.os with pacerInterval := 5, pacer := 5, scanPending := true } }
    s.running = true ∧ State.reset.running = false ∧ s.os.pacerInterval ≤ s.os.pacer ∧ s.os.scanPending = true ∧
    (withRecords 799 s).ru.occupancy < 800 ∧ 800 ≤ (withRecords 800 s).ru.occupancy ∧ running.reaches 16 = false ∧
    State.reset.reaches 0 = false ∧ (withRecords 800 s).reaches 0 = true ∧ (withRecords 800 s).reaches 15 = true := by
  decide +kernel

theorem test_hyp_CausesClearAndEnableAndSend :
    let s := { running with ru := { running.ru with cause := 64#7 } }
    (∃ k : Fin 7, (0xFFFFFFFF#32).getLsbD k.val = true ∧ s.ru.causeEnable.getLsbD k.val = false ∧
      s.ru.cause.getLsbD k.val = true) ∧
    (∀ k : Fin 7, (0x3F#32).getLsbD k.val = true → s.ru.cause.getLsbD k.val = true →
      s.ru.causeEnable.getLsbD k.val = true) := by decide +kernel

theorem test_hyp_PageReturnFreesAClosedPage :
    let closed (part : PartState) (filling : Option PageId) : State :=
      { running with os := { running.os with part := part }
                     ru := { running.ru with pageA := { state := .closed, used := 8, sequence := 1 }, filling := filling } }
    ((closed .running none).running = true ∧ ((closed .running none).ru.page .a).state = .closed ∧
      (closed .running none).ru.filling = none) ∧ (closed .running (some .b)).ru.filling = some .b ∧
    ((closed .faulted none).os.part = .faulted ∧ ((closed .faulted none).ru.page .a).state = .closed) ∧
    (running.working = true ∧ (running.ru.page .b).state ≠ .closed) ∧ State.reset.os.part = .halted := by decide +kernel

theorem test_hyp_RegisterWritesAct :
    let s := withRecords 1024 running
    s.ru.occupancy ≤ 1024 ∧ (∀ k : Fin 64, memory 0 (List.replicate 64 5) 0 [] (0 + k.val) = some (Vector.replicate 64 5)[k]) ∧
    (∃ k : Fin 64, memory 0 (List.replicate 63 5) 0 [] (0 + k.val) = none) ∧
    64 * ((s.os.setupHi.toNat * 4294967296 + s.os.setupLo.toNat) / 64) = 0 ∧
    (∀ k ∈ [2, 32], ∀ r ∈ [Reg.ident, .setupAddrLo, .setupAddrHi, .control, .status, .cause, .causeEnable, .pageReturn],
      Reg.offset r ≠ k) := by decide +kernel

theorem test_hyp_FailedAccessesFaultThePart :
    (running.running = true ∧ running.os.scanAt ≠ none) ∧
    after (orderCommand 0 (.dropRecipe 1)) running (fun _ => true) = true ∧
    (withPage 7 (withRecords 1 running)).moveCase =
      .write .a { second := 7, report := .lotState 0 (some .queued) none 1 } [] := by decide +kernel

/-- The header writes: START; a move that closes its page, or finds no room in it, and opens the other; the idle close; a
return. -/
theorem test_hyp_FailedAccessesFaultThePart_headers :
    let s (used : Nat) := withPage used (withRecords 1 running)
    let idle : State := { s 1 with ru := { (s 1).ru with idle := 10 } }
    let closed : State := { running with ru := { running.ru with pageB := { state := .closed, used := 8, sequence := 1 } } }
    let urgent : State := { s 6 with ru := { (s 6).ru with
      closeOnUrgent := true, fifo := [{ second := 0, report := .shipReleased 0 .normal 0 .all 1 0 5 5 }] } }
    (State.reset.os.part = .halted ∧ after (.start (some (Vector.replicate 64 0))) State.reset (fun _ => true) = true) ∧
    ((s 8).running = true ∧ (s 8).ru.filling = some .a ∧ (s 8).ru.fifo ≠ [] ∧
      (s 8).ru.pageLength < ((s 8).ru.page .a).used + 1) ∧
    (((s 7).ru.page .a).used + 1 = (s 7).ru.pageLength ∧ after .recordMove (s 7) (fun t => t.ru.filling = some .b) = true) ∧
    ((urgent.ru.page .a).used + 1 < urgent.ru.pageLength ∧ urgent.ru.closeOnUrgent = true ∧
      after .recordMove urgent (fun t => t.ru.filling = some .b) = true) ∧
    (1 ≤ (idle.ru.page .a).used ∧ idle.ru.idleClose ≤ idle.ru.idle ∧
      after .idleTimerExpiry idle (fun t => t.ru.filling = some .b) = true) ∧
    ((closed.ru.page .b).state = .closed ∧ closed.ru.filling = none ∧ (1 : Word).getLsbD 0 = decide (PageId.b = .b) ∧
      after (.pageReturn 1) closed (fun _ => true) = true) ∧
    ((s 7).ru.baseA.toNat + 32 * ((s 7).ru.pageLength + 1) ≤ (s 7).ru.baseB.toNat ∧
      ((s 7).ru.page .a).used ≤ (s 7).ru.pageLength ∧ ((s 7).ru.page .b).used ≤ (s 7).ru.pageLength) := by decide +kernel

theorem test_hyp_OrdersAreTakenAndAnswered : ∀ kind index buffer, Order.dispatchNow ≠ .read kind index buffer := by
  intro _ _ _ h; cases h

theorem test_hyp_RefusedOrdersChangeNothing :
    (outcome (orderCommand 0 (.dropRecipe 0)) running = some 3) ∧ ((0 : Byte) = 0) ∧ 30 < (31 : Byte).toNat ∧
    30 < (255 : Byte).toNat := by decide +kernel

theorem test_hyp_OrderBytesReadBack : (Order.bad 0).wellFormed = true ∧ (Order.bad 31).wellFormed = true ∧
    (Order.putLimitSet (limitArgs 1)).wellFormed = true ∧ (Order.read 255 65535 0xFFFFFFFFFFFFFFFF).wellFormed = true := by
  decide

theorem test_hyp_OrderBytesReadBack_bytes :
    let b := slotBytes 1 28 [7, 0, 0, 0]
    let v := slotBytes 1 14 [0, 0x20, 0, 0, 0, 0, 0, 0]
    let mem := memory 4096 b.toList 0 []
    let bs := orderArgBytes (.putLimitSet (limitArgs 1))
    ((∀ k : Fin 64, mem (running.slotAddr 0 + k.val) = some b[k]) ∧ b[0] = 1 ∧ b[1] = orderCode (.setClock 7) ∧
      b.toList.drop 16 = orderArgBytes (.setClock 7) ++ List.replicate 44 0) ∧
    (∃ k : Fin 64, memory 4096 [1] 0 [] (running.slotAddr 0 + k.val) = none) ∧ (slotBytes 3 28 [])[0] ≠ 1 ∧
    (v[0] = 1 ∧ v[1] = 14 ∧ (limitArgs 1).entries.length = (limitArgs 1).entryCount.toNat ∧
      (limitArgs 1).entryCount.toNat ≤ 8 ∧ v.toList.drop 16 = leBytes 8 (0x2000 : Addr).toNat ++ List.replicate 40 0) ∧
    (∀ k (h : k < bs.length), memory 4096 v.toList 0x2000 bs ((0x2000 : Addr).toNat + k) = some bs[k]) ∧
    (∀ k (h : k < bs.length), memory 4096 v.toList 0x2000 (bs.take 24) ((0x2000 : Addr).toNat + k) = some bs[k] ∨
      memory 4096 v.toList 0x2000 (bs.take 24) ((0x2000 : Addr).toNat + k) = none) ∧
    (24 < bs.length ∧ memory 4096 v.toList 0x2000 (bs.take 24) ((0x2000 : Addr).toNat + 24) = none) := by decide +kernel

theorem test_hyp_OrderBytesReadBack_frames :
    [(9 : Byte), 4] ≠ [] ∧ [(9 : Byte), 4].length < 3 ∧ [(0 : Byte)].length ≠ (0 : Byte).toNat + 2 ∧
    [(0 : Byte)].length = (1 : Byte).toNat ∧ (0 : Half) ≠ crc16 [9, 6, 1, 0] ∧ crc16 [9, 6, 1, 0] = crc16 [9, 6, 1, 0] ∧
    ((6 : Byte), (1 : Byte)) ∉ [((1 : Byte), (7 : Byte)), (2, 11), (3, 5), (4, 5), (5, 36), (6, 0)] ∧
    ((7 : Byte), (0 : Byte)) ∉ [((1 : Byte), (7 : Byte)), (2, 11), (3, 5), (4, 5), (5, 36), (6, 0)] := by decide +kernel

theorem test_hyp_ReadWritesRecordImages :
    let s := ((((held (lot .queued) [hold 1 .opened]).setLot 511 (some (lot .queued))).setShip 0 (some
      (ship .opened [0]))).setShip 31 (some (ship .opened [])))
    ((0 : Half).toNat = (0 : LotSlot).val ∧ s.lot 0 ≠ none) ∧ ((511 : Half).toNat = (511 : LotSlot).val ∧ s.lot 511 ≠ none) ∧
    ((1 : Half).toNat = number (0 : CellNo) ∧ (48 : Half).toNat = number (47 : CellNo)) ∧ s.hold? 1 ≠ none ∧
    ((1 : Half).toNat = number (0 : ShipNo) ∧ s.ship 0 ≠ none) ∧ ((32 : Half).toNat = number (31 : ShipNo) ∧ s.ship 31 ≠ none) ∧
    512 ≤ (512 : Half).toNat ∧ 48 < (49 : Half).toNat ∧ 32 < (33 : Half).toNat ∧ 3 < (4 : Byte).toNat ∧
    s.lot 1 = none ∧ s.hold? 2 = none ∧ s.ship 1 = none := by decide +kernel

theorem test_hyp_PutRecipeWritesTheRecord :
    let good (a : RecipeArgs) : Bool := TempClass.ofCode? a.tempClass.toNat = some .hot ∧
      (1 ≤ a.testerClass.toNat ∧ a.testerClass.toNat ≤ 15) ∧ (1 ≤ a.handlerClass.toNat ∧ a.handlerClass.toNat ≤ 15) ∧
      (1 ≤ a.kitCode.toNat ∧ a.kitCode.toNat ≤ 4095) ∧ (1 ≤ a.minSites.toNat ∧ a.minSites.toNat ≤ 8) ∧
      (1 ≤ a.maxSites.toNat ∧ a.maxSites.toNat ≤ 8) ∧ (1 ≤ a.cycleTime.toNat ∧ a.cycleTime.toNat ≤ 60000) ∧
      a.passSet ≠ 0 ∧ a.retestSet &&& a.passSet = 0 ∧ a.minSites.toNat ≤ a.maxSites.toNat
    (recipeArgs.number.toNat = number (127 : RecipeNo) ∧ good recipeArgs ∧ running.recipe? 127 = none) ∧
    (∃ l, ∃ x ∈ (withLot .queued).lot l, ∃ st ∈ x.steps, st.recipe = 0) ∧ (withLot .queued).recipe? 0 ≠ none ∧
    { recipeArgs with number := 1 }.number.toNat = number (0 : RecipeNo) ∧ 128 < (129 : Byte).toNat ∧ 2 < (3 : Byte).toNat ∧
    ¬ good { recipeArgs with kitCode := 4096 } ∧ ¬ good { recipeArgs with retestSet := 1 } ∧
    ¬ good { recipeArgs with cycleTime := 60001 } ∧ ¬ good { recipeArgs with passSet := 0 } ∧
    ¬ good { recipeArgs with maxSites := 7 } := by decide +kernel

theorem test_hyp_DropRecipeEmptiesTheRecord :
    128 < (129 : Byte).toNat ∧ (1 : Byte).toNat = number (0 : RecipeNo) ∧ (128 : Byte).toNat = number (127 : RecipeNo) ∧
    running.recipe? 127 = none ∧
    ((withLot .queued).recipe? 0 ≠ none ∧ ∃ l, ∃ x ∈ (withLot .queued).lot l, ∃ st ∈ x.steps, st.recipe = 0) ∧
    ((running.setRecipe 0 (some recipe)).recipe? 0 ≠ none ∧
      ¬ ∃ l, ∃ x ∈ (running.setRecipe 0 (some recipe)).lot l, ∃ st ∈ x.steps, st.recipe = 0) := by
  refine ⟨by decide +kernel, by decide +kernel, by decide +kernel, by decide +kernel, by decide +kernel, by decide +kernel, ?_⟩
  rintro ⟨l, x, hx, _⟩
  exact absurd ((no_lots l).symm.trans hx) (by simp)

def lotArgs (steps : Byte) (priority : Byte) : LotArgs :=
  { lotNumber := Vector.replicate 16 66, startQuantity := 65535, dueMinute := 0xFFFFFFFF, priority := priority,
    stepCount := steps, steps := Vector.replicate 4 { recipe := 1, limitSet := 1, lossAllowance := 0 } }

/-- Recipe 1 and limit set 1, and no lot. -/
def stocked : State := (running.setRecipe 0 (some recipe)).setLimitSet 0 (some limits)

theorem test_hyp_AdmitLotFillsTheLowestSlot :
    (∀ a ∈ [lotArgs 1 0, lotArgs 4 3], (1 ≤ a.stepCount.toNat ∧ a.stepCount.toNat ≤ 4) ∧ a.startQuantity ≠ 0 ∧
      a.priority.toNat ≤ 3 ∧
      ∀ st ∈ a.steps.toList.take a.stepCount.toNat,
        (∃ r : RecipeNo, st.recipe.toNat = number r ∧ stocked.recipe? r ≠ none) ∧
        (∃ n : LimitNo, st.limitSet.toNat = number n ∧ stocked.limitSet? n ≠ none)) ∧
    (∀ m x, stocked.lot m = some x → x.lotNumber ≠ (lotArgs 4 3).lotNumber) ∧
    stocked.lot 0 = none ∧ (∀ m : LotSlot, m < 0 → stocked.lot m ≠ none) ∧
    ((withLot .queued).lot 1 = none ∧ ∀ m : LotSlot, m < 1 → (withLot .queued).lot m ≠ none) := by
  refine ⟨by decide +kernel, fun m x hx => ?_, by decide +kernel, by simp, by decide +kernel, fun m hm => ?_⟩
  · exact absurd ((no_lots m).symm.trans hx) (by simp)
  · rw [show m = 0 from Fin.ext (by have : m.val < 1 := hm; show m.val = 0; omega)]; decide +kernel

/-- Its refusals: the order's own fields, the first step whose recipe or whose limit set names none, a lot of the same number,
and a table of lots of other numbers without a free slot. -/
theorem test_hyp_AdmitLotFillsTheLowestSlot_refusals :
    let fields (a : LotArgs) : Bool := (1 ≤ a.stepCount.toNat ∧ a.stepCount.toNat ≤ 4) ∧ a.startQuantity ≠ 0 ∧
      a.priority.toNat ≤ 3
    let recipeNamed (st : StepArgs) : Bool := ∃ r : RecipeNo, st.recipe.toNat = number r ∧ stocked.recipe? r ≠ none
    let limitSetNamed (st : StepArgs) : Bool := ∃ n : LimitNo, st.limitSet.toNat = number n ∧ stocked.limitSet? n ≠ none
    let ending (st : StepArgs) : LotArgs := { lotArgs 4 3 with steps := (lotArgs 4 3).steps.set 3 st }
    let given (a : LotArgs) : List StepArgs := a.steps.toList.take a.stepCount.toNat
    (¬ fields (lotArgs 0 0) ∧ ¬ fields (lotArgs 5 0) ∧ ¬ fields (lotArgs 1 4) ∧
      ¬ fields { lotArgs 1 0 with startQuantity := 0 } ∧ fields (lotArgs 1 0) ∧ fields (lotArgs 4 3)) ∧
    (∀ r ∈ [(0 : Byte), 2, 128, 129], ¬ recipeNamed { recipe := r, limitSet := 1, lossAllowance := 0 }) ∧
    (∀ n ∈ [(0 : Byte), 2, 64, 65], ¬ limitSetNamed { recipe := 1, limitSet := n, lossAllowance := 0 }) ∧
    (∀ st ∈ [{ recipe := 129, limitSet := 65, lossAllowance := 0 }, { recipe := 1, limitSet := 65, lossAllowance := 0 }],
      (given (ending st))[3]? = some st ∧ ∀ m : Fin 3, ((given (ending st))[m.val]?.all recipeNamed ∧
        (given (ending st))[m.val]?.all limitSetNamed)) := by decide +kernel

theorem test_hyp_AdmitLotFillsTheLowestSlot_table :
    let twin : State := stocked.setLot 511 (some { lot .queued with lotNumber := (lotArgs 4 3).lotNumber })
    let full : State := { stocked with lm := { stocked.lm with lots := Vector.replicate 512 (some (lot .queued)) } }
    (twin.lot 511).map Lot.lotNumber = some (lotArgs 4 3).lotNumber ∧
    (∀ n y, twin.lot n = some y → y.lotNumber = (lotArgs 4 3).lotNumber → n = 511) ∧
    (∀ m, full.lot m ≠ none) ∧ ∀ m x, full.lot m = some x → x.lotNumber ≠ (lotArgs 4 3).lotNumber := by
  refine ⟨by decide +kernel, fun n y hy _ => ?_, fun m => ?_, fun m x hx => ?_⟩
  · by_cases h : n = 511
    · exact h
    · have hn : n.val ≠ 511 := fun e => h (Fin.ext e)
      have : (stocked.lot n) = none := no_lots n
      simp [State.lot, State.setLot, hn.symm] at hy this
      simp_all
  · simp [State.lot]
  · simp only [State.lot, Fin.getElem_fin, Vector.getElem_replicate, Option.some.injEq] at hx
    subst hx; decide

theorem test_hyp_LotsJoinTheQueueInOrder :
    lot .inTest ∈ (withLot .inTest).lot 0 ∧ (lot .inTest).state ≠ .queued ∧ lot .queued ∈ idleCell.lot 0 ∧
    (lot .queued).state = .queued ∧ LotState.reserved ≠ .queued := by decide +kernel

theorem test_hyp_AmendLotReplacesDueAndPriority :
    512 ≤ (512 : Half).toNat ∧ ((511 : Half).toNat = (511 : LotSlot).val ∧ running.lot 511 = none) ∧
    ((0 : Half).toNat = (0 : LotSlot).val ∧ lot .released ∈ (withLot .released).lot 0 ∧ (lot .released).state = .released) ∧
    (lot .inTest ∈ (withLot .inTest).lot 0 ∧ (lot .inTest).state ≠ .released ∧ (lot .inTest).state ≠ .scrapped) ∧
    3 < (4 : Byte).toNat ∧ (3 : Byte).toNat ≤ 3 := by decide +kernel

theorem test_hyp_RetireLotFreesTheSlot :
    let ended (x : Lot) : Bool := x.state = .released ∨ x.state = .scrapped ∨ (x.state = .complete ∧ x.empty = true)
    let clear (x : Lot) : Bool := x.holds = [] ∧ x.quarantined = false
    let inTest (s : State) : Bool := ∃ c, ∃ i ∈ s.insertion c, i.lot = 0
    let member (st : LotState) : Lot := { lot st with ship := some 0 }
    ¬ ended (lot .queued) ∧ (ended (lot .scrapped) ∧ clear (lot .scrapped) ∧ ¬ inTest (withLot .scrapped) ∧
      (lot .scrapped).ship = none) ∧ inTest ((testing (insertion .ending)).setLot 0 (some (lot .scrapped))) ∧
    (ended { member .complete with empty := true } ∧
      ∃ o ∈ (shipped .complete (ship .opened [0])).ship 0, o.state = .opened) ∧
    (ended (member .released) ∧ clear (member .released) ∧ member .released ∈ (shipped .released (ship .released [0])).lot 0 ∧
      ¬ inTest (shipped .released (ship .released [0])) ∧
      ship .released [0] ∈ (shipped .released (ship .released [0])).ship 0 ∧ (ship .released [0]).state = .released) := by
  decide +kernel

theorem test_hyp_MapCellTakesTheMapping :
    let m : Mapping := { port := 0, tap := 1 }
    (48 < (49 : Byte).toNat ∧ 4 ≤ (4 : Byte).toNat ∧ 15 < (16 : Byte).toNat) ∧
    ((48 : Byte).toNat = number (47 : CellNo) ∧ (3 : Byte).toNat = (3 : PortNo).val ∧ 1 ≤ (1 : Byte).toNat ∧
      (15 : Byte).toNat ≤ 15) ∧
    (testing (insertion .running)).insertion 0 ≠ none ∧ reserved.reservationOf 0 ≠ none ∧
    (idleCell.insertion 47 = none ∧ idleCell.reservationOf 47 = none ∧ (0 : CellNo) ≠ 47 ∧
      (idleCell.cell 0).mapping = some m ∧ (∀ e, e ≠ 47 → (idleCell.cell e).mapping = some m → e = 0)) ∧
    (∀ d, d ≠ 47 → (idleCell.cell d).mapping ≠ some { port := 3, tap := 15 }) := by decide +kernel

theorem test_hyp_UnmapCellDetachesTheCell :
    48 < (49 : Byte).toNat ∧ (1 : Byte).toNat = number (0 : CellNo) ∧ (running.cell 47).mapping = none ∧
    ((testing (insertion .running)).cell 0).mapping ≠ none ∧ (testing (insertion .running)).insertion 0 ≠ none ∧
    ((idleCell.cell 0).mapping ≠ none ∧ idleCell.insertion 0 = none ∧ idleCell.reservationOf 0 = none) := by decide +kernel

/-- Cell 1 in MISMATCH: frozen, with another serial. -/
def mismatched : State :=
  idleCell.modCell 0 fun x => { x with freeze := true, frozen := some { identity.compared with serial := 1 }, state := .mismatch }

theorem test_hyp_FreezeSetsTheFrozenIdentity :
    (48 < (49 : Byte).toNat ∧ 1 < (2 : Byte).toNat) ∧ (running.cell 0).mapping = none ∧
    ((idleCell.cell 0).mapping ≠ none ∧ (idleCell.cell 0).reported = some identity ∧
      (idleCell.cell 0).state = idleCell.derivedState 0 ∧ (idleCell.cell 0).state ≠ .mismatch) ∧
    ((mismatched.cell 0).state = mismatched.derivedState 0 ∧ (mismatched.cell 0).state = .mismatch) := by decide +kernel

theorem test_hyp_SetCellServiceSetsFlagAndPolicy :
    let s : State := { testing (insertion .running) with ft := { running.ft with mode := .lineStop } }
    (48 < (49 : Byte).toNat ∧ 1 < (2 : Byte).toNat ∧ 2 < (3 : Byte).toNat) ∧
    ((1 : Byte).toNat = number (0 : CellNo) ∧ (2 : Byte).toNat = StopPolicy.immediate.code ∧ (0 : Byte).toNat =
      StopPolicy.exempt.code) ∧
    ((idleCell.cell 0).state = idleCell.derivedState 0 ∧ idleCell.ft.mode ≠ .lineStop) ∧
    (s.ft.mode = .lineStop ∧ (s.cell 0).state = s.derivedState 0 ∧ .endOfIndex = (s.cell 0).policy ∧
      .immediate ≠ (s.cell 0).policy ∧ insertion .running ∈ s.insertion 0 ∧
      (insertion .running).takenBy.onHandler = true) := by decide +kernel

/-- A frame from tap 1 of port 0 is heard from cell 1, in the last place of its turn, and reaches the insertion. -/
theorem delivers_testing (i : Insertion) : (testing i).Delivers 0 1 0 i :=
  ⟨⟨{ cell := 0, frames := 3, wait := 0 }, rfl, rfl, by decide, rfl⟩, rfl, by
    show CellState.busy ≠ .silent; decide, by show CellState.busy ≠ .mismatch; decide⟩

theorem hears_idle : idleCell.Hears 0 1 0 := ⟨{ cell := 0, frames := 3, wait := 0 }, rfl, rfl, by decide, rfl⟩

def identFrame (sites : Byte) : IdentFrame :=
  { serial := 9, testerClass := 15, handlerClass := 1, siteCount := sites, temps := 7, kitCode := 4095, fresh := true }

theorem test_hyp_IdentIsAdopted :
    let inRange (f : IdentFrame) : Bool := (1 ≤ f.testerClass.toNat ∧ f.testerClass.toNat ≤ 15) ∧
      (1 ≤ f.handlerClass.toNat ∧ f.handlerClass.toNat ≤ 15) ∧ (1 ≤ f.siteCount.toNat ∧ f.siteCount.toNat ≤ 8) ∧
      (1 ≤ f.temps.toNat ∧ f.temps.toNat ≤ 7) ∧ (1 ≤ f.kitCode.toNat ∧ f.kitCode.toNat ≤ 4095)
    ¬ inRange (identFrame 0) ∧ ¬ inRange (identFrame 9) ∧ inRange (identFrame 1) ∧ inRange (identFrame 8) ∧
    idleCell.insertion 0 = none ∧ idleCell.reservationOf 0 = none ∧
    (idleCell.port 0).inWindow (1 : Byte).toNat = true := by decide +kernel

/-- An IDENT with an insertion on the cell: the kit of the recipe or another, SUSPENDED, entry into MISMATCH, a fresh tap, and
a reserved cell. -/
theorem test_hyp_IdentIsAdopted_insertion :
    let frozen (s : State) : State := s.modCell 0 fun x => { x with freeze := true, frozen := some identity.compared }
    let other : FrozenIdentity := { serial := 9, testerClass := 15, handlerClass := 1, siteCount := 8, temps := 7 }
    let s := testing (insertion .running)
    ((testing (insertion .kitWait)).port 0).inWindow (1 : Byte).toNat = true ∧
    (insertion .kitWait ∈ (testing (insertion .kitWait)).insertion 0 ∧ (insertion .kitWait).state = .kitWait ∧
      ((testing (insertion .kitWait)).cell 0).freeze = false ∧ (s.recipe 0).kitCode = 117 ∧ (4095 : Nat) ≠ 117 ∧
      lot .inTest ∈ (withLot .inTest).lot 0) ∧
    ((insertion .suspended).state = .suspended ∧ (insertion .suspended).takenBy.hasRun = false) ∧
    (((frozen s).cell 0).freeze = true ∧ ((frozen s).cell 0).frozen ≠ some other ∧ ((frozen s).cell 0).state ≠ .mismatch ∧
      (frozen s).reservationOf 0 = none ∧ (insertion .running).state ≠ .suspended) ∧
    ((identFrame 8).fresh = true ∧ (insertion .running).takenBy.hasRun = true ∧ (s.lot 0).map Lot.state = some .inTest ∧
      (s.lot 0).map Lot.current = some (insertion .running).step ∧ (s.lot 0).map (fun x => x.steps.length) = some 1 ∧
      (s.lot 0).map Lot.ship = some none ∧ (s.lot 0).map Lot.holds = some [] ∧ s.hm.holds.length < 256 ∧
      s.reservationOf 0 = none ∧ s.reservationOfLot 0 = none) ∧
    ((frozen reserved).insertion 0 = none ∧
      (frozen reserved).reservationOf 0 = some { cell := 0, lot := 0, expiry := 0, score := 9 } ∧
      lot .reserved ∈ (frozen reserved).lot 0 ∧ ((frozen reserved).cell 0).state ≠ .mismatch) := by decide +kernel

/-- Two polled cells at taps 1 and 15 of port 0, the arbiter at the given position. -/
def polling (arbiter : Option Nat) : State :=
  (idleCell.modPort 0 fun x => { x with turn := none, arbiter := arbiter }).modCell 47 fun x =>
    { x with mapping := some { port := 0, tap := 15 }, state := .silent }

theorem test_hyp_TurnsGoRoundThePolledCells :
    ((polling (some 1)).working = true ∧ (withRecords 799 (polling none)).ru.occupancy < 800 ∧
      ((polling (some 1)).port 0).turn = none) ∧
    ((polling (some 1)).polledTap 0 47 = some 15 ∧ (∀ d, (polling (some 1)).polledTap 0 d = some 15 → d = 47) ∧
      ((polling (some 1)).port 0).arbiter = some 1 ∧
      ∀ d, ∀ k ∈ (polling (some 1)).polledTap 0 d, 1 < k → 15 ≤ k) ∧
    ((polling (some 15)).polledTap 0 0 = some 1 ∧ (∀ d, ∀ k ∈ (polling (some 15)).polledTap 0 d, k ≤ 15) ∧
      ∀ d, ∀ k ∈ (polling (some 15)).polledTap 0 d, 1 ≤ k) ∧
    ((polling none).port 0).arbiter = none := by decide +kernel

theorem test_hyp_TurnsEnd : (idleCell.port 0).turn = some { cell := 0, frames := 3, wait := 0 } ∧
    idleCell.addressGood 0 { cell := 0, frames := 3, wait := 0 } 1 = true := by decide +kernel

theorem test_hyp_DiscardedFramesAreCounted :
    let formed (kind length : Byte) : Bool :=
      (kind, length) ∈ [((1 : Byte), (7 : Byte)), (2, 11), (3, 5), (4, 5), (5, 36), (6, 0)]
    let full : Turn := { cell := 0, frames := 4, wait := 0 }
    (idleCell.port 0).turn = some { cell := 0, frames := 3, wait := 0 } ∧ ¬ formed 7 0 ∧ ¬ formed 1 8 ∧ formed 6 0 ∧
    idleCell.addressGood 0 { cell := 0, frames := 3, wait := 0 } 2 = false ∧
    (idleCell.addressGood 0 full 1 = true ∧ 4 ≤ full.frames) := by decide +kernel

theorem test_hyp_StatusReplacesTheLastApplied :
    4 < (5 : Byte).toNat ∧ ((1 : Byte) ≠ 0 ∧ (7 : Byte).toNat < 8) ∧ 14 < (15 : Byte).toNat ∧ (4 : Byte).toNat ≤ 4 ∧
    (8 : Byte).toNat = CommandKind.kitRequest.code ∧ (14 : Byte).toNat = CommandKind.abort.code ∧
    idleCell.insertion 0 = none := by decide +kernel

theorem test_hyp_ClearLinkCountsReportsAndZeroes : 4 ≤ (4 : Byte).toNat ∧ (0 : Byte).toNat = (0 : PortNo).val ∧
    (3 : Byte).toNat = (3 : PortNo).val := by decide

theorem test_hyp_SilenceIsALinkLoss :
    let quiet (s : State) (b : Bool) : State := s.modCell 0 fun x => { x with silence := 5000, heard := b }
    let s := quiet (testing (insertion .running)) true
    (5000 ≤ (s.cell 0).silence ∧ (s.cell 0).mapping = some { port := 0, tap := 1 }) ∧
    ((quiet idleCell false).cell 0).heard = false ∧
    ((s.cell 0).heard = true ∧ (s.port 0).inWindow 1 = true ∧ (s.cell 0).state ≠ .silent) ∧
    ((quiet idleCell true).insertion 0 = none ∧ (quiet idleCell true).reservationOf 0 = none) ∧
    (insertion .running ∈ s.insertion 0 ∧ (insertion .running).state.onHandler = true) := by decide +kernel

theorem test_hyp_PauseOrdersChangeTheReason :
    let none_ : PauseSet := { hold := none, lineStop := none, cellOrder := none }
    let ordered : PauseSet := { none_ with cellOrder := some .haltAtIndex }
    (48 < (49 : Byte).toNat ∧ (1 : Byte).toNat = number (0 : CellNo) ∧ idleCell.insertion 0 = none) ∧
    (insertion .running ∈ (testing (insertion .running)).insertion 0 ∧ ordered.cellOrder = some .haltAtIndex ∧
      none_.cellOrder ≠ some .haltAtIndex) ∧
    (InsState.soaking ≠ .running ∧ InsState.soaking ≠ .pausing ∧ InsState.soaking ≠ .paused) ∧
    (none_.hold = none ∧ none_.lineStop = none ∧ none_.cellOrder = none) ∧ ordered.cellOrder ≠ none ∧
    ((testing (insertion .paused)).cell 0).slot.desired ≠ some .go ∧
    (((testing (insertion .paused)).modCell 0 fun x => { x with slot := { x.slot with desired := some .go } }).cell
      0).slot.desired = some .go := by decide +kernel

theorem test_hyp_EndRunEndsOrAbandons :
    let s := testing (insertion .loading)
    let suspended (b : InsState) : Insertion := { insertion .suspended with before := some b }
    (48 < (49 : Byte).toNat ∧ (1 : Byte).toNat = number (0 : CellNo) ∧ idleCell.insertion 0 = none) ∧
    ((suspended .running).state = .suspended ∧ (suspended .running).before ≠ some .kitWait ∧
      (suspended .running).before ≠ some .loading) ∧
    ((insertion .loading).state = .loading ∧ insertion .loading ∈ s.insertion 0 ∧ (s.lot 0).map Lot.state = some .inTest ∧
      (s.cell 0).state = s.derivedState 0 ∧ s.reservationOf 0 = none) ∧ (suspended .kitWait).before = some .kitWait := by
  decide +kernel

theorem test_hyp_InsertionTimersExpire :
    let soaked : Insertion := { insertion .soaking with soakStarted := true }
    let s := testing (insertion .kitWait)
    ((insertion .kitWait).state = .kitWait ∧ (insertion .kitWait).kitTimer = 0 ∧ (insertion .loading).loadTimer = 0) ∧
    ((s.lot 0).map Lot.state = some .inTest ∧ (s.cell 0).state = .busy ∧ s.derivedState 0 = .busy ∧
      s.reservationOf 0 = none) ∧
    (soaked.state = .soaking ∧ soaked.soakStarted = true ∧ soaked.soakTimer = 0) ∧
    (s.ft.mode ≠ .lineStop ∧ (s.cell 0).policy ≠ .exempt) ∧ { insertion .kitWait with kitTimer := 1 }.kitTimer ≠ 0 := by
  decide +kernel

theorem test_hyp_StatusMovesTheInsertion :
    let s := (testing (insertion .paused)).modCell 0 fun x => { x with slot := { x.slot with desired := some .go } }
    let back : Insertion := { insertion .suspended with before := some .running, resyncPending := true }
    (4 : Byte).toNat ≤ 4 ∧ (9 : Byte).toNat = CommandKind.load.code ∧ (10 : Byte).toNat = CommandKind.go.code ∧
    ((insertion .loading).state = .loading ∧ (insertion .loading).loadTag = 1 ∧ (insertion .loading).soakStarted = false) ∧
    ((insertion .pausing).state = .pausing ∧ ((testing (insertion .pausing)).cell 0).slot.desired ≠ some .go) ∧
    ((s.cell 0).slot.desired = some .go ∧ (1 : Byte).toNat ≤ 1 ∧ (insertion .paused).loadTag = 1) ∧
    ((insertion .suspended).state = .suspended ∧ (insertion .suspended).resyncPending = false) ∧
    (back.resyncPending = true ∧ back.before = some .running ∧ back.pause.hold = none ∧ back.pause.lineStop = none ∧
      back.pause.cellOrder = none ∧ (1 : Half).toNat ≤ back.unitsSeen ∧ (4 : Byte) ≠ 3) := by decide +kernel

/-- A STATUS in each state, and its codes; `readStatus` in PAUSING and PAUSED with a halt kind and with GO desired. -/
theorem test_hyp_StatusMovesTheInsertion_read :
    let going (st : InsState) : State := (testing (insertion st)).modCell 0 fun x => { x with
      slot := { x.slot with desired := some .go } }
    (∀ st ∈ [InsState.kitWait, .loading, .soaking, .running, .pausing, .paused, .suspended, .ending],
      (testing (insertion st)).insertion 0 = some (insertion st) ∧ ((testing (insertion st)).cell 0).slot.desired ≠ some .go ∧
        ((going st).cell 0).slot.desired = some .go ∧ (going st).insertion 0 = some (insertion st)) ∧
    ((8 : Byte).toNat = CommandKind.kitRequest.code ∧ (9 : Byte).toNat = CommandKind.load.code ∧ (2 : Byte) ≠ 3) ∧
    HandlerState.ofCode? 0 = some .idle ∧ HandlerState.ofCode? 1 = some .indexing ∧ HandlerState.ofCode? 2 = some .halted ∧
    HandlerState.ofCode? 3 = some .jammed ∧ (HandlerState.ofCode? 4).isSome = true := by decide +kernel

/-- A resync from each state before suspension, with units not seen, none, and more than the quantity; the reported kit the
recipe's and not; the pause set empty and not. -/
theorem test_hyp_StatusMovesTheInsertion_resync :
    let back (b : InsState) : Insertion := { insertion .suspended with before := some b, resyncPending := true }
    let halted : PauseSet := { hold := none, lineStop := none, cellOrder := some .haltAtIndex }
    let kit (s : State) : Option Nat := (s.cell 0).reported.map Identity.kitCode
    (∀ b ∈ [InsState.kitWait, .loading, .soaking, .running, .pausing, .paused, .ending],
      (back b).state = .suspended ∧ (back b).resyncPending = true ∧ (testing (back b)).insertion 0 = some (back b) ∧
        (testing (back b)).reservationOfLot 0 = none ∧ (testing (back b)).lot 0 ≠ none) ∧
    ((back .loading).takenBy.hasRun = false ∧ (back .soaking).takenBy.hasRun = true ∧ (back .ending).takenBy.hasRun = true) ∧
    ((1 : Half).toNat ≤ (back .running).unitsSeen ∧ (back .running).unitsSeen < (10 : Half).toNat ∧
      (10 : Half).toNat ≤ (back .running).expected ∧ (back .running).expected < (11 : Half).toNat ∧
      (back .running).quantityHold = false) ∧
    (kit (testing (back .kitWait)) = some ((testing (back .kitWait)).recipe 0).kitCode ∧
      kit ((testing (back .kitWait)).modCell 0 fun x => { x with reported := none }) = none) ∧
    (back .paused).pause.hold = none ∧ halted.cellOrder ≠ none := by decide +kernel

theorem test_hyp_UnitsAreCounted :
    let i := insertion .running
    let s := testing i
    (i.takenBy.hasRun = true ∧ (1 : Byte).toNat = number (0 : Site) ∧ i.siteMask.getLsbD 0 = true) ∧
    ((4 : Byte).toNat = number (3 : Site) ∧ i.siteMask.getLsbD 3 = true) ∧
    ((1 : Byte).toNat = number (0 : Bin) ∧ (16 : Byte).toNat = number (15 : Bin)) ∧
    (i.unitsSeen < (2 : Half).toNat ∧ (10 : Half).toNat ≤ i.expected) ∧ (s.lot i.lot).isSome = true := by decide +kernel

/-- A lot of two steps at its first, so that a unit passes on to the second. -/
theorem test_hyp_UnitsAreCounted_next :
    let x : Lot := { lot .inTest with steps := [lotStep, lotStep] }
    let s := (testing (insertion .running)).setLot 0 (some x)
    x ∈ s.lot 0 ∧ 1 ≤ (insertion .running).step ∧ x.steps[(insertion .running).step]? = some lotStep ∧
    lotStep.state ≠ .skipped := by decide +kernel

theorem test_hyp_UnitsOutOfPlaceAreNotCounted :
    let i := insertion .running
    let inMask (site : Byte) : Bool := ∃ k : Site, site.toNat = number k ∧ i.siteMask.getLsbD k.val = true
    idleCell.insertion 0 = none ∧ 2 ≤ (2 : Byte).toNat ∧ (insertion .loading).takenBy.hasRun = false ∧ ¬ inMask 0 ∧
    ¬ inMask 5 ∧ 16 < (17 : Byte).toNat ∧ (1 : Half).toNat ≤ i.unitsSeen ∧
    (i.takenBy.hasRun = true ∧ inMask 1 ∧ inMask 4 ∧ (16 : Byte) ≠ 0 ∧ (16 : Byte).toNat ≤ 16 ∧
      i.unitsSeen < (11 : Half).toNat ∧ i.expected < (11 : Half).toNat ∧ i.quantityHold = false) ∧
    { i with quantityHold := true }.quantityHold = true := by decide +kernel

theorem test_hyp_RetestsMoveOneCount :
    let i := insertion .running
    let r := (testing i).recipe i.recipe
    (0 < i.runBins[(4 : Bin)]) ∧
    (i.takenBy.hasRun = true ∧ (5 : Half).toNat = number (4 : Bin) ∧ (16 : Byte).toNat = number (15 : Bin) ∧
      r.retestSet.getLsbD 4 = true ∧ i.retestsUsed < r.retestCap) ∧
    16 < (17 : Half).toNat ∧ r.retestSet.getLsbD 15 = false ∧ i.runBins[(3 : Bin)] = 0 ∧
    r.retestCap ≤ { i with retestsUsed := 5 }.retestsUsed := by decide +kernel

theorem test_hyp_StartIndexTakesASample :
    let timed : Insertion := { insertion .running with lastIndex := some 0xFFFFFFFF }
    let sample (t : Nat) : Nat := max 1 (min 60000 ((t + 4294967296 - (0xFFFFFFFF#32).toNat) % 4294967296))
    let r := (testing timed).recipe 0
    (insertion .loading).takenBy.hasRun = false ∧
    (∃ k : Site, (0x10#8).getLsbD k.val = true ∧ (insertion .running).siteMask.getLsbD k.val = false) ∧
    (timed.takenBy.hasRun = true ∧
      ∀ k : Site, (0x0F#8).getLsbD k.val = true → timed.siteMask.getLsbD k.val = true) ∧
    (insertion .running).lastIndex = none ∧ (timed.lastIndex = some 0xFFFFFFFF ∧ timed.sampleVoid = false) ∧
    4 * r.cycleTime < sample 18000 ∧ sample 17999 ≤ 4 * r.cycleTime := by decide +kernel

theorem test_hyp_EndClosesTheRun :
    let i := insertion .running
    let s := testing i
    let x := { lot .inTest with steps := [{ lotStep with
      bins := (Vector.replicate 16 0).set 4 1, runs := [{ run with unitsTested := 1 }] }] }
    (insertion .loading).takenBy.hasRun = false ∧
    (i.takenBy.hasRun = true ∧ x ∈ s.lot i.lot ∧ x.state = .inTest ∧ x.ship = none ∧ x.current = i.step ∧ 1 ≤ i.step ∧
      i.step ≤ x.steps.length ∧ (x.step i.step).state = .opened ∧ s.reservationOfLot i.lot = none ∧
      s.reservationOf 0 = none ∧ s.derivedState 0 = .busy ∧ (s.cell 0).state = .busy) := by decide +kernel

/-- The closed clauses of END: a step accounted for, with and without graded units, last on the route or not. -/
theorem test_hyp_EndClosesTheRun_closed :
    let full (bin : Bin) : Vector Nat 16 := (Vector.replicate 16 0).set bin.val 10
    (full 0).toList.sum + 0 + 0 = lotStep.unitsIn ∧
    LotStep.gradeTotal recipe.passSet { lotStep with bins := full 2 } = 0 ∧
    LotStep.gradeTotal recipe.passSet { lotStep with bins := full 0 } ≠ 0 ∧ 1 = [lotStep].length ∧
    1 < [lotStep, lotStep].length := by decide +kernel

/-- The requests of a close and what becomes of them: totals that differ from the counts, a loss above the room and above the
allowance, a number above the quantity, four closed runs; a SCRAPPED lot, a list with room, a full list, a full table. -/
theorem test_hyp_EndClosesTheRun_requests :
    let s := testing (insertion .running)
    let four : List Hold := [hold 1 .opened, hold 2 .opened, hold 3 .opened, hold 4 .opened]
    let ended : Run := { run with endSecond := some 5 }
    let spent : LotStep := { lotStep with runs := [ended, ended, ended, run] }
    HoldOrigin.reconcile ≠ .limit ∧ (lot .scrapped).state = .scrapped ∧
    ((lot .inTest).state ≠ .scrapped ∧ (lot .inTest).state ≠ .released ∧ (lot .inTest).holds.length < 4 ∧
      s.hm.holds.length < 256) ∧
    ((held (lot .inTest) four).lot 0).map (fun x => decide (4 ≤ x.holds.length)) = some true ∧
    256 ≤ (List.replicate 256 (hold 1 .opened)).length ∧
    ((Vector.replicate 16 (0 : Half)).toList.map BitVec.toNat).sum ≠ (insertion .running).unitsTested ∧
    ((((Vector.replicate 16 (0 : Half)).set 0 1).toList.map BitVec.toNat).sum = (insertion .running).unitsTested) ∧
    (lotStep.unitsIn - (1 + 0 + 0) < (10 : Half).toNat ∧ lotStep.lossAllowance < 9) ∧
    ((insertion .running).unitsSeen < (11 : Half).toNat ∧ (insertion .running).expected < (11 : Half).toNat ∧
      (insertion .running).quantityHold = false) ∧
    (4 ≤ spent.runs.length ∧ ∀ r ∈ spent.runs.dropLast, r.endSecond ≠ none) := by decide +kernel

theorem test_hyp_PutLimitSetWritesTheSet :
    let named (e : EntryArgs) : Bool := e.metric.toNat ≤ 3 ∧ e.condition.toNat ≤ 3 ∧ e.holdClass.toNat ≤ 2 ∧
      (e.metric = 1 → 1 ≤ e.bin.toNat ∧ e.bin.toNat ≤ 16)
    let top (e : EntryArgs) : Nat := if e.metric = 3 then 65535 else 1000000
    let inRange (e : EntryArgs) : Bool := e.level1.toNat ≤ top e ∧ e.level2.toNat ≤ top e ∧ e.band.toNat ≤ top e
    let ordered (e : EntryArgs) : Bool := e.level2.toNat ≤ e.level1.toNat
    let a := limitArgs 1
    let e : EntryArgs := { metric := 1, bin := 16, level1 := 1000000, level2 := 0, condition := 3, holdClass := 2, band := 0,
                           enabled := 1 }
    let x : Lot := lot .inTest
    let s := testing (insertion .running)
    64 < (65 : Byte).toNat ∧ 2047 < (2048 : Half).toNat ∧ 8 < (9 : Byte).toNat ∧
    (a.minUnits ≠ 0 ∧ a.siteMinUnits ≠ 0 ∧ a.interval ≠ 0 ∧ a.interval.toNat ≤ 2047 ∧ a.entryCount.toNat ≤ 8) ∧
    (a.number.toNat = number (0 : LimitNo) ∧ (64 : Byte).toNat = number (63 : LimitNo)) ∧
    a.entries.take a.entryCount.toNat = [e] ∧ (named e ∧ inRange e ∧ ordered e) ∧
    ¬ named { e with bin := 17 } ∧ ¬ named { e with metric := 4 } ∧
    (named { e with level1 := 1000001 } ∧ ¬ inRange { e with level1 := 1000001 }) ∧
    (named { e with metric := 3 } ∧ ¬ inRange { e with metric := 3, level1 := 65536 }) ∧
    (inRange { e with level1 := 0, level2 := 1 } ∧ ¬ ordered { e with level1 := 0, level2 := 1 }) ∧
    (∃ y ∈ s.lot (insertion .running).lot, (y.step 1).limitSet = 0) ∧ (x.step 1).limitSet ≠ 63 := by decide +kernel

theorem test_hyp_DropLimitSetEmptiesTheRecord :
    64 < (65 : Byte).toNat ∧ (1 : Byte).toNat = number (0 : LimitNo) ∧ (64 : Byte).toNat = number (63 : LimitNo) ∧
    running.limitSet? 63 = none ∧
    ((withLot .queued).limitSet? 0 ≠ none ∧ ∃ l, ∃ x ∈ (withLot .queued).lot l, ∃ st ∈ x.steps, st.limitSet = 0) ∧
    ((running.setLimitSet 0 (some limits)).limitSet? 0 ≠ none ∧ ∀ l, (running.setLimitSet 0 (some limits)).lot l = none) :=
  ⟨by decide +kernel, by decide +kernel, by decide +kernel, by decide +kernel, by decide +kernel, by decide +kernel, no_lots⟩

theorem test_hyp_CountedUnitsAreMonitored :
    let i := insertion .running
    let s := testing i
    let st := ((s.lot 0).map fun x => x.step 1).getD lotStep
    let e : LimitEntry := { metric := .failRun, level1 := 2, level2 := 1, condition := .aboveL1, holdClass := .stopNow,
                            band := 1, enabled := true }
    (s.lot i.lot).isSome = true ∧ (withLot .scrapped).lot 0 = some (lot .scrapped) ∧ s.reservationOfLot i.lot = none ∧
    (s.limitSet st.limitSet).entries[0]? = some e ∧ (s.limitSet st.limitSet).entries[1]? = none ∧ e.metric = .failRun ∧
    ({ i with downCounter := 1 }.downCounter ≤ 1 ∧ 2 ≤ { st with runs := [{ run with unitsTested := 2 }] }.tested) ∧
    metricValue limits i st recipe.passSet .failRun = some 0 ∧
    metricValue limits { i with siteTested := Vector.replicate 8 0 } st recipe.passSet .siteSpreadPpm = none := by
  decide +kernel

/-- Metrics with two sites that qualify or with one, the end of a run, and a request that escalates. -/
theorem test_hyp_CountedUnitsAreMonitored_more :
    let i : Insertion := { insertion .running with siteTested := ((Vector.replicate 8 0).set 0 4).set 3 2,
                                                   sitePassed := ((Vector.replicate 8 0).set 0 3).set 3 1 }
    let st := { lotStep with runs := [{ run with unitsTested := 1 }] }
    let d : LimitDetail := { set := 0, position := 8, metric := .failRun, value := 3, units := 6 }
    let h : Hold := { hold 5 .opened with origin := .limit, limit := some d }
    let s := held (lot .queued) [h]
    let x := { lot .queued with holds := [5] }
    1 ≤ (st.runs.map Run.unitsTested).sum ∧ 1 ≤ st.tested ∧ lotStep.tested = 0 ∧
    (i.siteMask.getLsbD 0 = true ∧ i.siteMask.getLsbD 3 = true ∧ limits.siteMinUnits ≤ i.siteTested[0] ∧
      limits.siteMinUnits ≤ i.siteTested[3] ∧ ∀ k : Site, i.sitePassed[k] ≤ i.siteTested[k]) ∧
    (∀ k : Site, ¬ limits.siteMinUnits ≤ (insertion .running).siteTested[k]) ∧
    metricValue limits i st recipe.passSet .siteSpreadPpm = some 250000 ∧
    (x ∈ s.lot 0 ∧ x.state ≠ .scrapped ∧ x.state ≠ .released ∧ s.holdsOf x = [h] ∧ h.origin = .limit ∧ h.state = .opened ∧
      h.limit = some d ∧ s.ru.occupancy < 1024) := by decide +kernel

theorem test_hyp_PlaceHoldMakesAHold :
    let s := testing (insertion .running)
    2 < (3 : Byte).toNat ∧ 512 ≤ (512 : Half).toNat ∧ ((2 : Byte).toNat = HoldClass.stopNow.code) ∧
    (lot .released).state = .released ∧
    ((lot .complete).state ≠ .released ∧ (lot .complete).state ≠ .scrapped ∧
      lot .complete ∈ (withLot .complete).lot 0 ∧ (lot .complete).holds.length < 4 ∧
      (withLot .complete).hm.holds.length < 256 ∧ (∀ c, ∀ i ∈ (withLot .complete).insertion c, i.lot ≠ 0) ∧
      ∀ r ∈ (withLot .complete).de.reservations, r.lot ≠ 0) ∧
    (s.insertionOf 0 = some 0 ∧ insertion .running ∈ s.insertion 0 ∧ (insertion .running).pause.hold = none ∧
      (insertion .running).pause.lineStop = none ∧ (insertion .running).pause.cellOrder = none ∧
      s.reservationOfLot 0 = none) ∧
    (reserved.reservationOfLot 0 ≠ none ∧ (∀ c, ∀ i ∈ reserved.insertion c, i.lot ≠ 0) ∧ (lot .reserved).state = .reserved) ∧
    4 ≤ { lot .queued with holds := [1, 2, 3, 4] }.holds.length ∧ 256 ≤ (List.replicate 256 (hold 1 .opened)).length := by
  decide +kernel

theorem test_hyp_AckHoldAcknowledges :
    let s := held (lot .queued) [hold 65535 .acknowledged, hold 1 .opened]
    (65535 : Half) ≠ 0 ∧ s.hold? (2 : Half).toNat = none ∧ s.hold? (65535 : Half).toNat = some (hold 65535 .acknowledged) ∧
    s.hold? (1 : Half).toNat = some (hold 1 .opened) := by decide +kernel

theorem test_hyp_DisposeContinuesOrScraps :
    let s := held (lot .queued) [hold 1 .opened, hold 65535 .acknowledged]
    let paused : Insertion := { insertion .paused with pause := { (insertion .paused).pause with hold := some .haltNow } }
    let t : State := { (testing paused).setLot 0 (some { lot .inTest with holds := [7] }) with
      hm := { holds := [hold 7 .acknowledged], lastId := 7 } }
    let both : PauseSet := { hold := some .haltNow, lineStop := some .haltAtIndex, cellOrder := none }
    1 < (2 : Byte).toNat ∧ s.hold? 2 = none ∧ (s.hold? 1 = some (hold 1 .opened) ∧ (s.lot 0).isSome = true) ∧
    s.hold? (65535 : Half).toNat = some (hold 65535 .acknowledged) ∧ { lot .queued with quarantined := true }.quarantined = true ∧
    ((s.lot 0).map Lot.quarantined = some false ∧ (hold 1 .acknowledged).origin ≠ .reconcile ∧
      (∀ c, ∀ i ∈ s.insertion c, i.lot ≠ 0) ∧ (s.lot 0).map Lot.ship = some none) ∧
    (t.insertionOf 0 = some 0 ∧ paused ∈ t.insertion 0 ∧ paused.state = .paused ∧ (t.lot 0).map Lot.holds = some [7] ∧
      t.hold? 7 = some (hold 7 .acknowledged) ∧
      paused.pause = { hold := some .haltNow, lineStop := none, cellOrder := none } ∧
      (t.cell 0).slot.desired ≠ some .go) ∧
    (both.hold = some .haltNow ∧ { both with hold := none }.lineStop ≠ none) ∧
    ({ hold 1 .acknowledged with origin := .reconcile }.origin = .reconcile ∧ 1 ≤ (hold 1 .acknowledged).step ∧
      (hold 1 .acknowledged).step ≤ (lot .queued).steps.length) := by decide +kernel

theorem test_hyp_DisposeLotScrapsOrDowngrades :
    let x : Lot := { lot .queued with quarantined := true }
    let s := held x [hold 1 .acknowledged, hold 2 .opened]
    let t := held { x with ship := some 0 } [hold 1 .acknowledged]
    let ended : Run := { run with endSecond := some 5 }
    let spent : LotStep := { lotStep with runs := [ended, ended, ended, ended] }
    1 < (2 : Byte).toNat ∧ 512 ≤ (512 : Half).toNat ∧ (running.lot 511 = none) ∧ (lot .queued).quarantined = false ∧
    ((s.lot 0).map Lot.quarantined = some true ∧
      s.holdsOf { x with holds := [1, 2] } = [hold 1 .acknowledged] ++ hold 2 .opened :: []) ∧
    ((t.lot 0).map Lot.quarantined = some true ∧ ∀ g ∈ t.holdsOf { x with holds := [1] }, g.state ≠ .opened) ∧
    ((t.setShip 0 (some (ship .opened [0]))).ship 0 = some (ship .opened [0]) ∧ (ship .opened [0]).kind = .normal) ∧
    (x.ship = none ∧ 1 ≤ x.current ∧ x.current ≤ x.steps.length ∧
      ¬ (lotStep.state = .opened ∧ 4 ≤ lotStep.runs.length ∧ ∀ r ∈ lotStep.runs, r.endSecond ≠ none) ∧
      ¬ (x.state = .queued ∧ lotStep.state = .opened ∧ lotStep.accounted = lotStep.unitsIn)) ∧
    (spent.state = .opened ∧ 4 ≤ spent.runs.length ∧ ∀ r ∈ spent.runs, r.endSecond ≠ none) := by decide +kernel

/-- A scrap, by DISPOSE and by DISPOSE_LOT, in states whose cell states are the derived ones (R32): the lot's insertion in
KIT_WAIT and in RUNNING, and the lot a member of an auto-release order whose other member is ready. -/
theorem test_hyp_ScrapFindsDerivedCells :
    let x : Lot := { lot .inTest with quarantined := true, holds := [7] }
    let s (i : Insertion) : State := { (testing i).setLot 0 (some x) with
      hm := { holds := [hold 7 .acknowledged], lastId := 7 } }
    let derived (t : State) : Bool := (List.finRange 48).all fun c => (t.cell c).state = t.derivedState c
    let o : Ship := { ship .opened [0, 3] with auto := true }
    let member : State := (((s (insertion .kitWait)).setLot 0 (some { x with ship := some 0 })).setLot 3
      (some { lot .complete with ship := some 0 })).setShip 0 (some o)
    (derived (s (insertion .kitWait)) = true ∧ derived (s (insertion .running)) = true ∧ derived member = true) ∧
    ((s (insertion .kitWait)).hold? 7 = some (hold 7 .acknowledged) ∧ (s (insertion .kitWait)).lot 0 = some x ∧
      (hold 7 .acknowledged).lot = 0 ∧ ∀ g ∈ (s (insertion .kitWait)).holdsOf x, g.state ≠ .opened) ∧
    ((s (insertion .kitWait)).insertionOf 0 = some 0 ∧ (insertion .kitWait).takenBy = .kitWait ∧
      (insertion .running).takenBy.hasRun = true) ∧
    (o.lots.erase 0 ≠ [] ∧ x.state ≠ .released ∧ member.readyAt 3 = true ∧ member.reservationOfLot 0 = none) ∧
    after (.dispose 0 7 1) (s (insertion .kitWait)) (fun t => t.insertion 0 = none && t.de.passPending) = true ∧
    after (.disposeLot 0 0 0) member (fun t => (t.ship 0).any fun o => o.state = .released && o.lots = [3]) = true := by
  decide +kernel

/-- A downgrade meets the lot's insertion in each of the cases of the HOLD reason, and one that names another lot. -/
theorem test_hyp_DowngradeReachesTheInsertion :
    let paused (p : PauseSet) : Insertion := { insertion .paused with pause := p }
    let alone : PauseSet := { hold := some .haltNow, lineStop := none, cellOrder := none }
    let both : PauseSet := { hold := some .haltNow, lineStop := some .haltAtIndex, cellOrder := none }
    let x : Lot := { lot .inTest with quarantined := true, holds := [7] }
    let s (i : Insertion) : State := { (testing i).setLot 0 (some x) with
      hm := { holds := [hold 7 .acknowledged], lastId := 7 } }
    let rest (i : Insertion) : PauseSet := { i.pause with hold := none }
    (x.holds.Nodup ∧ (∀ h ∈ x.holds, (s (paused alone)).hold? h = some (hold 7 .acknowledged)) ∧ (hold 7 .opened).lot = 0) ∧
    ((s (paused alone)).insertionOf 0 = some 0 ∧ paused alone ∈ (s (paused alone)).insertion 0 ∧
      (s (paused alone)).insertionOf 0 ≠ some 47) ∧
    (insertion .running).pause.hold = none ∧
    ((paused alone).pause.hold ≠ none ∧ (paused alone).state = .paused ∧ (rest (paused alone)).lineStop = none ∧
      (rest (paused alone)).cellOrder = none) ∧
    ((paused both).pause.hold ≠ none ∧ (rest (paused both)).lineStop ≠ none) ∧
    ({ insertion .suspended with pause := alone }.pause.hold ≠ none ∧ (insertion .suspended).state ≠ .paused) := by
  decide +kernel

/-- A downgrade closes the step of an exhausted lot and of a QUEUED lot that is accounted for, in each case of R17. -/
theorem test_hyp_DowngradeClosesTheStep :
    let full : LotStep := { lotStep with bins := (Vector.replicate 16 0).set 0 10 }
    let lost : LotStep := { lotStep with loss := 10 }
    let x : Lot := { lot .queued with steps := [full], quarantined := true }
    let pass := (idleCell.recipe 0).passSet
    (x.state = .queued ∧ full.state = .opened ∧ full.accounted = full.unitsIn ∧ x.ship = none) ∧
    (LotStep.gradeTotal pass lost = 0 ∧ lost.accounted = lost.unitsIn) ∧
    (LotStep.gradeTotal pass full ≠ 0 ∧ x.current = x.steps.length) ∧
    { x with steps := [full, lotStep] }.current < [full, lotStep].length ∧
    after (.disposeLot 0 0 1) (idleCell.setLot 0 (some x)) (fun t => t.lm.queue = [] &&
      (t.lot 0).any fun y => y.state = .complete) = true ∧
    after (.disposeLot 0 0 1) (idleCell.setLot 0 (some { x with steps := [full, lotStep] })) (fun t => t.lm.queue = [0] &&
      (t.lot 0).any fun y => y.state = .queued && y.current = 2 && (y.step 2).unitsIn = 10) = true := by decide +kernel

theorem test_hyp_PairsAreEligibleAndScored :
    let x := lot .queued
    let r := idleCell.recipe 0
    x ∈ idleCell.lot 0 ∧ (idleCell.cell 0).reported = some identity ∧
    (idleCell.ft.mode = .run ∧ (idleCell.cell 0).state = .idle ∧ x.state = .queued ∧ x.holds = [] ∧ x.quarantined = false ∧
      1 ≤ lotStep.unitsIn - lotStep.accounted ∧ lotStep.unitsIn - lotStep.accounted ≤ 65535 ∧ x.bar = none ∧
      identity.testerClass = r.testerClass ∧ identity.handlerClass = r.handlerClass ∧
      identity.temps.getLsbD r.temp.code = true ∧ r.minSites ≤ identity.siteCount) ∧
    (lot .inTest).state ≠ .queued := by decide +kernel

theorem test_hyp_PassesAssignTheBestPair :
    let s (m : DispatchMode) : State := { idleCell with de := { idleCell.de with
      passPending := true, params := { idleCell.de.params with mode := m } } }
    let q : Pair := { lot := 0, cell := 0, due := 100, score := 9916, slack := 84, setup := 15, run := 1 }
    bestPair [q] = some q ∧ idleCell.lm.queue.Nodup ∧ [q].length ≤ 2 ∧ (lot .queued).state = .queued ∧
    ((s .confirm).cell 0).state = .idle ∧ running.de.passPending = false ∧ State.reset.running = false ∧
    800 ≤ (withRecords 800 idleCell).ru.occupancy ∧
    ((s .auto).de.passPending = true ∧ (s .auto).running = true ∧ (s .auto).ft.mode = .run ∧
      (withRecords 799 (s .auto)).ru.occupancy < 800) ∧
    running.candidates = [] ∧ (s .auto).candidates = [q] ∧ lot .queued ∈ (s .auto).lot 0 ∧ (s .auto).de.params.mode = .auto ∧
    ((s .confirm).de.params.mode = .confirm ∧ (s .confirm).candidates = [q] ∧
      ((s .confirm).cell 0).state = (s .confirm).derivedState 0) ∧
    (((s .auto).cell q.cell).state = .idle ∧ (s .auto).derivedState q.cell = .idle ∧
      ((s .auto).cell q.cell).reported = some identity) := by decide +kernel

theorem test_hyp_ConfirmStartsTheInsertion :
    (48 < (49 : Byte).toNat ∧ 512 ≤ (512 : Half).toNat) ∧ ((1 : Byte).toNat = number (0 : CellNo) ∧
      (0 : Half).toNat = (0 : LotSlot).val) ∧ (∀ r ∈ idleCell.de.reservations, ¬ (r.cell = 0 ∧ r.lot = 0)) ∧
    ((∃ r ∈ reserved.de.reservations, r.cell = 0 ∧ r.lot = 0) ∧ lot .reserved ∈ reserved.lot 0 ∧
      (lot .reserved).state = .reserved ∧ (reserved.cell 0).reported = some identity ∧ (reserved.cell 0).state = .reserved ∧
      reserved.derivedState 0 = .reserved) := by decide +kernel

theorem test_hyp_ReservationsEndInTheQueue :
    let r : Reservation := { cell := 0, lot := 0, expiry := 0, score := 9 }
    let later : State := { reserved with de := { reserved.de with reservations := [{ r with expiry := 1 }] } }
    (reserved.reservationOf 0 = some r ∧ lot .reserved ∈ reserved.lot r.lot ∧ reserved.insertion 0 = none ∧
      (reserved.cell 0).state = .reserved ∧ reserved.derivedState 0 = .reserved ∧ reserved.working = true ∧
      (withRecords 799 reserved).ru.occupancy < 800 ∧ r.expiry ≤ reserved.minute) ∧
    (later.minute < 1 ∧ 800 ≤ (withRecords 800 reserved).ru.occupancy ∧ State.reset.os.part = .halted) ∧
    idleCell.reservationOf 0 = none := by decide +kernel

theorem test_hyp_ShipOrdersAreOpenedAndFilled :
    let o := ship .opened []
    let s := (withLot .queued).setShip 0 (some o)
    let full : State := { running with ships := Vector.replicate 32 (some o) }
    let ready (x : Lot) : Bool := x.state = .complete ∧ x.empty = false ∧ x.holds = [] ∧ x.quarantined = false ∧
      ∀ st ∈ x.steps, st.gap = 0
    1 < (2 : Byte).toNat ∧ (∀ n, full.ship n ≠ none) ∧
    ((1 : Byte).toNat ≤ 1 ∧ s.ship 1 = none ∧ ∀ m : ShipNo, m < 1 → s.ship m ≠ none) ∧
    (32 < (33 : Byte).toNat ∧ 512 ≤ (512 : Half).toNat ∧ (32 : Byte).toNat = number (31 : ShipNo)) ∧ s.lot 511 = none ∧
    (s.ship 0 = some o ∧ lot .queued ∈ s.lot 0 ∧ o.state = .opened) ∧ (ship .released []).state = .released ∧
    (lot .scrapped).state = .scrapped ∧ { lot .queued with ship := some 5 }.ship = some 5 ∧
    (lot .queued).ship = none ∧ 16 ≤ (List.replicate 16 (3 : LotSlot)).length ∧ (List.replicate 15 (3 : LotSlot)).length < 16 ∧
    { lot .queued with deviation := true }.deviation = true ∧ (lot .queued).deviation = false ∧ o.auto = false ∧
    (ready (lot .complete) ∧ ¬ ready (lot .queued) ∧ { o with auto := true }.auto = true) := by decide +kernel

theorem test_hyp_MembersLeaveTheirOrder :
    let o := ship .opened [0, 3]
    let s := (shipped .complete o).setLot 3 (some { lot .complete with ship := some 0 })
    let ready (x : Lot) : Bool := x.state = .complete ∧ x.empty = false ∧ x.holds = [] ∧ x.quarantined = false ∧
      ∀ st ∈ x.steps, st.gap = 0
    32 < (33 : Byte).toNat ∧ 512 ≤ (512 : Half).toNat ∧ (1 : Byte).toNat = number (0 : ShipNo) ∧ s.ship 31 = none ∧
    (shipped .released (ship .released [0])).ship 0 = some (ship .released [0]) ∧
    (s.ship 0 = some o ∧ o.state = .opened ∧ (5 : LotSlot) ∉ o.lots ∧ (0 : LotSlot) ∈ o.lots ∧ o.auto = false ∧
      s.lot 0 ≠ none) ∧
    ({ o with auto := true }.auto = true ∧ o.lots.erase 0 ≠ [] ∧
      ∀ m ∈ o.lots.erase 0, m ≠ 0 ∧ (s.lot m).any ready = true) ∧
    ((ship .opened [0]).lots.erase 0 = [] ∧
      ∃ m ∈ o.lots.erase 0, ∀ y ∈ (s.setLot 3 (some { lot .inTest with ship := some 0 })).lot m, ¬ ready y) := by decide +kernel

theorem test_hyp_ReleaseShipReleasesTheMembers :
    let o := ship .opened [0, 3]
    let s := (shipped .complete o).setLot 3 (some (lot .queued))
    (32 < (33 : Byte).toNat ∧ 1 < (2 : Byte).toNat ∧ (1 : Byte).toNat = number (0 : ShipNo) ∧ (1 : Byte).toNat ≤ 1) ∧
    (running.ship 0 = none) ∧ (ship .released [0]).state = .released ∧ (ship .opened []).lots = [] ∧
    (s.ship 0 = some o ∧ o.lots = [0] ++ 3 :: [] ∧ (∀ m ∈ [(0 : LotSlot)], s.readyAt m = true) ∧ s.readyAt 3 = false) ∧
    (∀ m ∈ [(3 : LotSlot), 5], s.readyAt m = false) ∧ (∃ m ∈ o.lots, s.readyAt m = true) ∧ o.lots.Nodup := by decide +kernel

/-- An auto-release order of lots 0 and 3, lot 3 ready, and lot 0 its last unready member: by a hold, by quarantine, in test. -/
theorem test_hyp_ReleaseShipReleasesTheMembers_auto :
    let o : Ship := { ship .opened [0, 3] with kind := .deviation, auto := true }
    let x : Lot := { lot .complete with ship := some 0 }
    let with_ (y : Lot) (hs : List Hold) : State :=
      { ((shipped .complete o).setLot 0 (some y)).setLot 3 (some x) with hm := { holds := hs, lastId := 9 } }
    let ready (x : Lot) : Bool := x.state = .complete ∧ x.empty = false ∧ x.holds = [] ∧ x.quarantined = false ∧
      ∀ st ∈ x.steps, st.gap = 0
    let s := with_ { x with holds := [7] } [hold 7 .acknowledged]
    let q : Lot := { x with quarantined := true, steps := [{ lotStep with state := .closed }] }
    (s.ship 0 = some o ∧ o.state = .opened ∧ o.auto = true ∧ o.lots.Nodup ∧ (0 : LotSlot) ∈ o.lots ∧
      (∀ m ∈ o.lots, m ≠ 0 → s.readyAt m = true) ∧ s.reservationOfLot 0 = none) ∧
    ((7 : Half) ≠ 0 ∧ s.hold? (7 : Half).toNat = some (hold 7 .acknowledged) ∧ (hold 7 .acknowledged).origin ≠ .reconcile ∧
      ready { x with holds := [7].erase 7 } ∧ ∀ c, ∀ i ∈ s.insertion c, i.lot ≠ 0) ∧
    ((with_ q []).lot 0 = some q ∧ (with_ q []).holdsOf q = [] ∧ o.lots.erase 0 ≠ [] ∧ q.state ≠ .released ∧
      o.kind = .deviation ∧ q.holds = [] ∧ ready { q with quarantined := false } ∧ (∀ st ∈ q.steps, st.state ≠ .opened) ∧
      1 ≤ q.current ∧ q.current ≤ q.steps.length) := by decide +kernel

/-- The END that completes that lot: ten units in grade bin 1, nothing missing. -/
theorem test_hyp_ReleaseShipReleasesTheMembers_end :
    let i : Insertion := { insertion .running with unitsTested := 10, unitsSeen := 10 }
    let st : LotStep := { lotStep with bins := (Vector.replicate 16 0).set 4 1, runs := [{ run with unitsTested := 10 }] }
    let f : EndFrame := { totals := (Vector.replicate 16 0).set 0 10, loss := 0, highest := 10 }
    let bins : Vector Nat 16 := Vector.ofFn fun b : Bin => st.bins[b] - i.runBins[b] + f.totals[b].toNat
    i.takenBy.hasRun = true ∧ i.step = [st].length ∧ 1 ≤ i.step ∧ st.state = .opened ∧ LimitSet.blank.entries = [] ∧
    f.highest.toNat ≤ i.unitsSeen ∧ f.loss = 0 ∧ st.loss ≤ st.lossAllowance ∧ st.gap = i.runGap ∧
    (f.totals.toList.map BitVec.toNat).sum = i.unitsTested + i.runGap ∧ bins.toList.sum + st.loss = st.unitsIn ∧
    (∃ b : Bin, recipe.passSet.getLsbD b.val = true ∧ bins[b] ≠ 0) := by decide +kernel

theorem test_hyp_TheFloorClockCounts :
    let s (clock : Word) : State := { running with ft :=
      { running.ft with clock := clock, ms := 1000, nextFiring := some 1, firing := true } }
    (0 : Word).toNat / 60 = running.minute ∧ (60 : Word).toNat / 60 ≠ running.minute ∧
    (1000 ≤ (s 59).ft.ms ∧ (s 59).ft.clock ≠ 4294967295#32 ∧ (s 59).os.part ≠ .halted ∧
      (s 59).ft.clock.toNat % 60 = 59 ∧ (s 59).ft.nextFiring = some 1 ∧ 1 ≤ (s 59).minute + 1) ∧
    (s 58).ft.clock.toNat % 60 ≠ 59 ∧ (s 4294967295).ft.clock = 4294967295#32 ∧ running.ft.ms < 1000 ∧
    (s 60).ft.firing = true ∧ State.reset.os.part = .halted ∧ running.ft.firing = false := by decide +kernel

theorem test_hyp_SetFloorModeStopsTheLine :
    let stopped : State := { testing (insertion .running) with ft := { running.ft with mode := .lineStop } }
    2 < (3 : Byte).toNat ∧ (0 : Byte).toNat = FloorMode.run.code ∧ (2 : Byte).toNat = FloorMode.lineStop.code ∧
    idleCell.insertion 0 = none ∧ insertion .running ∈ (testing (insertion .running)).insertion 0 ∧
    ((testing (insertion .running)).ft.mode ≠ .lineStop ∧ (insertion .running).takenBy.onHandler = true ∧
      ((testing (insertion .running)).cell 0).policy ≠ .exempt) ∧
    (FloorMode.run ≠ .lineStop ∧ stopped.ft.mode = .lineStop) := by decide +kernel

theorem test_hyp_RecordsMoveIntoPages :
    let s (used n : Nat) : State := withPage used (withRecords n running)
    let urgent : State := { s 6 0 with ru := { (s 6 0).ru with
      closeOnUrgent := true, fifo := [{ second := 0, report := .shipReleased 0 .normal 0 .all 1 0 5 5 }] } }
    (1024 < (s 0 1024).ru.occupancy + 1 ∧ (s 0 1023).ru.occupancy + 1 ≤ 1024) ∧
    (State.reset.running = false ∧ running.ru.filling = none ∧ (s 0 0).ru.fifo = []) ∧
    ((s 7 1).ru.baseA.toNat + 32 * ((s 7 1).ru.pageLength + 1) ≤ (s 7 1).ru.baseB.toNat ∧ 8 ≤ (s 7 1).ru.pageLength) ∧
    ((s 7 1).running = true ∧ (s 7 1).ru.filling = some .a ∧ (s 7 1).ru.fifo ≠ []) ∧
    (s 8 1).ru.pageLength < ((s 8 1).ru.page .a).used + 1 ∧
    (((s 6 1).ru.page .a).used + 1 < (s 6 1).ru.pageLength ∧ (s 6 1).ru.closeOnUrgent = false ∧
      (Report.lotState 0 (some .queued) none 1).urgent = false) ∧
    ((s 7 1).ru.page .a).used + 1 = (s 7 1).ru.pageLength ∧
    ((urgent.ru.page .a).used + 1 < urgent.ru.pageLength ∧ urgent.ru.closeOnUrgent = true ∧
      (Report.shipReleased 0 .normal 0 .all 1 0 5 5).urgent = true ∧
      (Report.shipReleased 0 .normal 0 .all 1 0 5 5).places = 1) ∧
    ((s 7 1).ru.page (otherPage .a)).state = .free ∧
    (1 ≤ ((s 1 0).ru.page .a).used ∧ { (s 1 0).ru with idle := 10 }.idleClose ≤ { (s 1 0).ru with idle := 10 }.idle) ∧
    ((s 1 0).ru.idle < (s 1 0).ru.idleClose ∧ ((s 0 0).ru.page .a).used = 0) := by decide +kernel

theorem test_hyp_EveryStepKeepsTheInvariants : ∃ t, step State.reset = .next t := ⟨_, rfl⟩

/-- The unit counts agree in a run with a unit counted and with one missed, and not with one seen twice over (R69). -/
theorem test_tallies :
    let i := insertion .running
    i.Tallies ∧ { i with unitsSeen := 10, runGap := 9 }.Tallies ∧ ¬ { i with unitsSeen := 2 }.Tallies ∧
    ¬ { i with unitsSeen := 11, runGap := 10 }.Tallies := by
  unfold Insertion.Tallies; decide +kernel

end Sys2Proof.Slice0
end

section
namespace Sys2Proof.Machine

/-! ## The invariants kept by every step -/

variable {s t : State}

/-- The state that a command answers is the one it was shown to answer. -/
theorem State.Sound.ofNext {u : State} (k : u.Sound) (h : (.next u : Host.Outcome State Fault Refusal) = .next t) :
    t.Sound := by
  injection h with e
  exact e ▸ k

/-- The command of an order keeps the invariants. -/
theorem State.Sound.ofOrder (k : s.Sound) (slot : BoardSlot) (o : Order)
    (h : exec (orderCommand slot o) s = .next t) : t.Sound :=
  (k.order slot o).ofNext ((exec_orderCommand slot o s).symm.trans h)

/-- Every command keeps the invariants. -/
theorem State.Sound.exec (k : s.Sound) (i : Instr) (h : exec i s = .next t) : t.Sound := by
  cases i with
  | powerOnReset => exact k.powerOn.ofNext h
  | pcieHotReset => exact k.softReset.ofNext h
  | softReset => exact k.softReset.ofNext h
  | start setup => exact (k.start setup).ofNext h
  | scan => exact k.scan.ofNext h
  | causeWrite value => exact (k.clearCauses value).ofNext h
  | causeEnableWrite value => exact (k.writeEnable value).ofNext h
  | pageReturn value => exact (k.returnPage _).ofNext h
  | registerWrite reg value setup => exact (k.writeRegister reg value setup).ofNext h
  | hostAccessFail access => exact (k.failAccess access).ofNext h
  | scanPacerExpiry => exact k.expireScanPacer.ofNext h
  | scanPass => exact k.startScan.ofNext h
  | badOrder slot code => exact k.ofOrder slot (.bad code) h
  | putRecipe slot a => exact k.ofOrder slot (.putRecipe a) h
  | dropRecipe slot r => exact k.ofOrder slot (.dropRecipe r) h
  | admitLot slot a => exact k.ofOrder slot (.admitLot a) h
  | amendLot slot lot due priority => exact k.ofOrder slot (.amendLot lot due priority) h
  | retireLot slot lot => exact k.ofOrder slot (.retireLot lot) h
  | mapCell slot cell port tap => exact k.ofOrder slot (.mapCell cell port tap) h
  | unmapCell slot cell => exact k.ofOrder slot (.unmapCell cell) h
  | freeze slot cell action => exact k.ofOrder slot (.freeze cell action) h
  | setCellService slot cell action policy => exact k.ofOrder slot (.setCellService cell action policy) h
  | clearLinkCounts slot port => exact k.ofOrder slot (.clearLinkCounts port) h
  | endRun slot cell => exact k.ofOrder slot (.endRun cell) h
  | pauseCell slot cell => exact k.ofOrder slot (.pauseCell cell) h
  | resumeCell slot cell => exact k.ofOrder slot (.resumeCell cell) h
  | putLimitSet slot a => exact k.ofOrder slot (.putLimitSet a) h
  | dropLimitSet slot n => exact k.ofOrder slot (.dropLimitSet n) h
  | placeHold slot lot holdClass reason => exact k.ofOrder slot (.placeHold lot holdClass reason) h
  | ackHold slot hold => exact k.ofOrder slot (.ackHold hold) h
  | dispose slot hold disposition => exact k.ofOrder slot (.dispose hold disposition) h
  | disposeLot slot lot disposition => exact k.ofOrder slot (.disposeLot lot disposition) h
  | confirm slot cell lot => exact k.ofOrder slot (.confirm cell lot) h
  | decline slot cell lot => exact k.ofOrder slot (.decline cell lot) h
  | dispatchNow slot => exact k.ofOrder slot .dispatchNow h
  | openShip slot kind customer auto => exact k.ofOrder slot (.openShip kind customer auto) h
  | addToShip slot ship lot => exact k.ofOrder slot (.addToShip ship lot) h
  | removeFromShip slot ship lot => exact k.ofOrder slot (.removeFromShip ship lot) h
  | cancelShip slot ship => exact k.ofOrder slot (.cancelShip ship) h
  | releaseShip slot ship mode => exact k.ofOrder slot (.releaseShip ship mode) h
  | setClock slot seconds => exact k.ofOrder slot (.setClock seconds) h
  | setFloorMode slot mode => exact k.ofOrder slot (.setFloorMode mode) h
  | read slot kind index buffer => exact k.ofOrder slot (.read kind index buffer) h
  | turnStart p => exact ((Acts.beginTurn p s).keepsSound k).ofNext h
  | listenTimeout p => exact ((Acts.listenExpired p s).keepsSound k).ofNext h
  | badCrcFrame p => exact ((Acts.receiveBad p s).keepsSound k).ofNext h
  | strayFrame p address kind length => exact ((Acts.receiveStray p address kind length s).keepsSound k).ofNext h
  | turnEnd p address => exact ((Acts.receiveTurnEnd p address s).keepsSound k).ofNext h
  | status p address f => exact ((Acts.receive p address _ (Moves.takeStatus f) s).keepsSound k).ofNext h
  | ident p address f =>
    exact ((Acts.receive p address _ (fun c u => (Moves.refl u).takeIdent c f) s).keepsSound k).ofNext h
  | startIndex p address n m =>
    exact ((Acts.receive p address _
      (Moves.deliver _ fun c u => (Moves.refl u).takeStartIndex c n m) s).keepsSound k).ofNext h
  | unit p address site bin kind n =>
    exact ((Acts.receive p address _
      (Moves.deliver _ fun c u => (Moves.refl u).takeUnitFrame c _ _ _ _) s).keepsSound k).ofNext h
  | unitRetest p address site bin original =>
    exact ((Acts.receive p address _
      (Moves.deliver _ fun c u => (Moves.refl u).takeRetest c _ _ _) s).keepsSound k).ofNext h
  | endOfRun p address f =>
    exact ((Acts.receive p address _ (Moves.deliver _ fun c u => (Moves.refl u).takeEnd c f) s).keepsSound k).ofNext h
  | silenceExpiry c => exact ((Moves.expireSilence c s).sound k).ofNext h
  | kitTimerExpiry c => exact (((Moves.refl s).kitExpiry c).sound k).ofNext h
  | loadTimerExpiry c => exact (((Moves.refl s).loadExpiry c).sound k).ofNext h
  | soakTimerExpiry c => exact (((Moves.refl s).soakExpiry c).sound k).ofNext h
  | dispatchPass => exact ((Moves.refl s).runPass.sound k).ofNext h
  | minuteNotice => exact k.minuteNotice.ofNext h
  | reservationExpiry c => exact (((Moves.refl s).expireReservation c).sound k).ofNext h
  | dispatchPacerFire => exact k.firePacer.ofNext h
  | recordMove => exact k.moveRecord.ofNext h
  | idleTimerExpiry => exact k.expireIdle.ofNext h

/-- Settles O59: a step is a command on the rest of the queue or, on an empty queue, the part's own time. -/
theorem everyStepKeepsTheInvariants : Obligations.EveryStepKeepsTheInvariants := by
  unfold Obligations.EveryStepKeepsTheInvariants
  intro s t k h
  unfold step at h
  split at h
  · next i rest _ => exact (k.setPending rest).exec i h
  · exact k.idle.ofNext h

/-- Settles O60. -/
theorem resetSatisfiesTheInvariants : Obligations.ResetSatisfiesTheInvariants := State.sound_reset

end Sys2Proof.Machine
end

section
/-! SUPPORT. Orders answered from what their owners do, and the orders on recipes (R2, R3). -/

namespace Sys2Proof.Machine

variable {s u u' : State} {slot : BoardSlot} {i : Instr} {act : State → Acted}

/-! ## Orders answered (R160) -/

/-- An order is answered as its owner's action on the taken slot answers it, the floor as that action leaves it. -/
theorem answers_acted {w : Answer} (hi : exec i s = .next (s.takeOrder slot act)) (ht : s.Takes slot)
    (hu : act (s.takeSlot slot) = (u', w)) (hc : Core (s.takeSlot slot) u') (hf : u.SameFloor u')
    (hl : w.fields.length ≤ 48) : Answers i slot s w.outcome w.detail w.fields u :=
  answers_of hi ht hu hf hc.host hc.os (hc.pending.trans (s.takeSlot_pending slot)) hl

/-- A refused order leaves the floor as it was. -/
theorem answers_refuse {o : OrderOutcome} (hi : exec i s = .next (s.takeOrder slot act)) (ht : s.Takes slot)
    (hu : act (s.takeSlot slot) = refuse o (s.takeSlot slot)) : Answers i slot s o none [] s :=
  answers_acted hi ht hu (.refl _) (.takeSlot s slot) (Nat.zero_le _)

/-- A refusal with a stated detail leaves the floor as it was too. -/
theorem answers_refuseWith {o : OrderOutcome} {k : Nat} (hi : exec i s = .next (s.takeOrder slot act)) (ht : s.Takes slot)
    (hu : act (s.takeSlot slot) = refuseWith o k (s.takeSlot slot)) : Answers i slot s o (some k) [] s :=
  answers_acted hi ht hu (.refl _) (.takeSlot s slot) (Nat.zero_le _)

/-- An order answered DONE without a stated detail. -/
theorem answers_done (hi : exec i s = .next (s.takeOrder slot act)) (ht : s.Takes slot)
    (hu : act (s.takeSlot slot) = doneOrder u') (hc : Core (s.takeSlot slot) (act (s.takeSlot slot)).1)
    (hf : u.SameFloor u') : Answers i slot s .done none [] u :=
  answers_acted hi ht hu (by rw [hu] at hc; exact hc) hf (Nat.zero_le _)

/-! ## Recipes (R2, R3) -/

/-- A recipe is in use when some step of some lot in the table names it (R2). -/
theorem State.recipeInUse_iff (s : State) (r : RecipeNo) :
    s.recipeInUse r = true ↔ ∃ l x st, s.lot l = some x ∧ st ∈ x.steps ∧ st.recipe = r := by
  unfold State.recipeInUse
  rw [List.any_eq_true]
  constructor
  · rintro ⟨o, ho, h⟩
    obtain ⟨k, hk, e⟩ := Vector.mem_iff_getElem.mp (Vector.mem_toList_iff.mp ho)
    cases o with
    | none => simp at h
    | some x =>
      obtain ⟨st, hst, hr⟩ := List.any_eq_true.mp h
      exact ⟨⟨k, hk⟩, x, st, e, hst, of_decide_eq_true hr⟩
  · rintro ⟨l, x, st, hl, hst, hr⟩
    refine ⟨some x, Vector.mem_toList_iff.mpr (Vector.mem_iff_getElem.mpr ⟨l.val, l.isLt, hl⟩), ?_⟩
    exact List.any_eq_true.mpr ⟨st, hst, decide_eq_true hr⟩

@[simp] theorem State.takeSlot_recipeInUse (s : State) (slot : BoardSlot) (r : RecipeNo) :
    (s.takeSlot slot).recipeInUse r = s.recipeInUse r := by simp [State.recipeInUse]

/-- A code above HOT is no temperature class. -/
theorem TempClass.ofCode_above {n : Nat} (h : 2 < n) : TempClass.ofCode? n = none := by
  unfold TempClass.ofCode?
  split
  case h_4 => rfl
  all_goals omega

/-- PUT_RECIPE with fields in order, by the record of its number. -/
theorem actPutRecipe_of {a : RecipeArgs} {r : RecipeNo} {x : Recipe} (hr : a.number.toNat = number r)
    (hx : recipeOfArgs a = some x) (s : State) :
    actPutRecipe a s =
      if (s.recipe? r).isSome && s.recipeInUse r then refuse .inUse s else doneOrder (s.setRecipe r (some x)) := by
  unfold actPutRecipe
  rw [ofNumber_number r hr, hx]

theorem actPutRecipe_badArg {a : RecipeArgs} (h : ofNumber? 128 a.number.toNat = none ∨ recipeOfArgs a = none) (s : State) :
    actPutRecipe a s = refuse .badArg s := by
  unfold actPutRecipe
  split
  · next h1 h2 => simp [h1, h2] at h
  · rfl

/-- Settles O16. -/
theorem putRecipeWritesTheRecord : Obligations.PutRecipeWritesTheRecord := by
  unfold Obligations.PutRecipeWritesTheRecord
  intro s slot a r temp ht good named
  have hnamed : s.recipeInUse r = true ↔ named := s.recipeInUse_iff r
  have hgood (h : good) := show recipeOfArgs a = some _ by unfold recipeOfArgs; rw [h.1]; exact if_pos h.2
  refine ⟨fun hr hg hfree => ?_, fun hr hg hx hn => ?_, fun hbad => ?_⟩
  · have hne : ¬ (((s.takeSlot slot).recipe? r).isSome && (s.takeSlot slot).recipeInUse r) = true := by
      rcases hfree with h | h
      · simp [h]
      · simp [mt hnamed.mp h]
    exact answers_done rfl ht ((actPutRecipe_of hr (hgood hg) _).trans (if_neg hne)) (Acts.putRecipe a _).toCore
      ((State.SameFloor.takeSlot s slot).setRecipe r _)
  · have hin : ((s.takeSlot slot).recipe? r).isSome && (s.takeSlot slot).recipeInUse r := by
      simp [hnamed.mpr hn, Option.isSome_iff_ne_none, hx]
    exact answers_refuse rfl ht ((actPutRecipe_of hr (hgood hg) _).trans (if_pos hin))
  · refine answers_refuse rfl ht (actPutRecipe_badArg ?_ _)
    rcases hbad with h | h | h | ⟨htemp, hn⟩
    · exact .inl (ofNumber_outside (.inl h))
    · exact .inl (ofNumber_outside (.inr h))
    · exact .inr (by unfold recipeOfArgs; rw [TempClass.ofCode_above h])
    · exact .inr (by unfold recipeOfArgs; rw [htemp]; exact if_neg fun h => hn ⟨htemp, h⟩)

/-- DROP_RECIPE of a number 1..128, by the record of the number. -/
theorem actDropRecipe_of {b : Byte} {r : RecipeNo} (hr : b.toNat = number r) (s : State) :
    actDropRecipe b s =
      if (s.recipe? r).isNone then refuse .notFound s
      else if s.recipeInUse r then refuse .inUse s
      else doneOrder (s.setRecipe r none) := by
  unfold actDropRecipe
  rw [ofNumber_number r hr]

/-- Settles O17. -/
theorem dropRecipeEmptiesTheRecord : Obligations.DropRecipeEmptiesTheRecord := by
  unfold Obligations.DropRecipeEmptiesTheRecord
  intro s slot b ht
  refine ⟨fun hb => answers_refuse rfl ht (by unfold actDropRecipe; rw [ofNumber_outside hb]), ?_⟩
  intro r hr named
  have hact := actDropRecipe_of hr (s.takeSlot slot)
  rw [State.takeSlot_recipeOpt, State.takeSlot_recipeInUse] at hact
  have hnamed : s.recipeInUse r = true ↔ named := s.recipeInUse_iff r
  have hsome (h : s.recipe? r ≠ none) : ¬ (s.recipe? r).isNone = true := by simpa using h
  refine ⟨fun h => ?_, fun h hn => ?_, fun h hn => ?_⟩
  · exact answers_refuse rfl ht (hact.trans (if_pos (by simp [h])))
  · exact answers_refuse rfl ht (hact.trans ((if_neg (hsome h)).trans (if_pos (hnamed.mpr hn))))
  · exact answers_done rfl ht (hact.trans ((if_neg (hsome h)).trans (if_neg (mt hnamed.mp hn)))) (Acts.dropRecipe b _).toCore
      ((State.SameFloor.takeSlot s slot).setRecipe r _)

end Sys2Proof.Machine
end

section
/-! SUPPORT. The dispatch queue (R8, R13) and the orders on lots (R10 to R12). -/

namespace Sys2Proof.Machine

variable {s : State} {l : LotSlot} {x : Lot}

/-! ## Slots, numbers and records -/

/-- The index of a thing names it. -/
theorem ofIndex_val {n k : Nat} (i : Fin n) (h : k = i.val) : ofIndex? n k = some i := by
  subst h
  exact dif_pos i.isLt

theorem ofIndex_outside {n k : Nat} (h : n ≤ k) : ofIndex? n k = none := dif_neg (by omega)

/-- A number names the one thing that has it. -/
theorem ofNumber_eq_some_iff {n k : Nat} {i : Fin n} : ofNumber? n k = some i ↔ k = number i := by
  refine ⟨fun h => ?_, ofNumber_number i⟩
  unfold ofNumber? at h
  split at h
  · cases h; simp [number]; omega
  · cases h

/-- A change of a lot in the table writes the changed record. -/
theorem State.modLot_of (h : s.lot l = some x) (f : Lot → Lot) : s.modLot l f = s.setLot l (some (f x)) := by
  rw [State.modLot, h]
  rfl

theorem State.setShip_setShip (s : State) (n : ShipNo) (a b : Option Ship) : (s.setShip n a).setShip n b = s.setShip n b := by
  simp only [State.setShip, Vector.set_set]

/-! ## The dispatch queue (R8, R13, R14) -/

/-- The queue's order, by ready minute, then admission number, then slot. -/
theorem State.queueBefore_iff {m : LotSlot} {y : Lot} (hl : s.lot l = some x) (hm : s.lot m = some y) :
    s.queueBefore l m = true ↔ x.ready < y.ready ∨ (x.ready = y.ready ∧
      (x.admission.toNat < y.admission.toNat ∨ (x.admission = y.admission ∧ l < m))) := by
  unfold State.queueBefore
  rw [hl, hm]
  dsimp only
  split
  · next hr => simp [hr]
  · next hr =>
    have hr := not_not.mp hr
    split
    · next ha => simp [hr, ha]
    · next ha => simp [hr, not_not.mp ha]

/-- A joining lot stands behind those it does not go before and at once before one that it does. -/
theorem queueInsert_split (p : LotSlot → LotSlot → Bool) (l : LotSlot) (q : List LotSlot) :
    ∃ before after, q = before ++ after ∧ queueInsert p l q = before ++ l :: after ∧
      (∀ m ∈ before, p l m = false) ∧ ∀ m rest, after = m :: rest → p l m = true := by
  induction q with
  | nil => exact ⟨[], [], rfl, rfl, by simp, by simp⟩
  | cons y ys ih =>
    by_cases h : p l y = true
    · refine ⟨[], y :: ys, rfl, by simp [queueInsert, h], by simp, fun m rest e => ?_⟩
      cases e
      exact h
    · obtain ⟨before, after, e1, e2, hb, ha⟩ := ih
      refine ⟨y :: before, after, by rw [e1]; rfl, by simp [queueInsert, h, e2], fun m hm => ?_, ha⟩
      rcases List.mem_cons.mp hm with rfl | hm
      · simpa using h
      · exact hb m hm

/-- Entry into QUEUED (R8, R122). -/
theorem State.setLotState_enter (h : s.lot l = some x) (hs : x.state ≠ .queued) :
    s.setLotState l .queued = (s.requeue l).triggerPass.report (.lotState l (some x.state) (some .queued) x.current) := by
  unfold State.setLotState
  rw [h]
  exact if_neg hs

/-- Departure from QUEUED (R13). -/
theorem State.setLotState_leave {new : LotState} (h : s.lot l = some x) (hs : x.state = .queued) (hn : new ≠ .queued) :
    s.setLotState l new =
      ((s.setLot l (some { x with state := new })).leaveQueue l).report (.lotState l (some x.state) (some new) x.current) := by
  unfold State.setLotState
  rw [h, ← State.modLot_of h fun y => { y with state := new }]
  simp [hs, Ne.symm hn, hn]

/-- Settles O19. -/
theorem lotsJoinTheQueueInOrder : Obligations.LotsJoinTheQueueInOrder := by
  unfold Obligations.LotsJoinTheQueueInOrder
  intro s l x hx
  refine ⟨fun hs => ?_, fun hs new hn => ?_⟩
  · intro t goesBefore
    let joining : State := s.modLot l fun y => { y with state := .queued, ready := s.minute }
    have ht : t = (joining.joinQueue l).triggerPass.report (.lotState l (some x.state) (some .queued) x.current) :=
      State.setLotState_enter hx hs
    have hlot : joining.lot l = some { x with state := .queued, ready := s.minute } := by
      simp [joining, State.lot_modLot, hx]
    have hother {m : LotSlot} (hm : m ≠ l) : joining.lot m = s.lot m := by simp [joining, State.lot_modLot, hm]
    have hbefore {m : LotSlot} {y : Lot} (hm : m ≠ l) (hy : s.lot m = some y) :
        joining.queueBefore l m = true ↔ goesBefore m y := State.queueBefore_iff hlot ((hother hm).trans hy)
    rw [ht]
    refine ⟨hlot, rfl, rfl, ?_⟩
    obtain ⟨before, after, e1, e2, hb, ha⟩ := queueInsert_split joining.queueBefore l s.lm.queue
    refine ⟨before, after, e1, e2, fun m hm y hne hy hgo => ?_, fun m rest y e hne hy => ?_⟩
    · exact absurd ((hbefore hne hy).mpr hgo) (by simp [hb m hm])
    · exact (hbefore hne hy).mp (ha m rest e)
  · rw [State.setLotState_leave hx hs hn]
    exact ⟨rfl, by simp [State.leaveQueue, State.lot, State.setLot, State.report]⟩

/-! ## Amendment (R11) -/

theorem actAmendLot_absent {lot : Half} (due : Word) (priority : Byte)
    (h : 512 ≤ lot.toNat ∨ ∃ l : LotSlot, lot.toNat = l.val ∧ s.lot l = none) :
    actAmendLot lot due priority s = refuse .notFound s := by
  unfold actAmendLot
  rcases h with h | ⟨l, e, hl⟩
  · rw [ofIndex_outside h]
  · rw [ofIndex_val l e]
    dsimp only
    rw [hl]

/-- AMEND_LOT of a lot in the table. -/
theorem actAmendLot_of {lot : Half} (e : lot.toNat = l.val) (h : s.lot l = some x) (due : Word) (priority : Byte) :
    actAmendLot lot due priority s =
      if x.state = .released ∨ x.state = .scrapped then refuse .wrongState s
      else if 3 < priority.toNat then refuse .badArg s
      else doneOrder (s.setLot l (some { x with due := due.toNat, priority := priority.toNat })) := by
  unfold actAmendLot
  rw [ofIndex_val l e]
  dsimp only
  rw [h]
  dsimp only
  rw [State.modLot_of h]

/-- Settles O20. -/
theorem amendLotReplacesDueAndPriority : Obligations.AmendLotReplacesDueAndPriority := by
  unfold Obligations.AmendLotReplacesDueAndPriority
  intro s slot lot due priority ht
  refine ⟨fun h => answers_refuse rfl ht (actAmendLot_absent _ _ (by simpa using h)), fun l x e hx => ?_⟩
  have hact := actAmendLot_of (s := s.takeSlot slot) e ((s.takeSlot_lot slot l).trans hx) due priority
  refine ⟨fun h => ?_, fun h1 h2 hp => ?_, fun h1 h2 hp => ?_⟩
  · exact answers_refuse rfl ht (hact.trans (if_pos h))
  · exact answers_refuse rfl ht (hact.trans ((if_neg (not_or.mpr ⟨h1, h2⟩)).trans (if_pos hp)))
  · exact answers_done rfl ht (hact.trans ((if_neg (not_or.mpr ⟨h1, h2⟩)).trans (if_neg (not_lt.mpr hp))))
      (Acts.amendLot lot due priority _).toCore ((State.SameFloor.takeSlot s slot).setLot l _)

/-! ## Retirement (R12, R145) -/

/-- A cell's insertion record names the lot (R8, R60). -/
theorem State.insertionOf_isSome_iff : (s.insertionOf l).isSome ↔ ∃ c i, s.insertion c = some i ∧ i.lot = l := by
  unfold State.insertionOf
  rw [List.find?_isSome]
  constructor
  · rintro ⟨c, -, h⟩
    split at h
    · cases h
    · next i hi => exact ⟨c, i, hi, of_decide_eq_true h⟩
  · rintro ⟨c, i, hi, e⟩
    exact ⟨c, List.mem_finRange c, by simp [hi, e]⟩

theorem State.shipStateIs_iff {st : ShipState} :
    s.shipStateIs st x = true ↔ ∃ n o, x.ship = some n ∧ s.ship n = some o ∧ o.state = st := by
  unfold State.shipStateIs
  split
  · next h => simp [h]
  · next n h =>
    split
    · next hn => simp [h, hn]
    · next o hn => simp [h, hn]

/-- A retired member leaves the list of its ship order, which is freed when the list becomes empty (R145). -/
theorem State.retireMember_of {n : ShipNo} {o : Ship} (h : s.ship n = some o) (l : LotSlot) :
    s.retireMember n l =
      s.setShip n (if o.lots.erase l = [] then none else some { o with lots := o.lots.erase l }) := by
  have e : s.modShip n (fun o => { o with lots := o.lots.erase l }) =
      s.setShip n (some { o with lots := o.lots.erase l }) := by rw [State.modShip, h]; rfl
  have hn : (s.setShip n (some { o with lots := o.lots.erase l })).ship n = some { o with lots := o.lots.erase l } := by
    simp [State.ship_setShip]
  unfold State.retireMember
  rw [e]
  dsimp only
  rw [hn]
  dsimp only
  rw [State.setShip_setShip]
  by_cases he : o.lots.erase l = [] <;> simp [he]

theorem actRetireLot_absent {lot : Half} (h : 512 ≤ lot.toNat ∨ ∃ l : LotSlot, lot.toNat = l.val ∧ s.lot l = none) :
    actRetireLot lot s = refuse .notFound s := by
  unfold actRetireLot
  rcases h with h | ⟨l, e, hl⟩
  · rw [ofIndex_outside h]
  · rw [ofIndex_val l e]
    dsimp only
    rw [hl]

/-- The state that the retirement of a lot leaves. -/
def State.retired (s : State) (l : LotSlot) (x : Lot) : State :=
  let t := s.report (.lotState l (some x.state) none x.current)
  (match x.ship with
    | none => t
    | some n => t.retireMember n l).setLot l none

/-- RETIRE_LOT of a lot in the table. -/
theorem actRetireLot_of {lot : Half} (e : lot.toNat = l.val) (h : s.lot l = some x) :
    actRetireLot lot s =
      if ¬ (x.state = .released ∨ x.state = .scrapped ∨ (x.state = .complete ∧ x.empty = true)) then refuse .wrongState s
      else if ¬ x.holds.isEmpty ∨ x.quarantined then refuse .wrongState s
      else if (s.insertionOf l).isSome then refuse .busy s
      else if s.shipStateIs .opened x then refuse .inUse s
      else doneOrder (s.retired l x) := by
  unfold actRetireLot
  rw [ofIndex_val l e]
  dsimp only
  rw [h]
  rfl

/-- Settles O21. -/
theorem retireLotFreesTheSlot : Obligations.RetireLotFreesTheSlot := by
  unfold Obligations.RetireLotFreesTheSlot
  intro s slot lot ht
  refine ⟨fun h => answers_refuse rfl ht (actRetireLot_absent (by simpa using h)), fun l x e hx => ?_⟩
  intro ended clear inTest inOpen
  have hact := actRetireLot_of (s := s.takeSlot slot) e ((s.takeSlot_lot slot l).trans hx)
  have hclear : (¬ x.holds.isEmpty ∨ x.quarantined) ↔ ¬ clear := by
    simp only [clear, List.isEmpty_iff, not_and_or, Bool.not_eq_false]
  have htest : ((s.takeSlot slot).insertionOf l).isSome ↔ inTest := by
    simp only [State.insertionOf_isSome_iff, State.takeSlot_insertion, inTest]
  have hopen : (s.takeSlot slot).shipStateIs .opened x = true ↔ inOpen := by
    simp only [State.shipStateIs_iff, State.takeSlot_ship, inOpen]
  have hreport := (State.SameFloor.takeSlot s slot).report (.lotState l (some x.state) none x.current)
  -- the answer to a lot that no refusal holds back
  have hdone (h1 : ended) (h2 : clear) (h3 : ¬ inTest) (h4 : ¬ inOpen) {u : State}
      (hu : u.SameFloor ((s.takeSlot slot).retired l x)) : Answers (.retireLot slot lot) slot s .done none [] u := by
    rw [if_neg (not_not.mpr h1), if_neg (mt hclear.mp (not_not.mpr h2)), if_neg (mt htest.mp h3), if_neg (mt hopen.mp h4)]
      at hact
    exact answers_done rfl ht hact (Acts.retireLot lot _).toCore hu
  refine ⟨fun h => ?_, fun h1 h2 h3 => ?_, fun h1 h2 h3 h4 => ?_, fun h1 h2 h3 h4 => ?_, fun n o h1 h2 h3 hn ho hs => ?_⟩
  · refine answers_refuse rfl ht (hact.trans ?_)
    by_cases h1 : ended
    · rw [if_neg (not_not.mpr h1), if_pos (hclear.mpr fun h2 => h ⟨h1, h2⟩)]
    · rw [if_pos h1]
  · refine answers_refuse rfl ht (hact.trans ?_)
    rw [if_neg (not_not.mpr h1), if_neg (mt hclear.mp (not_not.mpr h2)), if_pos (htest.mpr h3)]
  · refine answers_refuse rfl ht (hact.trans ?_)
    rw [if_neg (not_not.mpr h1), if_neg (mt hclear.mp (not_not.mpr h2)), if_neg (mt htest.mp h3), if_pos (hopen.mpr h4)]
  · refine hdone h1 h2 h3 (fun ⟨n, _, hn, _⟩ => by simp [h4] at hn) ?_
    unfold State.retired
    rw [h4]
    exact hreport.setLot l none
  · have hopened : ¬ inOpen := by
      rintro ⟨n', o', hn', ho', hs'⟩
      rw [hn] at hn'
      cases hn'
      rw [ho] at ho'
      cases ho'
      simp [hs] at hs'
    refine hdone h1 h2 h3 hopened ?_
    unfold State.retired
    rw [hn]
    dsimp only
    rw [State.retireMember_of (show ((s.takeSlot slot).report _).ship n = some o from (s.takeSlot_ship slot n).trans ho)]
    exact (hreport.setShip n _).setLot l none

end Sys2Proof.Machine
end

section
/-! SUPPORT. ADMIT_LOT (R10). -/

namespace Sys2Proof.Machine

variable {s : State} {a : LotArgs}

/-! ## The searches of ADMIT_LOT -/

/-- A step's recipe number names a record that is not empty (R10). -/
theorem State.namesRecipe_iff {st : StepArgs} :
    s.namesRecipe st = true ↔ ∃ r : RecipeNo, st.recipe.toNat = number r ∧ s.recipe? r ≠ none := by
  unfold State.namesRecipe
  split
  · next h => simp only [← ofNumber_eq_some_iff, h]; simp
  · next r h => simp only [← ofNumber_eq_some_iff, h]; simp [Option.isSome_iff_ne_none]

/-- A step's limit-set number names a record that is not empty (R10). -/
theorem State.namesLimitSet_iff {st : StepArgs} :
    s.namesLimitSet st = true ↔ ∃ n : LimitNo, st.limitSet.toNat = number n ∧ s.limitSet? n ≠ none := by
  unfold State.namesLimitSet
  split
  · next h => simp only [← ofNumber_eq_some_iff, h]; simp
  · next r h => simp only [← ofNumber_eq_some_iff, h]; simp [Option.isSome_iff_ne_none]

theorem firstBad_none {α : Type} {ok : α → Bool} {xs : List α} (h : ∀ x ∈ xs, ok x = true) : firstBad ok xs = none := by
  unfold firstBad
  rw [List.findIdx?_eq_none_iff.mpr fun x hx => by simp [h x hx]]
  rfl

/-- The first member that fails a test, numbered from 1. -/
theorem firstBad_some {α : Type} {ok : α → Bool} {xs : List α} {k : Nat} {x : α} (hx : xs[k]? = some x) (hk : ok x = false)
    (h : ∀ m y, m < k → xs[m]? = some y → ok y = true) : firstBad ok xs = some (k + 1) := by
  obtain ⟨hlt, e⟩ := List.getElem?_eq_some_iff.mp hx
  have hfind : xs.findIdx? (fun y => !ok y) = some k := by
    refine List.findIdx?_eq_some_iff_getElem.mpr ⟨hlt, by simp [e, hk], fun m hm => ?_⟩
    simp [h m _ hm (List.getElem?_eq_getElem (hm.trans hlt))]
  rw [firstBad, hfind]
  rfl

theorem State.slotOfNumber_none {n : LotNumber} (h : ∀ m x, s.lot m = some x → x.lotNumber ≠ n) :
    s.slotOfNumber n = none := by
  unfold State.slotOfNumber
  refine List.find?_eq_none.mpr fun m _ => ?_
  split
  · simp
  · next x hx => simpa using h m x hx

/-- The one lot with a lot number is found. -/
theorem State.slotOfNumber_some {n : LotNumber} {m : LotSlot} {x : Lot} (hm : s.lot m = some x) (hx : x.lotNumber = n)
    (h : ∀ k y, s.lot k = some y → y.lotNumber = n → k = m) : s.slotOfNumber n = some m := by
  have hsome : (s.slotOfNumber n).isSome := by
    unfold State.slotOfNumber
    exact List.find?_isSome.mpr ⟨m, List.mem_finRange m, by simp [hm, hx]⟩
  obtain ⟨k, hk⟩ := Option.isSome_iff_exists.mp hsome
  rw [hk]
  have found := List.find?_some (p := fun l => match s.lot l with
    | none => false
    | some x => decide (x.lotNumber = n)) (l := allLots) (a := k) hk
  split at found
  · cases found
  · next y hy => rw [h k y hy (of_decide_eq_true found)]

theorem firstFree_none {α : Type} {n : Nat} {v : Vector (Option α) n} (h : ∀ k : Fin n, v[k] ≠ none) :
    firstFree v = none := by
  unfold firstFree
  exact List.find?_eq_none.mpr fun k _ => by simpa using h k

/-- The lowest free record. -/
theorem firstFree_some {α : Type} {n : Nat} {v : Vector (Option α) n} {k : Fin n} (hk : v[k] = none)
    (h : ∀ m : Fin n, m < k → v[m] ≠ none) : firstFree v = some k := by
  unfold firstFree
  refine List.find?_eq_some_iff_getElem.mpr ⟨by simp [hk], k.val, by simp, by simp, fun j hj => ?_⟩
  have := h ⟨j, by omega⟩ (Fin.lt_def.mpr hj)
  simpa [Option.isSome_iff_ne_none] using this

/-! ## The steps of an admitted lot -/

/-- Where a map is defined on every member, it takes the members in their places. -/
theorem getElem?_filterMap_of_isSome {α β : Type} (f : α → Option β) {xs : List α} (h : ∀ x ∈ xs, (f x).isSome) (k : Nat) :
    (xs.filterMap f)[k]? = xs[k]?.bind f := by
  induction xs generalizing k with
  | nil => simp
  | cons x xs ih =>
    obtain ⟨y, hy⟩ := Option.isSome_iff_exists.mp (h x List.mem_cons_self)
    rw [List.filterMap_cons_some hy]
    cases k with
    | zero => simp [hy]
    | succ k => simpa using ih (fun z hz => h z (List.mem_cons_of_mem _ hz)) k

/-- A step of ADMIT_LOT whose numbers are in range. -/
theorem stepOfArgs_of {st : StepArgs} {r : RecipeNo} {n : LimitNo} (hr : st.recipe.toNat = number r)
    (hn : st.limitSet.toNat = number n) :
    stepOfArgs st = some { LotStep.blank with recipe := r, limitSet := n, lossAllowance := st.lossAllowance.toNat } := by
  unfold stepOfArgs
  rw [ofNumber_number r hr, ofNumber_number n hn]

/-- The steps given, those up to the step count (R10). -/
def givenSteps (a : LotArgs) : List StepArgs := a.steps.toList.take a.stepCount.toNat

/-- The order's own fields are in range (R10). -/
structure FieldsInRange (a : LotArgs) : Prop where
  steps : 1 ≤ a.stepCount.toNat ∧ a.stepCount.toNat ≤ 4
  quantity : a.startQuantity ≠ 0
  priority : a.priority.toNat ≤ 3

/-- Every given step's recipe and limit-set numbers are in range. -/
def StepsInRange (a : LotArgs) : Prop :=
  ∀ st ∈ (givenSteps a), ∃ (r : RecipeNo) (n : LimitNo), st.recipe.toNat = number r ∧ st.limitSet.toNat = number n

theorem StepsInRange.isSome (hs : StepsInRange a) : ∀ st ∈ givenSteps a, (stepOfArgs st).isSome := fun st hst => by
  obtain ⟨r, n, hr, hn⟩ := hs st hst
  rw [stepOfArgs_of hr hn]
  rfl

theorem givenSteps_length (h : FieldsInRange a) : (givenSteps a).length = a.stepCount.toNat := by
  have := h.steps
  simp [givenSteps]
  omega

/-- The lot record that ADMIT_LOT makes in `s`. -/
def State.admittedLot (s : State) (a : LotArgs) : Lot :=
  admitted s.lm.recipes a ((givenSteps a).filterMap stepOfArgs) s.minute (s.lm.admissions + 1)

theorem State.admittedLot_steps (s : State) (a : LotArgs) : (s.admittedLot a).steps =
    ((givenSteps a).filterMap stepOfArgs).modify 0 fun st => { st with unitsIn := a.startQuantity.toNat } := rfl

theorem State.admittedLot_length (s : State) (h : FieldsInRange a) (hs : StepsInRange a) :
    (s.admittedLot a).steps.length = a.stepCount.toNat := by
  rw [State.admittedLot_steps, List.length_modify, List.filterMap_length_eq_length.mpr hs.isSome, givenSteps_length h]

/-- A step of the lot record, by the arguments in its place. -/
theorem State.admittedLot_step (s : State) (hs : StepsInRange a) {k : Nat} {st : StepArgs} (hst : (givenSteps a)[k]? = some st) :
    ∃ (r : RecipeNo) (n : LimitNo), st.recipe.toNat = number r ∧ st.limitSet.toNat = number n ∧
      (s.admittedLot a).steps[k]? = some { LotStep.blank with
        recipe := r, limitSet := n, lossAllowance := st.lossAllowance.toNat,
        unitsIn := if k = 0 then a.startQuantity.toNat else 0 } := by
  obtain ⟨r, n, hr, hn⟩ := hs st (List.mem_of_getElem? hst)
  refine ⟨r, n, hr, hn, ?_⟩
  rw [State.admittedLot_steps, List.getElem?_modify, getElem?_filterMap_of_isSome _ hs.isSome, hst, Option.bind_some,
    stepOfArgs_of hr hn]
  by_cases hk : k = 0
  · simp [hk]
  · simp [hk, Ne.symm hk, LotStep.blank]

theorem LotStep.blank_accounted : LotStep.blank.accounted = 0 := by decide

/-! ## The answers of ADMIT_LOT -/

theorem actAdmitLot_outside (h : ¬ FieldsInRange a) (s : State) : actAdmitLot a s = refuseWith .badArg 0 s := by
  unfold actAdmitLot
  dsimp only
  split
  · rfl
  · next h1 =>
    split
    · rfl
    · next h2 =>
      split
      · rfl
      · next h3 => exact absurd ⟨by omega, h2, by omega⟩ h

/-- ADMIT_LOT with its own fields in range goes by the steps, the lot number and the free slot (R10). -/
theorem actAdmitLot_of (h : FieldsInRange a) (s : State) :
    (∀ k, firstBad s.namesRecipe (givenSteps a) = some k → actAdmitLot a s = refuseWith .badArg k s) ∧
    (firstBad s.namesRecipe (givenSteps a) = none →
      (∀ k, firstBad s.namesLimitSet (givenSteps a) = some k → actAdmitLot a s = refuseWith .badArg k s) ∧
      (firstBad s.namesLimitSet (givenSteps a) = none →
        (∀ m, s.slotOfNumber a.lotNumber = some m → actAdmitLot a s = refuseWith .badArg m.val s) ∧
        (s.slotOfNumber a.lotNumber = none →
          (firstFree s.lm.lots = none → actAdmitLot a s = refuseWith .noRoom 0 s) ∧
          ∀ l, firstFree s.lm.lots = some l → actAdmitLot a s =
            (((({ s with lm := { s.lm with admissions := s.lm.admissions + 1 } } : State).setLot l
              (some (s.admittedLot a))).joinQueue l).triggerPass.report (.lotState l none (some .queued) 1),
              Answer.withDetail .done l.val)))) := by
  have h1 : ¬ (a.stepCount.toNat < 1 ∨ 4 < a.stepCount.toNat) := by have := h.steps; omega
  have h3 : ¬ 3 < a.priority.toNat := not_lt.mpr h.priority
  have hg : a.steps.toList.take a.stepCount.toNat = givenSteps a := rfl
  unfold actAdmitLot
  dsimp only
  rw [if_neg h1, if_neg h.quantity, if_neg h3, hg]
  refine ⟨fun k e => by rw [e], fun e => ⟨fun k e' => by rw [e]; dsimp only; rw [e'], fun e' => ?_⟩⟩
  refine ⟨fun m em => by rw [e]; dsimp only; rw [e']; dsimp only; rw [em], fun em => ⟨fun ef => ?_, fun l ef => ?_⟩⟩
  · rw [e]; dsimp only; rw [e']; dsimp only; rw [em]; dsimp only; rw [ef]
  · rw [e]; dsimp only; rw [e']; dsimp only; rw [em]; dsimp only; rw [ef]
    rfl

theorem State.SameFloor.setAdmissions {u t : State} (h : u.SameFloor t) (n : Word) :
    State.SameFloor { u with lm := { u.lm with admissions := n } } { t with lm := { t.lm with admissions := n } } := by
  rw [h.eq]
  exact ⟨rfl, rfl, rfl, rfl, rfl, rfl, rfl, rfl, rfl, rfl⟩

/-- The record that ADMIT_LOT makes depends on the floor alone. -/
theorem State.takeSlot_admittedLot (s : State) (slot : BoardSlot) (a : LotArgs) :
    (s.takeSlot slot).admittedLot a = s.admittedLot a := by simp [State.admittedLot]

/-- Settles O18. -/
theorem admitLotFillsTheLowestSlot : Obligations.AdmitLotFillsTheLowestSlot := by
  unfold Obligations.AdmitLotFillsTheLowestSlot
  intro s slot a ht given fields recipeNamed limitSetNamed firstNot
  have hrange : fields ↔ FieldsInRange a := ⟨fun ⟨h1, h2, h3⟩ => ⟨h1, h2, h3⟩, fun ⟨h1, h2, h3⟩ => ⟨h1, h2, h3⟩⟩
  have hrecipe (st) : (s.takeSlot slot).namesRecipe st = true ↔ recipeNamed st := by
    simp only [State.namesRecipe_iff, State.takeSlot_recipeOpt, recipeNamed]
  have hlimit (st) : (s.takeSlot slot).namesLimitSet st = true ↔ limitSetNamed st := by
    simp only [State.namesLimitSet_iff, State.takeSlot_limitSetOpt, limitSetNamed]
  -- the first given step that fails a test
  have hfirst {ok : StepArgs → Prop} {test : StepArgs → Bool} (he : ∀ st, test st = true ↔ ok st) {k : Nat}
      (h : firstNot ok k) : firstBad test (givenSteps a) = some (k + 1) := by
    obtain ⟨⟨st, hst, hbad⟩, hall⟩ := h
    exact firstBad_some hst (by simpa using mt (he st).mp hbad) fun m y hm hy => (he y).mpr (hall m y hm hy)
  refine ⟨fun h => answers_refuseWith rfl ht (actAdmitLot_outside (mt hrange.mpr h) _), fun h k hk => ?_, fun h hr => ?_⟩
  · exact answers_refuseWith rfl ht ((actAdmitLot_of (hrange.mp h) _).1 _ (hfirst hrecipe hk))
  · have hok := (actAdmitLot_of (hrange.mp h) (s.takeSlot slot)).2 (firstBad_none fun st hst => (hrecipe st).mpr (hr st hst))
    refine ⟨fun k hk => answers_refuseWith rfl ht (hok.1 _ (hfirst hlimit hk)), fun hl => ?_⟩
    have hok := hok.2 (firstBad_none fun st hst => (hlimit st).mpr (hl st hst))
    refine ⟨fun m x hm hx huniq => ?_, fun hnew => ?_⟩
    · refine answers_refuseWith rfl ht (hok.1 m (State.slotOfNumber_some (by simpa using hm) hx fun k y hy => ?_))
      exact huniq k y (by simpa using hy)
    · have hok := hok.2 (State.slotOfNumber_none fun m x hm => hnew m x (by simpa using hm))
      refine ⟨fun hfull => answers_refuseWith rfl ht (hok.1 (firstFree_none fun k =>
        (s.takeSlot_lot slot k).trans_ne (hfull k))), fun l hl0 hlow => ?_⟩
      have hsteps : StepsInRange a := fun st hst => by
        obtain ⟨r, hr, -⟩ := hr st hst
        obtain ⟨n, hn, -⟩ := hl st hst
        exact ⟨r, n, hr, hn⟩
      have hact := hok.2 l (firstFree_some ((s.takeSlot_lot slot l).trans hl0) fun m hm =>
        (s.takeSlot_lot slot m).trans_ne (hlow m hm))
      have hlen := s.admittedLot_length (hrange.mp h) hsteps
      refine ⟨s.admittedLot a, ⟨rfl, rfl, rfl, rfl, rfl, rfl, rfl, rfl, rfl, rfl, rfl, rfl, rfl, rfl⟩, hlen,
        fun k hk hk4 => ?_, ?_, ?_⟩
      · have hst : (givenSteps a)[k]? = some a.steps[k] := by
          rw [givenSteps, List.getElem?_take_of_lt (by omega)]
          simp
        obtain ⟨r, n, hr, hn, e⟩ := s.admittedLot_step hsteps hst
        obtain ⟨_, e⟩ := List.getElem?_eq_some_iff.mp e
        rw [e]
        exact ⟨hr.symm, hn.symm, rfl, rfl, rfl, LotStep.blank_accounted, rfl⟩
      · have h1 := (hrange.mp h).steps
        have hst : (givenSteps a)[0]? = some a.steps[0] := by
          rw [givenSteps, List.getElem?_take_of_lt (by omega)]
          simp
        obtain ⟨r, n, -, -, e⟩ := s.admittedLot_step hsteps hst
        have hunits : ((s.admittedLot a).step 1).unitsIn = a.startQuantity.toNat := by
          rw [Lot.step, e]
          rfl
        show tailMinutes s.lm.recipes ((s.admittedLot a).step 1).unitsIn ((s.admittedLot a).steps.drop 1) = _
        rw [hunits, List.drop_one]
        rfl
      · refine answers_acted rfl ht hact (by have := (Acts.admitLot a (s.takeSlot slot)).toCore; rwa [hact] at this) ?_
          (Nat.zero_le _)
        rw [State.takeSlot_admittedLot, State.takeSlot_lm]
        exact (((((State.SameFloor.takeSlot s slot).setAdmissions _).setLot l _).joinQueue l).triggerPass).report _

end Sys2Proof.Machine
end

section
/-! SUPPORT. The soft reset (R157): the RESERVED lots returned to the queue, the insertions suspended. -/

namespace Sys2Proof.Machine

variable {s u : State} {l : LotSlot}

theorem mem_allCells (c : CellNo) : c ∈ allCells := List.mem_finRange c

theorem mem_allLots (l : LotSlot) : l ∈ allLots := List.mem_finRange l

/-! ## The RESERVED lots return (R20) -/

/-- A lot at a soft reset: a RESERVED one is QUEUED since the present minute (R20). -/
def Lot.softReset (minute : Nat) (x : Lot) : Lot :=
  if x.state = .reserved then { x with state := .queued, ready := minute } else x

theorem Lot.softReset_not_reserved (minute : Nat) (x : Lot) : (x.softReset minute).state ≠ .reserved := by
  unfold Lot.softReset
  split
  · simp
  · assumption

theorem Lot.softReset_softReset (minute : Nat) (x : Lot) : (x.softReset minute).softReset minute = x.softReset minute :=
  if_neg (x.softReset_not_reserved minute)

/-- The queue that a lot joins keeps its order. -/
theorem sublist_queueInsert (p : LotSlot → LotSlot → Bool) (l : LotSlot) (q : List LotSlot) :
    q.Sublist (queueInsert p l q) := by
  obtain ⟨before, after, rfl, e2, -⟩ := queueInsert_split p l q
  rw [e2]
  exact (List.sublist_cons_self l after).append_left before

/-- One lot at a soft reset: it returns to the queue if it is RESERVED. -/
def State.returnOne (s : State) (l : LotSlot) : State :=
  if (s.lot l).any fun x => x.state = .reserved then s.requeue l else s

/-- A lot of the queue is QUEUED. -/
def State.QueueIsQueued (s : State) : Prop := ∀ l ∈ s.lm.queue, ∃ x, s.lot l = some x ∧ x.state = .queued

/-- What the return of the lots of a list leaves (R20). -/
structure State.Returned (s : State) (ls : List LotSlot) (t : State) : Prop where
  rest : t = { s with lm := { s.lm with lots := t.lm.lots, queue := t.lm.queue } }
  lot : ∀ l, t.lot l = if l ∈ ls then (s.lot l).map (Lot.softReset s.minute) else s.lot l
  mem : ∀ l, l ∈ t.lm.queue ↔ l ∈ s.lm.queue ∨ (l ∈ ls ∧ ∃ x, s.lot l = some x ∧ x.state = .reserved)
  order : s.lm.queue.Sublist t.lm.queue
  sorted : s.QueueIsQueued → s.lm.queue.Pairwise s.NotAfter → t.QueueIsQueued ∧ t.lm.queue.Pairwise t.NotAfter

theorem State.Returned.nil (s : State) : s.Returned [] s :=
  ⟨rfl, fun _ => by simp, fun _ => by simp, .refl _, fun h k => ⟨h, k⟩⟩

theorem State.lot_requeue (s : State) (l m : LotSlot) :
    (s.requeue l).lot m = if m = l then (s.lot l).map fun x => { x with state := .queued, ready := s.minute } else s.lot m :=
  State.lot_modLot s l m fun x => { x with state := .queued, ready := s.minute }

/-- The return of one lot. -/
theorem State.Returned.one (s : State) (l : LotSlot) : s.Returned [l] (s.returnOne l) := by
  unfold State.returnOne
  cases hl : s.lot l with
  | none =>
    refine ⟨rfl, fun m => ?_, fun m => ?_, .refl _, fun h k => ⟨h, k⟩⟩
    · by_cases e : m = l <;> simp [e, hl]
    · simp only [Option.any_none, Bool.false_eq_true, if_false, List.mem_singleton]
      exact ⟨.inl, fun h => h.elim id fun ⟨e, x, hx, _⟩ => by rw [e, hl] at hx; cases hx⟩
  | some x =>
    by_cases hr : x.state = .reserved
    · rw [if_pos (by simp [hr])]
      let joining : State := s.modLot l fun y => { y with state := .queued, ready := s.minute }
      have hother {m : LotSlot} (hm : m ≠ l) : joining.lot m = s.lot m := by simp [joining, State.lot_modLot, hm]
      refine ⟨rfl, fun m => ?_, fun m => ?_, sublist_queueInsert _ _ _, fun hq hp => ⟨fun m hm => ?_, ?_⟩⟩
      · rw [State.lot_requeue]
        by_cases e : m = l <;> simp [e, hl, Lot.softReset, hr]
      · refine (mem_queueInsert joining.queueBefore l m s.lm.queue).trans ?_
        rw [or_comm, List.mem_singleton]
        exact or_congr_right ⟨fun e => ⟨e, x, e ▸ hl, hr⟩, fun e => e.1⟩
      · rw [State.lot_requeue]
        rcases (mem_queueInsert joining.queueBefore l m s.lm.queue).mp hm with e | e
        · exact ⟨_, by rw [if_pos e, hl]; rfl, rfl⟩
        · obtain ⟨y, hy, hyq⟩ := hq m e
          by_cases em : m = l
          · exact ⟨_, by rw [if_pos em, hl]; rfl, rfl⟩
          · exact ⟨y, by simp [em, hy], hyq⟩
      · have hne {m : LotSlot} (hm : m ∈ s.lm.queue) : m ≠ l := by
          rintro rfl
          obtain ⟨y, hy, hyq⟩ := hq m hm
          rw [hl] at hy
          cases hy
          simp [hr] at hyq
        refine pairwise_queueInsert (s := joining) l _ (fun m hm => ?_) (hp.imp_of_mem fun {a b} ha hb k y z hy hz => ?_)
        · obtain ⟨y, hy, -⟩ := hq m hm
          rw [hother (hne hm), hy]
          rfl
        · rw [hother (hne ha)] at hy
          rw [hother (hne hb)] at hz
          exact k y z hy hz
    · rw [if_neg (by simp [hr])]
      refine ⟨rfl, fun m => ?_, fun m => ?_, .refl _, fun h k => ⟨h, k⟩⟩
      · by_cases e : m = l <;> simp [e, hl, Lot.softReset, hr]
      · refine ⟨.inl, fun h => h.elim id fun ⟨e, y, hy, hyr⟩ => ?_⟩
        rw [List.mem_singleton.mp e, hl] at hy
        cases hy
        exact absurd hyr hr

theorem State.Returned.append {as bs : List LotSlot} {t : State} (h : s.Returned as u) (k : u.Returned bs t) :
    s.Returned (as ++ bs) t := by
  have hmin : u.minute = s.minute := by rw [h.rest]; rfl
  refine ⟨?_, fun l => ?_, fun l => ?_, h.order.trans k.order, fun hq hp => ?_⟩
  · refine k.rest.trans ?_
    rw [h.rest]
  · simp only [k.lot, h.lot, hmin, List.mem_append]
    by_cases ha : l ∈ as <;> by_cases hb : l ∈ bs <;>
      simp [ha, hb, Function.comp_def, Lot.softReset_softReset]
  · rw [k.mem, h.mem, h.lot, List.mem_append]
    by_cases ha : l ∈ as
    · have hnone : ¬ ∃ x, (s.lot l).map (Lot.softReset s.minute) = some x ∧ x.state = .reserved := by
        rintro ⟨x, hx, hr⟩
        obtain ⟨y, -, rfl⟩ := Option.map_eq_some_iff.mp hx
        exact Lot.softReset_not_reserved _ y hr
      simp only [ha, if_true, true_and, true_or, hnone, and_false, or_false]
    · simp [ha]
  · obtain ⟨hq', hp'⟩ := h.sorted hq hp
    exact k.sorted hq' hp'

theorem State.Returned.foldl (ls : List LotSlot) : ∀ s : State, s.Returned ls (ls.foldl State.returnOne s) := by
  induction ls with
  | nil => exact fun s => .nil s
  | cons l ls ih => exact fun s => (State.Returned.one s l).append (ih (s.returnOne l))

theorem State.returned_returnReserved (s : State) : s.Returned allLots s.returnReserved := .foldl allLots s

/-! ## The insertions suspended (R81) -/

/-- A command slot of a cell whose insertion is suspended at a soft reset: HALT_NOW is asked for where a handler may move. -/
def Cell.haltAtReset (o : Option Insertion) (x : Cell) : Cell :=
  if o.any fun i => i.takenBy.onHandler then { x with slot := { x.slot with desired := some .haltNow } } else x

/-- What the suspension of the insertions of distinct cells leaves. -/
structure State.SuspendedAt (s : State) (cs : List CellNo) (t : State) : Prop where
  rest : t = { s with cells := t.cells, insertions := t.insertions }
  cell : ∀ d, t.cell d = if d ∈ cs then (s.cell d).haltAtReset (s.insertion d) else s.cell d
  insertion : ∀ d, t.insertion d = if d ∈ cs then (s.insertion d).map Insertion.softReset else s.insertion d

theorem State.SuspendedAt.one (s : State) (c : CellNo) : s.SuspendedAt [c] (s.suspendAtReset c) := by
  unfold State.suspendAtReset
  cases hc : s.insertion c with
  | none =>
    refine ⟨rfl, fun d => ?_, fun d => ?_⟩ <;> by_cases e : d = c <;> simp [e, hc, Cell.haltAtReset]
  | some i =>
    by_cases hi : i.takenBy.onHandler = true
    · dsimp only
      rw [if_pos hi, request_plain rfl]
      refine ⟨rfl, fun d => ?_, fun d => ?_⟩
      · unfold State.asked
        rw [State.cell_modCell]
        by_cases e : d = c <;> simp [e, hc, Cell.haltAtReset, hi]
      · refine (State.insertion_setInsertion s c d _).trans ?_
        by_cases e : d = c <;> simp [e, hc]
    · dsimp only
      rw [if_neg hi]
      refine ⟨rfl, fun d => ?_, fun d => ?_⟩
      · by_cases e : d = c <;> simp [e, hc, Cell.haltAtReset, hi]
      · rw [State.insertion_setInsertion]
        by_cases e : d = c <;> simp [e, hc]

theorem State.SuspendedAt.cons {c : CellNo} {cs : List CellNo} {t : State} (hc : c ∉ cs) (h : s.SuspendedAt [c] u)
    (k : u.SuspendedAt cs t) : s.SuspendedAt (c :: cs) t := by
  refine ⟨?_, fun d => ?_, fun d => ?_⟩
  · refine k.rest.trans ?_
    rw [h.rest]
  · rw [k.cell, h.cell, h.insertion]
    by_cases e : d = c <;> simp [e, hc]
  · rw [k.insertion, h.insertion]
    by_cases e : d = c <;> simp [e, hc]

theorem State.SuspendedAt.foldl (cs : List CellNo) (hcs : cs.Nodup) :
    ∀ s : State, s.SuspendedAt cs (cs.foldl State.suspendAtReset s) := by
  induction cs with
  | nil => exact fun s => ⟨rfl, fun _ => by simp, fun _ => by simp⟩
  | cons c cs ih =>
    obtain ⟨hc, hcs⟩ := List.nodup_cons.mp hcs
    exact fun s => .cons hc (.one s c) (ih hcs _)

theorem State.suspendedAt_allCells (s : State) : s.SuspendedAt allCells (allCells.foldl State.suspendAtReset s) :=
  .foldl allCells (List.nodup_finRange 48) s

/-! ## The soft reset (R157) -/

/-- The state of a cell that has not been heard (Table 2-4). -/
theorem State.derivedState_unheard {c : CellNo} (h : (s.cell c).heard = false) :
    s.derivedState c = match (s.cell c).mapping with
      | none => .detached
      | some m => if (s.port m.port).winStart ≤ m.tap ∧ m.tap ≤ (s.port m.port).winStop then .silent else .parked := by
  unfold State.derivedState
  dsimp only
  cases (s.cell c).mapping with
  | none => rfl
  | some m =>
    by_cases hw : (s.port m.port).winStart ≤ m.tap ∧ m.tap ≤ (s.port m.port).winStop
    · simp [Port.inWindow, h, hw]
    · simp only [Port.inWindow, ← Bool.decide_and, decide_eq_false hw, Bool.not_false, if_true, if_neg hw]

/-- The blocks at a soft reset, before the insertions are suspended. -/
def State.resetBlocks (s : State) : State :=
  { s with
    cells := s.cells.map Cell.softReset
    ports := s.ports.map Port.softReset
    de := { s.de with passPending := false, reservations := [] }
    ft := { s.ft with nextFiring := none, firing := false }
    os := s.os.softReset
    ru := s.ru.softReset }

/-- The parts of the state that a soft reset works on one after the other. -/
structure State.SoftResets (s t : State) : Prop where
  rest : t = { s.resetBlocks with
    cells := t.cells, insertions := t.insertions, lm := { s.lm with lots := t.lm.lots, queue := t.lm.queue } }
  returned : ∃ r, s.Returned allLots r ∧ t.lm = r.lm
  cell : ∀ d, t.cell d = { (s.cell d).softReset.haltAtReset (s.insertion d) with
    state := match (s.cell d).mapping with
      | none => .detached
      | some m => if (s.port m.port).winStart ≤ m.tap ∧ m.tap ≤ (s.port m.port).winStop then .silent else .parked }
  insertion : ∀ d, t.insertion d = (s.insertion d).map Insertion.softReset

theorem Cell.softReset_haltAtReset (o : Option Insertion) (x : Cell) :
    (x.softReset.haltAtReset o).mapping = x.mapping ∧ (x.softReset.haltAtReset o).heard = false := by
  unfold Cell.haltAtReset
  split <;> exact ⟨rfl, rfl⟩

/-- The derivation of the cells' states at the end of a soft reset (R37). -/
theorem State.SoftResets.of {r b t : State} (hr : s.Returned allLots r) (hb : r.resetBlocks.SuspendedAt allCells b)
    (ht : t = { b with cells := t.cells }) (hd : ∀ d, t.cell d = { b.cell d with state := b.derivedState d }) :
    s.SoftResets t := by
  have hlm : b.lm = r.lm := by rw [hb.rest]; rfl
  have hcell (d) : b.cell d = (s.cell d).softReset.haltAtReset (s.insertion d) := by
    have hc : r.resetBlocks.cell d = (s.cell d).softReset := by
      rw [hr.rest]
      exact State.cell_map s Cell.softReset d
    have hi : r.resetBlocks.insertion d = s.insertion d := by rw [hr.rest]; rfl
    rw [hb.cell, if_pos (mem_allCells d), hc, hi]
  have hport (p) : b.port p = (s.port p).softReset := by
    have e : b.ports = s.ports.map Port.softReset := by rw [hb.rest, hr.rest]; rfl
    simp [State.port, e]
  refine ⟨?_, ⟨r, hr, by rw [ht, hlm]⟩, fun d => ?_, fun d => ?_⟩
  · have hl : t.lm = r.lm := by rw [ht, hlm]
    have hi : t.insertions = b.insertions := by rw [ht]
    rw [hl, hi]
    refine ht.trans ?_
    rw [hb.rest, hr.rest]
    rfl
  · obtain ⟨hm, hh⟩ := Cell.softReset_haltAtReset (s.insertion d) (s.cell d)
    rw [hd, State.derivedState_unheard (by rw [hcell, hh]), hcell, hm]
    simp only [hport]
    rfl
  · have hi : r.resetBlocks.insertion d = s.insertion d := by rw [hr.rest]; rfl
    have : t.insertion d = b.insertion d := by rw [ht]; rfl
    rw [this, hb.insertion, if_pos (mem_allCells d), hi]

theorem State.softReset_eq (s : State) :
    s.softReset = (allCells.foldl State.suspendAtReset s.returnReserved.resetBlocks).rederiveCells := rfl

theorem State.rederiveCells_eq (s : State) : s.rederiveCells = { s with cells := s.rederiveCells.cells } := rfl

theorem State.softResets (s : State) : s.SoftResets s.softReset := by
  have hr := s.returned_returnReserved
  have hb := s.returnReserved.resetBlocks.suspendedAt_allCells
  rw [State.softReset_eq]
  generalize s.returnReserved = r at hr hb
  generalize allCells.foldl State.suspendAtReset r.resetBlocks = b at hb
  exact .of hr hb b.rederiveCells_eq b.rederiveCells_cell

/-- Either reset is a soft reset (R157). -/
theorem exec_softReset {c : Instr} (hc : c = .softReset ∨ c = .pcieHotReset) (s : State) :
    ∃ t, exec c s = .next t ∧ s.SoftResets t :=
  ⟨s.softReset, by rcases hc with rfl | rfl <;> rfl, s.softResets⟩

/-- Settles O5. -/
theorem softResetHaltsThePart : Obligations.SoftResetHaltsThePart := by
  unfold Obligations.SoftResetHaltsThePart
  intro s c hc
  obtain ⟨t, hexec, hrest, ⟨r, hr, hlm⟩, hcell, hins⟩ := exec_softReset hc s
  have hlot (l) : t.lot l = r.lot l := by rw [State.lot, hlm]; rfl
  refine ⟨t, hexec, by rw [hrest]; rfl, by rw [hrest]; rfl, by rw [hrest]; rfl, by rw [hrest]; rfl, fun l => ?_, fun l => ?_,
    ?_, fun hq hp => ?_, by rw [hrest], by rw [hrest], fun p => ?_, fun d => ?_, hins, by rw [hrest]; rfl,
    by rw [hrest]; rfl, by rw [hrest]; rfl, by rw [hrest]; rfl, by rw [hrest]; rfl, by rw [hrest]; rfl⟩
  · rw [hlot, hr.lot, if_pos (mem_allLots l)]
    rfl
  · rw [hlm, hr.mem]
    simp [mem_allLots]
  · rw [hlm]
    exact hr.order
  · rw [hlm]
    exact (hr.sorted hq hp).2.imp fun k => State.NotAfter.congr (fun l => by rw [hlot]) k
  · have e : t.ports = s.ports.map Port.softReset := by rw [hrest]; rfl
    simp [State.port, e, Port.softReset]
  · rw [hcell]
    unfold Cell.haltAtReset
    split <;> rfl

end Sys2Proof.Machine
end

section
/-! SUPPORT. The steps of a lot under the requests of R6, and the counting of units (R69). -/

namespace Sys2Proof.Machine

variable {s : State} {l : LotSlot} {x : Lot} {j k : Nat} {f g : LotStep → LotStep}
variable {recipes : Vector (Option Recipe) 128}

/-! ## Steps changed -/

@[simp] theorem Lot.modStep_length : (x.modStep k f).steps.length = x.steps.length := List.length_modify ..

/-- Step k, where a lot has it, is the one changed. -/
theorem Lot.step_modStep (hk : 1 ≤ k) (hl : k ≤ x.steps.length) : (x.modStep k f).step k = f (x.step k) := by
  have h : k - 1 < x.steps.length := by omega
  simp [Lot.step, Lot.modStep, h]

theorem Lot.step_modStep_ne (hj : 1 ≤ j) (hk : 1 ≤ k) (h : j ≠ k) : (x.modStep k f).step j = x.step j := by
  have h : k - 1 ≠ j - 1 := by omega
  simp [Lot.step, Lot.modStep, h]

theorem Lot.modStep_congr (h : f (x.step k) = g (x.step k)) : x.modStep k f = x.modStep k g := by
  unfold Lot.modStep
  congr 1
  refine List.ext_getElem? fun n => ?_
  simp only [List.getElem?_modify]
  by_cases e : k - 1 = n
  · subst e
    cases hx : x.steps[k - 1]? with
    | none => rfl
    | some st =>
      have : x.step k = st := by simp [Lot.step, hx]
      simp [← this, h]
  · simp [e]

@[simp] theorem Lot.syncUnitsIn_length : (x.syncUnitsIn recipes k).steps.length = x.steps.length := List.length_modify ..

/-- The units_in brought up to date is that of the next step alone. -/
theorem Lot.step_syncUnitsIn_ne (hj : 1 ≤ j) (h : j ≠ k + 1) : (x.syncUnitsIn recipes k).step j = x.step j :=
  Lot.step_modStep_ne hj (by omega) h

theorem Lot.step_syncUnitsIn (hl : k + 1 ≤ x.steps.length) : (x.syncUnitsIn recipes k).step (k + 1) =
    if (x.step (k + 1)).state = .skipped then x.step (k + 1)
    else { x.step (k + 1) with unitsIn := (x.step k).gradeTotal (passSetOf recipes (x.step k).recipe) } :=
  Lot.step_modStep (by omega) hl

/-- The lot after a request of R6 on its step k. -/
def Lot.changeStep (recipes : Vector (Option Recipe) 128) (k : Nat) (f : LotStep → LotStep) (x : Lot) : Lot :=
  (x.modStep k f).syncUnitsIn recipes k

theorem State.lot_changeStep (h : s.lot l = some x) : (s.changeStep l k f).lot l = some (x.changeStep s.lm.recipes k f) := by
  unfold State.changeStep
  rw [State.lot_modLot, if_pos rfl, h]
  rfl

@[simp] theorem Lot.changeStep_length : (x.changeStep recipes k f).steps.length = x.steps.length := by
  simp [Lot.changeStep]

theorem Lot.step_changeStep (hk : 1 ≤ k) (hl : k ≤ x.steps.length) : (x.changeStep recipes k f).step k = f (x.step k) := by
  rw [Lot.changeStep, Lot.step_syncUnitsIn_ne hk (by omega), Lot.step_modStep hk hl]

/-- The units_in of the step after the changed one is the changed step's grade-bin total (R5, R6). -/
theorem Lot.unitsIn_changeStep (hk : 1 ≤ k) (hl : k + 1 ≤ x.steps.length) (hs : (x.step (k + 1)).state ≠ .skipped) :
    ((x.changeStep recipes k f).step (k + 1)).unitsIn =
      (f (x.step k)).gradeTotal (passSetOf recipes (f (x.step k)).recipe) := by
  have hnext : (x.modStep k f).step (k + 1) = x.step (k + 1) := Lot.step_modStep_ne (by omega) hk (by omega)
  unfold Lot.changeStep
  rw [Lot.step_syncUnitsIn (by rwa [Lot.modStep_length]), hnext, if_neg hs, Lot.step_modStep hk (by omega)]

theorem Lot.getElem?_step (hk : k + 1 ≤ x.steps.length) : x.steps[k]? = some (x.step (k + 1)) := by
  simp [Lot.step, List.getElem?_eq_getElem (show k < x.steps.length by omega)]

theorem State.changeStep_congr (h : s.lot l = some x) (hf : f (x.step k) = g (x.step k)) :
    s.changeStep l k f = s.changeStep l k g := by
  unfold State.changeStep State.modLot
  rw [h]
  simp only [Option.map_some, Lot.modStep_congr hf]

/-! ## Units (R69) -/

/-- A first-pass unit that passes the checks of R69 is counted. -/
theorem State.takeUnit_counts {c : CellNo} {i : Insertion} {site bin n : Nat} {m : Site} {b : Bin} (h : s.insertion c = some i)
    (hr : i.takenBy.hasRun = true) (hm : i.site? site = some m) (hb : bin = number b) (h1 : i.unitsSeen < n)
    (h2 : n ≤ i.expected) : s.takeUnit c site bin n = s.countUnit c i m b n := by
  unfold State.takeUnit
  rw [h]
  dsimp only
  rw [if_neg (by simp [hr]), hm, ofNumber_number b hb]
  dsimp only
  rw [if_neg (by omega), if_neg (by omega), if_neg (by omega)]

/-- Settles O37. -/
theorem unitsAreCounted : Obligations.UnitsAreCounted := by
  unfold Obligations.UnitsAreCounted
  intro s p c address site bin n i k b hd hr hs hm hb h1 h2 passed skipped u
  have hi : (s.heardIn p c).insertion c = some i := hd.2.1
  refine ⟨?_, fun x st hx hk hst hskip => ?_⟩
  · have hcount : (s.heardIn p c).takeUnit c site.toNat bin.toNat n.toNat = u.monitorUnit c :=
      State.takeUnit_counts hi hr (site_inMask hs hm) hb h1 h2
    rw [← hcount]
    exact congrArg Host.Outcome.next ((receive_hears hd.1 _).trans (deliver_of hd _))
  · have hlen : i.step + 1 ≤ x.steps.length := (List.getElem?_eq_some_iff.mp hst).1
    have hstep : x.step (i.step + 1) = st := Option.some.inj ((Lot.getElem?_step hlen).symm.trans hst)
    refine ⟨_, _, State.lot_changeStep (by exact hx), Lot.getElem?_step (by rwa [Lot.changeStep_length]), ?_⟩
    rw [Lot.unitsIn_changeStep hk hlen (by rwa [hstep]), Lot.step_changeStep hk (by omega)]
    rfl

end Sys2Proof.Machine
end

section
/-! SUPPORT. What the requests of the Hold Manager and the derivations of cell states leave of the lots and the hold table
(R33, R103 to R108, R130). -/

namespace Sys2Proof.Machine

variable {s t : State} {l : LotSlot} {x : Lot} {c : CellNo}

/-! ## Lots whose state and ready minute alone may change -/

/-- A lot record but for its state and its ready minute. -/
def Lot.body (x : Lot) : Lot := { x with state := .queued, ready := 0 }

/-- The hold table stands, and every lot record but for its state and its ready minute. -/
structure State.LotsStand (s t : State) : Prop where
  hm : t.hm = s.hm
  lot : ∀ m, (t.lot m).map Lot.body = (s.lot m).map Lot.body

theorem State.LotsStand.refl (s : State) : s.LotsStand s := ⟨rfl, fun _ => rfl⟩

theorem State.LotsStand.trans {u : State} (h : s.LotsStand t) (k : t.LotsStand u) : s.LotsStand u :=
  ⟨k.hm.trans h.hm, fun m => (k.lot m).trans (h.lot m)⟩

/-- The lot record of a slot afterwards. -/
theorem State.LotsStand.some (h : s.LotsStand t) (hx : s.lot l = some x) : ∃ y, t.lot l = some y ∧ y.body = x.body := by
  have := h.lot l
  rw [hx] at this
  exact Option.map_eq_some_iff.mp this

/-- An update that leaves the hold table and the lots. -/
theorem State.LotsStand.next {u : State} (h : s.LotsStand t) (hm : u.hm = t.hm) (hl : u.lm.lots = t.lm.lots) :
    s.LotsStand u :=
  h.trans ⟨hm, fun m => by rw [State.lot, hl]; rfl⟩

theorem State.LotsStand.modState (h : s.LotsStand t) (l : LotSlot) (f : Lot → Lot) (hf : ∀ x, (f x).body = x.body) :
    s.LotsStand (t.modLot l f) :=
  h.trans ⟨rfl, fun m => by
    rw [State.lot_modLot]
    by_cases e : m = l
    · rw [if_pos e, e, Option.map_map]
      congr 1
      exact funext hf
    · rw [if_neg e]⟩

theorem State.LotsStand.modCell (h : s.LotsStand t) (c : CellNo) (f : Cell → Cell) : s.LotsStand (t.modCell c f) :=
  h.next rfl rfl

theorem State.LotsStand.setInsertion (h : s.LotsStand t) (c : CellNo) (i : Option Insertion) :
    s.LotsStand (t.setInsertion c i) := h.next rfl rfl

theorem State.LotsStand.modInsertion (h : s.LotsStand t) (c : CellNo) (f : Insertion → Insertion) :
    s.LotsStand (t.modInsertion c f) := h.next rfl rfl

theorem State.LotsStand.report (h : s.LotsStand t) (e : Report) : s.LotsStand (t.report e) := h.next rfl rfl

theorem State.LotsStand.triggerPass (h : s.LotsStand t) : s.LotsStand t.triggerPass := h.next rfl rfl

theorem State.LotsStand.deleteReservation (h : s.LotsStand t) (c : CellNo) : s.LotsStand (t.deleteReservation c) :=
  h.next rfl rfl

theorem State.LotsStand.requeue (h : s.LotsStand t) (l : LotSlot) : s.LotsStand (t.requeue l) := by
  have k := h.modState l (fun x => { x with state := .queued, ready := t.minute }) fun _ => rfl
  exact k.next rfl rfl

theorem State.LotsStand.setLotState (h : s.LotsStand t) (l : LotSlot) (new : LotState) :
    s.LotsStand (t.setLotState l new) := by
  unfold State.setLotState
  split
  · exact h
  · split
    · exact h
    · refine State.LotsStand.report ?_ _
      split
      · exact (h.requeue l).triggerPass
      · have k := h.modState l (fun y => { y with state := new }) fun _ => rfl
        split
        · exact k.next rfl rfl
        · exact k

theorem State.LotsStand.request (h : s.LotsStand t) (c : CellNo) (cmd : Command) : s.LotsStand (t.request c cmd) := by
  unfold State.request
  split
  · exact (h.modCell c _).modInsertion c _
  · exact h.modCell c _

theorem State.LotsStand.setInsState (h : s.LotsStand t) (c : CellNo) (new : InsState) (cause : InsCause) :
    s.LotsStand (t.setInsState c new cause) := by
  unfold State.setInsState
  split
  · exact h
  · exact (h.modInsertion c _).report _

theorem State.LotsStand.suspend (h : s.LotsStand t) (c : CellNo) : s.LotsStand (t.suspend c) := by
  unfold State.suspend
  split
  · exact h
  · split
    · exact h.modInsertion c _
    · dsimp only
      split
      · exact ((h.modInsertion c _).setInsState c _ _).request c _
      · exact (h.modInsertion c _).setInsState c _ _

theorem State.LotsStand.cancelEntry (h : s.LotsStand t) (cause : CancelCause) (r : Reservation) :
    s.LotsStand (t.cancelEntry cause r) := ((h.deleteReservation r.cell).report _).setLotState r.lot .queued

theorem State.LotsStand.cancelFor (h : s.LotsStand t) (c : CellNo) (cause : CancelCause) :
    s.LotsStand (t.cancelFor c cause) := by
  unfold State.cancelFor
  split
  · exact h
  · exact h.cancelEntry cause _

theorem State.LotsStand.enterCellState (h : s.LotsStand t) (c : CellNo) (new : CellState) :
    s.LotsStand (t.enterCellState c new) := by
  cases new with
  | parked => exact (h.modCell c _).suspend c
  | silent => exact (h.suspend c).cancelFor c _
  | mismatch => exact (h.suspend c).cancelFor c _
  | idle => exact h.triggerPass
  | detached => exact h
  | busy => exact h
  | reserved => exact h
  | outOfService => exact h

theorem State.LotsStand.deriveCell (h : s.LotsStand t) (c : CellNo) (cause : CellCause) :
    s.LotsStand (t.deriveCell c cause) := by
  unfold State.deriveCell
  dsimp only
  split
  · exact h
  · exact ((h.modCell c _).report _).enterCellState c _

theorem State.LotsStand.cancelOfLot (h : s.LotsStand t) (l : LotSlot) (cause : CancelCause) :
    s.LotsStand (t.cancelOfLot l cause) := by
  unfold State.cancelOfLot
  split
  · exact h
  · exact (h.cancelEntry cause _).deriveCell _ _

theorem State.LotsStand.pauseRequest (h : s.LotsStand t) (c : CellNo) (f : PauseSet → PauseSet) :
    s.LotsStand (t.pauseRequest c f) := by
  unfold State.pauseRequest
  split
  · exact h
  · next i _ =>
    dsimp only
    split
    · exact h
    · have k := h.modInsertion c fun j => { j with pause := f i.pause, sampleVoid := true }
      have kp := (k.setInsState c .pausing .pause).request c (f i.pause).command
      split
      · split
        · exact kp
        · exact k
      · exact k.request c _
      · split
        · exact kp
        · exact k.request c _
      · exact k

theorem State.LotsStand.syncHold (h : s.LotsStand t) (l : LotSlot) : s.LotsStand (t.syncHold l) := by
  unfold State.syncHold
  split
  · exact h.pauseRequest _ _
  · exact h

/-! ## Hold requests (R103 to R107) -/

/-- A quarantine leaves the hold table and all of a lot but the flag (R107). -/
theorem State.lot_quarantine (hx : s.lot l = some x) (h1 : x.state ≠ .scrapped) (h2 : x.state ≠ .released)
    (m : QuarantineMatter) :
    (s.quarantine l m).hm = s.hm ∧
      ∃ y, (s.quarantine l m).lot l = some y ∧ y.body = { x with quarantined := true }.body := by
  have h : (s.modLot l fun x => { x with quarantined := true }).LotsStand (s.quarantine l m) := by
    unfold State.quarantine
    rw [hx]
    dsimp only
    rw [if_neg (by simp [h1, h2])]
    exact (((State.LotsStand.refl _).report _).syncHold l).cancelOfLot l _
  exact ⟨h.hm, h.some (by rw [State.lot_modLot, if_pos rfl, hx]; rfl)⟩

/-- The hold made for a request (R106). -/
def State.newHold (s : State) (l : LotSlot) (x : Lot) (r : HoldRequest) : Hold :=
  { id := allotHoldId s.hm.holds Config.holdRecords s.hm.lastId, lot := l, step := x.current, origin := r.origin,
    limit := r.limit, reason := r.reason, holdClass := r.holdClass, cell := r.cell, raisedSecond := s.ft.clock,
    state := .opened }

theorem State.lot_makeHold (hx : s.lot l = some x) (r : HoldRequest) :
    (s.makeHold l x r).1.hm = { holds := s.hm.holds ++ [s.newHold l x r], lastId := (s.newHold l x r).id } ∧
      ∃ y, (s.makeHold l x r).1.lot l = some y ∧ y.body = { x with holds := x.holds ++ [(s.newHold l x r).id] }.body := by
  let u : State := { s with hm := { holds := s.hm.holds ++ [s.newHold l x r], lastId := (s.newHold l x r).id } }
  have h : (u.modLot l fun x => { x with holds := x.holds ++ [(s.newHold l x r).id] }).LotsStand (s.makeHold l x r).1 :=
    (((State.LotsStand.refl _).report _).syncHold l).cancelOfLot l _
  have hu : u.lot l = some x := hx
  exact ⟨h.hm, h.some (by rw [State.lot_modLot, if_pos rfl, hu]; rfl)⟩

/-- A request for a SCRAPPED or RELEASED lot is discarded (R103). -/
theorem State.holdRequest_discarded (hx : s.lot l = some x) (h : x.state = .scrapped ∨ x.state = .released)
    (r : HoldRequest) : s.holdRequest l r = (s, 0) := by
  unfold State.holdRequest
  rw [hx]
  exact if_pos h

/-- A request of another origin than LIMIT escalates nothing: it makes a hold where list and table have room (R104 to
R106). -/
theorem State.holdRequest_of {r : HoldRequest} (hx : s.lot l = some x) (h1 : x.state ≠ .scrapped)
    (h2 : x.state ≠ .released) (hr : r.origin ≠ .limit) :
    s.holdRequest l r =
      if 4 ≤ x.holds.length then (s.quarantine l (.lotListFull r), 0)
      else if 256 ≤ s.hm.holds.length then (s.quarantine l (.tableFull r), 0)
      else s.makeHold l x r := by
  have he : s.escalates x r = none := if_neg hr
  unfold State.holdRequest
  rw [hx]
  dsimp only
  rw [if_neg (by simp [h1, h2]), he]
  rfl

/-- The clauses of R103, R105 and R106 on one hold request. -/
theorem holdRequest_cases (s : State) (l : LotSlot) (x : Lot) (r : HoldRequest) (hx : s.lot l = some x)
    (hr : r.origin ≠ .limit) :
    (x.state = .scrapped ∨ x.state = .released → s.holdRequest l r = (s, 0)) ∧
    (x.state ≠ .scrapped → x.state ≠ .released → x.holds.length < 4 → s.hm.holds.length < 256 →
      ∃ h y, (s.holdRequest l r).1.hm = { holds := s.hm.holds ++ [h], lastId := h.id } ∧ h.lot = l ∧ h.step = x.current ∧
        h.origin = r.origin ∧ h.holdClass = r.holdClass ∧ h.cell = r.cell ∧ h.state = .opened ∧
        h.raisedSecond = s.ft.clock ∧ (s.holdRequest l r).1.lot l = some y ∧ y.holds = x.holds ++ [h.id]) ∧
    (x.state ≠ .scrapped → x.state ≠ .released → 4 ≤ x.holds.length ∨ 256 ≤ s.hm.holds.length →
      ∃ y, (s.holdRequest l r).1.lot l = some y ∧ y.quarantined = true ∧ y.holds = x.holds ∧
        (s.holdRequest l r).1.hm = s.hm) := by
  refine ⟨fun h => State.holdRequest_discarded hx h r, fun h1 h2 hl ht => ?_, fun h1 h2 hf => ?_⟩
  · rw [State.holdRequest_of hx h1 h2 hr, if_neg (by omega), if_neg (by omega)]
    obtain ⟨hm, y, hy, e⟩ := State.lot_makeHold hx r
    exact ⟨s.newHold l x r, y, hm, rfl, rfl, rfl, rfl, rfl, rfl, rfl, hy, congrArg Lot.holds e⟩
  · have key (m : QuarantineMatter) : ∃ y, (s.quarantine l m).lot l = some y ∧ y.quarantined = true ∧ y.holds = x.holds ∧
        (s.quarantine l m).hm = s.hm := by
      obtain ⟨hm, y, hy, e⟩ := State.lot_quarantine hx h1 h2 m
      exact ⟨y, hy, (congrArg Lot.quarantined e :), (congrArg Lot.holds e :), hm⟩
    rw [State.holdRequest_of hx h1 h2 hr]
    split
    · exact key _
    · rw [if_pos (by omega)]
      exact key _

end Sys2Proof.Machine
end

section
/-! SUPPORT. What a step closure leaves of its lot (R16, R17). -/

namespace Sys2Proof.Machine

variable {s t : State} {l : LotSlot} {x y : Lot} {new : LotState} {recipes : Vector (Option Recipe) 128}

/-! ## Changes of lot state (R8) -/

theorem State.setLotState_same (hx : s.lot l = some x) (h : x.state = new) : s.setLotState l new = s := by
  unfold State.setLotState
  rw [hx]
  exact if_pos h

/-- A change between two states that are not QUEUED. -/
theorem State.setLotState_apart (hx : s.lot l = some x) (h : x.state ≠ new) (hs : x.state ≠ .queued) (hn : new ≠ .queued) :
    s.setLotState l new =
      (s.setLot l (some { x with state := new })).report (.lotState l (some x.state) (some new) x.current) := by
  unfold State.setLotState
  rw [hx, ← State.modLot_of hx fun y => { y with state := new }]
  simp [h, hs, hn]

/-- The lot record after a change of its state: the ready minute changes on entry into QUEUED alone. -/
theorem State.lot_setLotState (hx : s.lot l = some x) (new : LotState) :
    (s.setLotState l new).lot l = some { x with
      state := new, ready := if new = .queued ∧ x.state ≠ .queued then s.minute else x.ready } := by
  by_cases h : x.state = new
  · rw [State.setLotState_same hx h, hx]
    subst h
    simp
  · by_cases hn : new = .queued
    · subst hn
      rw [State.setLotState_enter hx h, if_pos ⟨rfl, h⟩]
      exact (State.lot_requeue s l l).trans (by rw [if_pos rfl, hx]; rfl)
    · rw [if_neg (by simp [hn])]
      by_cases hs : x.state = .queued
      · rw [State.setLotState_leave hx hs hn]
        simp [State.leaveQueue, State.lot, State.setLot, State.report]
      · rw [State.setLotState_apart hx h hs hn]
        exact (State.lot_setLot s l l _).trans (if_pos rfl)

/-- The queue loses a lot that leaves QUEUED, and stands where no lot joins or leaves it (R13). -/
theorem State.queue_setLotState (hx : s.lot l = some x) (h : new = .queued → x.state = .queued) :
    (s.setLotState l new).lm.queue =
      if x.state = .queued ∧ new ≠ .queued then s.lm.queue.erase l else s.lm.queue := by
  by_cases e : x.state = new
  · rw [State.setLotState_same hx e, if_neg (by simp [e])]
  · have hn : new ≠ .queued := fun hn => e ((h hn).trans hn.symm)
    by_cases hs : x.state = .queued
    · rw [State.setLotState_leave hx hs hn, if_pos ⟨hs, hn⟩]
      rfl
    · rw [State.setLotState_apart hx e hs hn, if_neg (by simp [hs])]
      rfl

/-! ## The lot after the closure of its current step (R16, R17) -/

theorem Lot.step_skipLater_le {k : Nat} (hk : 1 ≤ k) (h : k ≤ x.current) (hl : x.current ≤ x.steps.length) :
    x.skipLater.step k = x.step k := by
  unfold Lot.step Lot.skipLater
  rw [List.getElem?_append_left (by simp; omega), List.getElem?_take_of_lt (by omega)]

theorem Lot.step_skipLater_gt {k : Nat} (h : x.current < k) (hl : k ≤ x.steps.length) :
    x.skipLater.step k = (x.step k).skip := by
  have e : (x.steps.take x.current).length = x.current := by simp; omega
  unfold Lot.step Lot.skipLater
  rw [List.getElem?_append_right (by omega), e, List.getElem?_map, List.getElem?_drop,
    show x.current + (k - 1 - x.current) = k - 1 by omega, List.getElem?_eq_getElem (by omega)]
  rfl

theorem LotStep.skip_accounted (st : LotStep) : st.skip.accounted = 0 := by
  simp [LotStep.accounted, LotStep.binSum, LotStep.skip]

/-- The grade-bin total of a lot's current step. -/
def Lot.grades (recipes : Vector (Option Recipe) 128) (x : Lot) : Nat :=
  (x.step x.current).gradeTotal (passSetOf recipes (x.step x.current).recipe)

/-- The lot `y` is what the closure of the current step of `x` leaves, the lot's state and ready minute aside (R16, R17). -/
structure Lot.WentOn (recipes : Vector (Option Recipe) 128) (x y : Lot) : Prop where
  step : y.step x.current = { x.step x.current with state := .closed }
  kept : y.ship = x.ship ∧ y.holds = x.holds ∧ y.quarantined = x.quarantined ∧ y.deviation = x.deviation
  empties : x.grades recipes = 0 → y.state = .complete ∧ y.empty = true ∧ y.tail = 0 ∧ y.current = x.current ∧
    ∀ k, x.current < k → k ≤ x.steps.length →
      (y.step k).state = .skipped ∧ (y.step k).unitsIn = 0 ∧ (y.step k).accounted = 0 ∧ (y.step k).runs = []
  completes : x.grades recipes ≠ 0 → x.current = x.steps.length →
    y.state = .complete ∧ y.empty = x.empty ∧ y.tail = 0 ∧ y.current = x.current
  advances : x.grades recipes ≠ 0 → x.current < x.steps.length → y.state = .queued ∧ y.current = x.current + 1

/-- The lot with its current step closed, before it goes on. -/
def Lot.closeCurrent (recipes : Vector (Option Recipe) 128) (x : Lot) : Lot :=
  x.changeStep recipes x.current fun st => { st with state := .closed }

/-- The lot record with which a lot goes on from its closed step, and the state that it enters (R17). -/
def Lot.goesOn (recipes : Vector (Option Recipe) 128) (x : Lot) : Lot × LotState :=
  let w := x.closeCurrent recipes
  if x.grades recipes = 0 then ({ w.skipLater with empty := true, tail := 0 }, .complete)
  else if x.steps.length ≤ x.current then ({ w with tail := 0 }, .complete)
  else (Lot.retail recipes { w with current := x.current + 1 }, .queued)

theorem Lot.goesOn_empty (h : x.grades recipes = 0) :
    x.goesOn recipes = ({ (x.closeCurrent recipes).skipLater with empty := true, tail := 0 }, .complete) := if_pos h

theorem Lot.goesOn_last (h : x.grades recipes ≠ 0) (hl : x.steps.length ≤ x.current) :
    x.goesOn recipes = ({ x.closeCurrent recipes with tail := 0 }, .complete) := (if_neg h).trans (if_pos hl)

theorem Lot.goesOn_next (h : x.grades recipes ≠ 0) (hl : ¬ x.steps.length ≤ x.current) :
    x.goesOn recipes = (Lot.retail recipes { x.closeCurrent recipes with current := x.current + 1 }, .queued) :=
  (if_neg h).trans (if_neg hl)

/-- A step closure is a change of the step, of the record, and of the lot's state. -/
theorem State.closeStep_eq (hx : s.lot l = some x) :
    s.closeStep l =
      ((s.changeStep l x.current fun st => { st with state := .closed }).setLot l
        (some (x.goesOn s.lm.recipes).1)).setLotState l (x.goesOn s.lm.recipes).2 := by
  have hw := State.lot_changeStep (k := x.current) (f := fun st => { st with state := .closed }) hx
  unfold State.closeStep
  rw [hx]
  dsimp only
  split
  · next h0 =>
    rw [State.modLot_of hw, Lot.goesOn_empty (recipes := s.lm.recipes) h0]
    rfl
  · next h0 =>
    split
    · next hl =>
      rw [State.modLot_of hw, Lot.goesOn_last (recipes := s.lm.recipes) h0 hl]
      rfl
    · next hl =>
      rw [State.modLot_of hw, Lot.goesOn_next (recipes := s.lm.recipes) h0 hl]
      rfl

/-- The record with which a lot goes on, but for its state. -/
theorem Lot.wentOn_goesOn (h1 : 1 ≤ x.current) (h2 : x.current ≤ x.steps.length) (ready : Nat) :
    x.WentOn recipes { (x.goesOn recipes).1 with state := (x.goesOn recipes).2, ready := ready } := by
  have hstep : (x.closeCurrent recipes).step x.current = { x.step x.current with state := .closed } :=
    Lot.step_changeStep h1 h2
  have hlen : (x.closeCurrent recipes).steps.length = x.steps.length := Lot.changeStep_length
  by_cases h0 : x.grades recipes = 0
  · rw [Lot.goesOn_empty h0]
    refine ⟨?_, ⟨rfl, rfl, rfl, rfl⟩, fun _ => ⟨rfl, rfl, rfl, rfl, fun k hk hl => ?_⟩, fun h => absurd h0 h,
      fun h => absurd h0 h⟩
    · rw [← hstep]
      exact Lot.step_skipLater_le h1 le_rfl (by rw [hlen]; exact h2)
    · have e : (x.closeCurrent recipes).skipLater.step k = ((x.closeCurrent recipes).step k).skip :=
        Lot.step_skipLater_gt hk (by rw [hlen]; exact hl)
      exact ⟨congrArg LotStep.state e, congrArg LotStep.unitsIn e,
        (congrArg LotStep.accounted e).trans (LotStep.skip_accounted _), congrArg LotStep.runs e⟩
  · by_cases hl : x.steps.length ≤ x.current
    · rw [Lot.goesOn_last h0 hl]
      exact ⟨hstep, ⟨rfl, rfl, rfl, rfl⟩, fun h => absurd h h0, fun _ _ => ⟨rfl, rfl, rfl, rfl⟩, fun _ h => by omega⟩
    · rw [Lot.goesOn_next h0 hl]
      exact ⟨hstep, ⟨rfl, rfl, rfl, rfl⟩, fun h => absurd h h0, fun _ h => by omega, fun _ _ => ⟨rfl, rfl⟩⟩

/-- The closure of a lot's current step: the lot goes on, and a QUEUED lot leaves the queue when it is COMPLETE and keeps its
place when it goes on to its next step (R16, R17). -/
theorem State.lot_closeStep (hx : s.lot l = some x) (h1 : 1 ≤ x.current) (h2 : x.current ≤ x.steps.length) :
    ∃ y, (s.closeStep l).lot l = some y ∧ x.WentOn s.lm.recipes y ∧
      (x.state = .queued → y.state = .complete → (s.closeStep l).lm.queue = s.lm.queue.erase l) ∧
      (x.state = .queued → y.state = .queued → (s.closeStep l).lm.queue = s.lm.queue ∧ y.ready = x.ready) := by
  let u := (s.changeStep l x.current fun st => { st with state := .closed }).setLot l (some (x.goesOn s.lm.recipes).1)
  have hu : u.lot l = some (x.goesOn s.lm.recipes).1 := (State.lot_setLot _ l l _).trans (if_pos rfl)
  have hstate : (x.goesOn s.lm.recipes).1.state = x.state ∧ (x.goesOn s.lm.recipes).1.ready = x.ready := by
    unfold Lot.goesOn
    dsimp only
    split
    · exact ⟨rfl, rfl⟩
    · split <;> exact ⟨rfl, rfl⟩
  rw [State.closeStep_eq hx]
  refine ⟨_, State.lot_setLotState hu _, Lot.wentOn_goesOn h1 h2 _, fun hq hc => ?_, fun hq hc => ⟨?_, ?_⟩⟩
  · refine (State.queue_setLotState hu fun _ => hstate.1.trans hq).trans (if_pos ⟨hstate.1.trans hq, ?_⟩)
    rw [show (x.goesOn s.lm.recipes).2 = .complete from hc]
    simp
  · refine (State.queue_setLotState hu fun _ => hstate.1.trans hq).trans (if_neg ?_)
    rw [show (x.goesOn s.lm.recipes).2 = .queued from hc]
    simp
  · dsimp only
    rw [if_neg (by simp [hstate.1, hq]), hstate.2]

end Sys2Proof.Machine
end

section
/-! SUPPORT. What stays of the cells, the insertions and the lot while a run closes (R75 to R78): the records of the floor but
for desired commands, the counts of the run, and the lot but for its holds. -/

namespace Sys2Proof.Machine

variable {s t : State} {l : LotSlot} {x : Lot} {c : CellNo}

/-! ## Changes of lots alone -/

/-- The cells, the insertions, the ports, the reservations, the recipes and the floor timer stand. -/
structure State.CellsStand (s t : State) : Prop where
  cells : t.cells = s.cells
  insertions : t.insertions = s.insertions
  ports : t.ports = s.ports
  reservations : t.de.reservations = s.de.reservations
  recipes : t.lm.recipes = s.lm.recipes
  ft : t.ft = s.ft

theorem State.CellsStand.refl (s : State) : s.CellsStand s := ⟨rfl, rfl, rfl, rfl, rfl, rfl⟩

theorem State.CellsStand.trans {u : State} (h : s.CellsStand t) (k : t.CellsStand u) : s.CellsStand u :=
  ⟨k.cells.trans h.cells, k.insertions.trans h.insertions, k.ports.trans h.ports, k.reservations.trans h.reservations,
    k.recipes.trans h.recipes, k.ft.trans h.ft⟩

theorem State.CellsStand.setLot (h : s.CellsStand t) (l : LotSlot) (x : Option Lot) : s.CellsStand (t.setLot l x) :=
  h.trans ⟨rfl, rfl, rfl, rfl, rfl, rfl⟩

theorem State.CellsStand.modLot (h : s.CellsStand t) (l : LotSlot) (f : Lot → Lot) : s.CellsStand (t.modLot l f) :=
  h.setLot l _

theorem State.CellsStand.report (h : s.CellsStand t) (e : Report) : s.CellsStand (t.report e) :=
  h.trans ⟨rfl, rfl, rfl, rfl, rfl, rfl⟩

theorem State.CellsStand.triggerPass (h : s.CellsStand t) : s.CellsStand t.triggerPass :=
  h.trans ⟨rfl, rfl, rfl, rfl, rfl, rfl⟩

theorem State.CellsStand.changeStep (h : s.CellsStand t) (l : LotSlot) (k : Nat) (f : LotStep → LotStep) :
    s.CellsStand (t.changeStep l k f) := h.modLot l _

theorem State.CellsStand.requeue (h : s.CellsStand t) (l : LotSlot) : s.CellsStand (t.requeue l) :=
  h.trans ⟨rfl, rfl, rfl, rfl, rfl, rfl⟩

theorem State.CellsStand.setLotState (h : s.CellsStand t) (l : LotSlot) (new : LotState) :
    s.CellsStand (t.setLotState l new) := by
  unfold State.setLotState
  split
  · exact h
  · split
    · exact h
    · refine State.CellsStand.report ?_ _
      split
      · exact (h.requeue l).triggerPass
      · split
        · exact h.trans ⟨rfl, rfl, rfl, rfl, rfl, rfl⟩
        · exact h.modLot l _

theorem State.CellsStand.closeStep (h : s.CellsStand t) (l : LotSlot) : s.CellsStand (t.closeStep l) := by
  cases hx : t.lot l with
  | none =>
    unfold State.closeStep
    rw [hx]
    exact h
  | some x =>
    rw [State.closeStep_eq hx]
    exact ((h.changeStep l _ _).setLot l _).setLotState l _

/-! ## Changes of desired commands -/

/-- The ports, the reservations, the recipes and the floor timer stand, and every cell record but for its desired command. -/
structure State.Near (s t : State) : Prop where
  ports : t.ports = s.ports
  reservations : t.de.reservations = s.de.reservations
  recipes : t.lm.recipes = s.lm.recipes
  ft : t.ft = s.ft
  cell : ∀ d, ∃ o, t.cell d = { s.cell d with slot := { (s.cell d).slot with desired := o } }

theorem State.CellsStand.near (h : s.CellsStand t) : s.Near t :=
  ⟨h.ports, h.reservations, h.recipes, h.ft, fun d => ⟨(s.cell d).slot.desired, by simp [State.cell, h.cells]⟩⟩

theorem State.Near.refl (s : State) : s.Near s := (State.CellsStand.refl s).near

theorem State.Near.trans {u : State} (h : s.Near t) (k : t.Near u) : s.Near u :=
  ⟨k.ports.trans h.ports, k.reservations.trans h.reservations, k.recipes.trans h.recipes, k.ft.trans h.ft, fun d => by
    obtain ⟨a, ha⟩ := h.cell d
    obtain ⟨b, hb⟩ := k.cell d
    exact ⟨b, by rw [hb, ha]⟩⟩

theorem State.Near.modInsertion (h : s.Near t) (c : CellNo) (f : Insertion → Insertion) : s.Near (t.modInsertion c f) :=
  h.trans ⟨rfl, rfl, rfl, rfl, fun d => ⟨(t.cell d).slot.desired, rfl⟩⟩

theorem State.Near.asked (h : s.Near t) (c : CellNo) (cmd : Command) : s.Near (t.asked c cmd) :=
  h.trans ⟨rfl, rfl, rfl, rfl, fun d => by
    unfold State.asked
    rw [State.cell_modCell]
    by_cases e : d = c
    · subst e
      exact ⟨some cmd, by rw [if_pos rfl]⟩
    · exact ⟨(t.cell d).slot.desired, by rw [if_neg e]⟩⟩

/-! ## Hold requests and evaluations beside a run -/

/-- What of an insertion record the close of its run reads: pauses, evaluations and holds leave it. -/
structure RunRecord where
  lot : LotSlot
  step : Nat
  runIndex : Nat
  recipe : RecipeNo
  unitsTested : Nat
  runGap : Nat
  runBins : Vector Nat 16

/-- The run record of an insertion. -/
def Insertion.run (i : Insertion) : RunRecord :=
  { lot := i.lot, step := i.step, runIndex := i.runIndex, recipe := i.recipe, unitsTested := i.unitsTested,
    runGap := i.runGap, runBins := i.runBins }

/-- Beside what `Near` says, every run record stands, and lot `l` but for its hold list and its quarantine. -/
structure State.Beside (l : LotSlot) (s t : State) : Prop extends s.Near t where
  run : ∀ d, (t.insertion d).map Insertion.run = (s.insertion d).map Insertion.run
  lot : ∀ x, s.lot l = some x → ∃ hs q, t.lot l = some { x with holds := hs, quarantined := q }

theorem State.Beside.refl (l : LotSlot) (s : State) : s.Beside l s :=
  ⟨.refl s, fun _ => rfl, fun x hx => ⟨x.holds, x.quarantined, hx⟩⟩

theorem State.Beside.trans {u : State} (h : s.Beside l t) (k : t.Beside l u) : s.Beside l u :=
  ⟨h.toNear.trans k.toNear, fun d => (k.run d).trans (h.run d), fun x hx => by
    obtain ⟨a, b, ha⟩ := h.lot x hx
    obtain ⟨a', b', hb⟩ := k.lot _ ha
    exact ⟨a', b', hb⟩⟩

theorem State.Beside.modInsertion (h : s.Beside l t) (c : CellNo) (f : Insertion → Insertion) (hf : ∀ i, (f i).run = i.run) :
    s.Beside l (t.modInsertion c f) :=
  h.trans ⟨(State.Near.refl t).modInsertion c f, fun d => by
    rw [State.insertion_modInsertion]
    by_cases e : d = c
    · rw [if_pos e, e, Option.map_map]
      congr 1
      exact funext hf
    · rw [if_neg e], fun x hx => ⟨x.holds, x.quarantined, hx⟩⟩

theorem State.Beside.asked (h : s.Beside l t) (c : CellNo) (cmd : Command) : s.Beside l (t.asked c cmd) :=
  h.trans ⟨(State.Near.refl t).asked c cmd, fun _ => rfl, fun x hx => ⟨x.holds, x.quarantined, hx⟩⟩

theorem State.Beside.report (h : s.Beside l t) (e : Report) : s.Beside l (t.report e) :=
  h.trans ⟨((State.CellsStand.refl t).report e).near, fun _ => rfl, fun x hx => ⟨x.holds, x.quarantined, hx⟩⟩

/-- A change of the hold list and the quarantine of lot `l`. -/
theorem State.Beside.modHolds (h : s.Beside l t) (f : Lot → Lot)
    (hf : ∀ x, ∃ hs q, f x = { x with holds := hs, quarantined := q }) : s.Beside l (t.modLot l f) :=
  h.trans ⟨((State.CellsStand.refl t).modLot l f).near, fun _ => rfl, fun x hx => by
    obtain ⟨hs, q, e⟩ := hf x
    exact ⟨hs, q, by rw [State.lot_modLot, if_pos rfl, hx, Option.map_some, e]⟩⟩

theorem State.Beside.pauseRequest (h : s.Beside l t) (c : CellNo) (f : PauseSet → PauseSet) :
    s.Beside l (t.pauseRequest c f) := by
  cases hi : t.insertion c with
  | none =>
    unfold State.pauseRequest
    rw [hi]
    exact h
  | some i =>
    rw [pauseRequest_eq hi]
    split
    · exact h
    · have k := h.modInsertion c (fun j => { j with pause := f i.pause, sampleVoid := true }) fun _ => rfl
      have kp := (h.modInsertion c (fun j => { j with pause := f i.pause, sampleVoid := true, state := .pausing })
        fun _ => rfl).report (.insertionEvent c i.lot (some i.state) (some .pausing) .pause)
      dsimp only
      split
      · split
        · exact kp.asked c _
        · exact k
      · exact k.asked c _
      · split
        · exact kp.asked c _
        · exact k.asked c _
      · exact k

theorem State.Beside.syncHold (h : s.Beside l t) (m : LotSlot) : s.Beside l (t.syncHold m) := by
  unfold State.syncHold
  split
  · exact h.pauseRequest _ _
  · exact h

/-- Without a reservation of the lot there is nothing to cancel (R109). -/
theorem State.cancelOfLot_none (h : s.reservationOfLot l = none) (cause : CancelCause) : s.cancelOfLot l cause = s := by
  unfold State.cancelOfLot
  rw [h]

theorem State.Near.reservationOfLot (h : s.Near t) (l : LotSlot) : t.reservationOfLot l = s.reservationOfLot l := by
  unfold State.reservationOfLot
  rw [h.reservations]

theorem State.Beside.cancelOfLot (h : s.Beside l t) (hr : s.reservationOfLot l = none) (cause : CancelCause) :
    s.Beside l (t.cancelOfLot l cause) := by
  rw [State.cancelOfLot_none ((h.reservationOfLot l).trans hr)]
  exact h

theorem State.Beside.quarantine (h : s.Beside l t) (hr : s.reservationOfLot l = none) (m : QuarantineMatter) :
    s.Beside l (t.quarantine l m) := by
  unfold State.quarantine
  split
  · exact h
  · split
    · exact h
    · exact (((h.modHolds _ fun x => ⟨x.holds, true, rfl⟩).report _).syncHold l).cancelOfLot hr _

theorem State.Beside.makeHold (h : s.Beside l t) (hr : s.reservationOfLot l = none) (x : Lot) (r : HoldRequest) :
    s.Beside l (t.makeHold l x r).1 := by
  let u : State := { t with hm := { holds := t.hm.holds ++ [t.newHold l x r], lastId := (t.newHold l x r).id } }
  have k : s.Beside l u :=
    h.trans ⟨(State.CellsStand.near ⟨rfl, rfl, rfl, rfl, rfl, rfl⟩), fun _ => rfl, fun x hx => ⟨x.holds, x.quarantined, hx⟩⟩
  have k := k.modHolds (fun y => { y with holds := y.holds ++ [(t.newHold l x r).id] })
    fun y => ⟨y.holds ++ [(t.newHold l x r).id], y.quarantined, rfl⟩
  exact ((k.report (.holdRaised l (t.newHold l x r).id x.current r)).syncHold l).cancelOfLot hr _

theorem State.Beside.holdRequest (h : s.Beside l t) (hr : s.reservationOfLot l = none) (r : HoldRequest) :
    s.Beside l (t.holdRequest l r).1 := by
  unfold State.holdRequest
  split
  · exact h
  · split
    · exact h
    · split
      · exact h.quarantine hr _
      · split
        · exact h.quarantine hr _
        · split
          · exact h.quarantine hr _
          · exact h.makeHold hr _ r

theorem State.Beside.foldl {α : Type} (f : State → α → State) (hf : ∀ u a, s.Beside l u → s.Beside l (f u a)) (as : List α) :
    ∀ t : State, s.Beside l t → s.Beside l (as.foldl f t) := by
  induction as with
  | nil => exact fun _ h => h
  | cons a as ih => exact fun t h => ih _ (hf t a h)

/-- An evaluation of the insertion of lot `l`. -/
theorem State.Beside.evaluate {i : Insertion} (h : s.Beside l t) (hr : s.reservationOfLot l = none)
    (hi : t.insertion c = some i) (hl : i.lot = l) (kind : EvalKind) : s.Beside l (t.evaluate kind c) := by
  unfold State.evaluate
  rw [hi]
  dsimp only
  rw [hl]
  split
  · exact h
  · next x hx =>
    refine State.Beside.foldl _ (fun u p k => ?_) _ _ ?_
    · unfold State.handTrip
      split
      · exact k
      · split
        · exact k.holdRequest hr _
        · exact k
    · have k (a : Vector Bool 8) := h.modInsertion c (fun j => { j with armed := a }) fun _ => rfl
      split
      · exact k _
      · exact (k _).report _

theorem State.Beside.monitorClose {i : Insertion} (h : s.Beside l t) (hr : s.reservationOfLot l = none)
    (hi : t.insertion c = some i) (hl : i.lot = l) : s.Beside l (t.monitorClose c) := by
  unfold State.monitorClose
  rw [hi]
  dsimp only
  split
  · exact h
  · split
    · exact h
    · exact h.evaluate hr hi hl .final

end Sys2Proof.Machine
end

section
/-! SUPPORT. The close of a run, operation by operation (R75 to R78). -/

namespace Sys2Proof.Machine

variable {s v w : State} {l : LotSlot} {x y : Lot} {c : CellNo} {i j : Insertion} {r : RunRecord} {st : LotStep} {f : EndFrame}

/-! ## The last run entry (R7) -/

theorem modLastRun_eq (g : Run → Run) (rs : List Run) : modLastRun g rs = rs.dropLast ++ (rs.getLast?.map g).toList := by
  induction rs using modLastRun.induct with
  | case1 => rfl
  | case2 a => rfl
  | case3 a b rest ih =>
    rw [modLastRun, ih]
    simp

theorem modLastRun_length (g : Run → Run) (rs : List Run) : (modLastRun g rs).length = rs.length := by
  induction rs using modLastRun.induct with
  | case1 => rfl
  | case2 a => rfl
  | case3 a b rest ih =>
    rw [modLastRun, List.length_cons, ih]
    rfl

theorem modLastRun_getLast (g : Run → Run) (rs : List Run) : (modLastRun g rs).getLast? = rs.getLast?.map g := by
  rw [modLastRun_eq]
  cases h : rs.getLast? with
  | none => simp [List.getLast?_eq_none_iff.mp h]
  | some a => simp

/-- Once the last run is closed, all are closed when those before it are. -/
theorem modLastRun_closed {g : Run → Run} (hg : ∀ a, (g a).endSecond ≠ none) (rs : List Run) :
    ((modLastRun g rs).all fun a => a.endSecond.isSome) = true ↔ ∀ a ∈ rs.dropLast, a.endSecond ≠ none := by
  rw [modLastRun_eq, List.all_append, Bool.and_eq_true]
  have hlast : (((rs.getLast?.map g).toList).all fun a => a.endSecond.isSome) = true := by
    cases rs.getLast? with
    | none => rfl
    | some a => simpa [Option.isSome_iff_ne_none] using hg a
  simp [hlast, Option.isSome_iff_ne_none]

/-! ## A run on its way to the close -/

/-- Lot `y` has the state, the place on the route, the ship order and the flag EMPTY of `x`. -/
structure Lot.SameCourse (x y : Lot) : Prop where
  state : y.state = x.state
  current : y.current = x.current
  ship : y.ship = x.ship
  empty : y.empty = x.empty
  length : y.steps.length = x.steps.length

/-- State `v` is on the way from `s` to the close of the run in cell `c`: the run record stands at `r`, and its lot, on the
course of `x`, has come to `st` in the step of the run. -/
structure State.InRun (s v : State) (c : CellNo) (x : Lot) (r : RunRecord) (st : LotStep) : Prop where
  near : s.Near v
  run : ∃ j, v.insertion c = some j ∧ j.run = r
  lot : ∃ y, v.lot r.lot = some y ∧ x.SameCourse y ∧ y.step r.step = st

theorem State.InRun.beside (h : s.InRun v c x r st) (k : v.Beside r.lot w) : s.InRun w c x r st := by
  obtain ⟨j, hj, hrun⟩ := h.run
  obtain ⟨y, hy, hc, hst⟩ := h.lot
  obtain ⟨hs, q, hz⟩ := k.lot y hy
  refine ⟨h.near.trans k.toNear, ?_, _, hz, ⟨hc.state, hc.current, hc.ship, hc.empty, hc.length⟩, hst⟩
  have e := k.run c
  rw [hj] at e
  obtain ⟨j', hj', e'⟩ := Option.map_eq_some_iff.mp e
  exact ⟨j', hj', e'.trans hrun⟩

theorem State.InRun.changeStep (h : s.InRun v c x r st) (h1 : 1 ≤ r.step) (h2 : r.step ≤ x.steps.length)
    (g : LotStep → LotStep) : s.InRun (v.changeStep r.lot r.step g) c x r (g st) := by
  obtain ⟨y, hy, hc, hst⟩ := h.lot
  refine ⟨h.near.trans ((State.CellsStand.refl v).changeStep _ _ _).near, h.run, _, State.lot_changeStep hy,
    ⟨hc.state, hc.current, hc.ship, hc.empty, Lot.changeStep_length.trans hc.length⟩, ?_⟩
  rw [Lot.step_changeStep h1 (hc.length.symm ▸ h2), hst]

theorem State.InRun.modInsertion (h : s.InRun v c x r st) (g : Insertion → Insertion) {r' : RunRecord}
    (hg : ∀ j, j.run = r → (g j).run = r') (hl : r'.lot = r.lot) (hs : r'.step = r.step) :
    s.InRun (v.modInsertion c g) c x r' st := by
  obtain ⟨j, hj, hrun⟩ := h.run
  obtain ⟨y, hy, hc, hst⟩ := h.lot
  refine ⟨h.near.modInsertion c g, ⟨g j, ?_, hg j hrun⟩, y, by rw [hl]; exact hy, hc, by rw [hs]; exact hst⟩
  rw [State.insertion_modInsertion, if_pos rfl, hj]
  rfl

theorem State.InRun.engineHold (h : s.InRun v c x r st) (hr : s.reservationOfLot r.lot = none) (o : HoldOrigin)
    (k : HoldClass) : s.InRun (v.engineHold r.lot c o k) c x r st :=
  h.beside ((State.Beside.refl r.lot v).holdRequest ((h.near.reservationOfLot _).trans hr) _)

theorem State.InRun.monitorClose (h : s.InRun v c x r st) (hr : s.reservationOfLot r.lot = none) :
    s.InRun (v.monitorClose c) c x r st := by
  obtain ⟨j, hj, hrun⟩ := h.run
  exact h.beside ((State.Beside.refl r.lot v).monitorClose ((h.near.reservationOfLot _).trans hr) hj
    (congrArg RunRecord.lot hrun))

/-! ## The catch-up (R75 step 1) -/

/-- The units seen once the tap's highest unit number has been caught up with (R75). -/
def Insertion.seenAt (i : Insertion) (h : Nat) : Nat := if i.unitsSeen < h then min h i.expected else i.unitsSeen

/-- The run gap with the units not seen (R75). -/
def Insertion.gapAt (i : Insertion) (h : Nat) : Nat := i.runGap + (i.seenAt h - i.unitsSeen)

/-- The catch-up up to R70's request. -/
def State.seeUnits (c : CellNo) (i : Insertion) (h : Nat) (v : State) : State :=
  (v.modInsertion c fun j => { j with runGap := i.gapAt h, unitsSeen := i.seenAt h }).changeStep i.lot i.step
    fun st => { st with gap := st.gap + (i.seenAt h - i.unitsSeen) }

theorem State.catchUp_eq (hi : v.insertion c = some i) (h : Nat) :
    v.catchUp c h =
      if h ≤ i.unitsSeen then v
      else if i.expected < h ∧ i.quantityHold = false then
        ((v.seeUnits c i h).modInsertion c fun j => { j with quantityHold := true }).engineHold i.lot c .quantity .stopNow
      else v.seeUnits c i h := by
  unfold State.catchUp
  rw [hi]
  dsimp only
  by_cases hle : h ≤ i.unitsSeen
  · rw [if_pos hle, if_pos hle]
  · have hseen : i.seenAt h = min h i.expected := if_pos (by omega)
    have hmod : (v.modInsertion c fun j => { j with
        runGap := j.runGap + (min h i.expected - i.unitsSeen), unitsSeen := min h i.expected }) =
        v.modInsertion c fun j => { j with runGap := i.gapAt h, unitsSeen := i.seenAt h } :=
      modInsertion_congr hi (by rw [Insertion.gapAt, hseen])
    have hsee : ((v.modInsertion c fun j => { j with
        runGap := j.runGap + (min h i.expected - i.unitsSeen), unitsSeen := min h i.expected }).changeStep i.lot i.step
          (LotStep.addGap (min h i.expected - i.unitsSeen))) = v.seeUnits c i h := by
      rw [hmod, ← hseen]
      rfl
    have hins : (v.seeUnits c i h).insertion c = some { i with runGap := i.gapAt h, unitsSeen := i.seenAt h } := by
      refine (State.insertion_modInsertion v c c _).trans ?_
      rw [if_pos rfl, hi]
      rfl
    rw [if_neg hle, if_neg hle, hsee]
    by_cases hx : i.expected < h
    · rw [if_pos hx]
      unfold State.quantityExcess
      rw [hins]
      cases hq : i.quantityHold with
      | true => simp
      | false => simp [hx]
    · rw [if_neg hx, if_neg (by simp [hx])]

theorem State.InRun.catchUp (hr : v.reservationOfLot i.lot = none) (hi : v.insertion c = some i)
    (hx : v.lot i.lot = some x) (h1 : 1 ≤ i.step) (h2 : i.step ≤ x.steps.length) (h : Nat) :
    v.InRun (v.catchUp c h) c x { i.run with runGap := i.gapAt h }
      { x.step i.step with gap := (x.step i.step).gap + (i.seenAt h - i.unitsSeen) } := by
  have start : v.InRun v c x i.run (x.step i.step) := ⟨.refl v, ⟨i, hi, rfl⟩, x, hx, ⟨rfl, rfl, rfl, rfl, rfl⟩, rfl⟩
  rw [State.catchUp_eq hi]
  split
  · next hle =>
    have hseen : i.seenAt h = i.unitsSeen := if_neg (by omega)
    have hgap : i.gapAt h = i.runGap := by rw [Insertion.gapAt, hseen, Nat.sub_self, Nat.add_zero]
    rw [hgap, hseen, Nat.sub_self]
    exact start
  · have k := (start.modInsertion (fun j => { j with runGap := i.gapAt h, unitsSeen := i.seenAt h })
      (r' := { i.run with runGap := i.gapAt h }) (fun j hj => by rw [← hj]; rfl) rfl rfl).changeStep h1 h2
        fun st => { st with gap := st.gap + (i.seenAt h - i.unitsSeen) }
    split
    · exact (k.modInsertion (fun j => { j with quantityHold := true }) (fun j hj => hj) rfl rfl).engineHold hr _ _
    · exact k

/-! ## The totals and the loss (R75 steps 2 and 3, R76) -/

/-- A step's bin counts with the tap's totals adopted (R75). -/
def LotStep.adopted (st : LotStep) (runBins : Vector Nat 16) (f : EndFrame) : Vector Nat 16 :=
  Vector.ofFn fun b : Bin => st.bins[b] - runBins[b] + f.totals[b].toNat

theorem State.InRun.reconcile_eq (h : s.InRun v c x r st) (f : EndFrame) :
    v.reconcile c f =
      if (f.totals.toList.map BitVec.toNat).sum = r.unitsTested + r.runGap then
        (v.changeStep r.lot r.step fun u => { u with bins := st.adopted r.runBins f, gap := u.gap - r.runGap }).modInsertion c
          fun j => { j with runBins := f.totals.map BitVec.toNat, runGap := 0 }
      else v.engineHold r.lot c .reconcile .soft := by
  obtain ⟨j, hj, rfl⟩ := h.run
  obtain ⟨y, hy, -, hst⟩ := h.lot
  unfold State.reconcile
  rw [hj]
  have hbins : (LotStep.adoptTotals j.runBins (f.totals.map BitVec.toNat) j.runGap) (y.step j.step) =
      { y.step j.step with bins := st.adopted j.runBins f, gap := (y.step j.step).gap - j.runGap } := by
    rw [show y.step j.step = st from hst]
    simp [LotStep.adoptTotals, LotStep.adopted]
  have e : v.changeStep j.lot j.step (LotStep.adoptTotals j.runBins (f.totals.map BitVec.toNat) j.runGap) =
      v.changeStep j.lot j.step fun u => { u with bins := st.adopted j.runBins f, gap := u.gap - j.runGap } :=
    State.changeStep_congr hy hbins
  dsimp only
  rw [e]
  rfl

theorem State.InRun.takeLoss_eq (h : s.InRun v c x r st) (n : Nat) :
    v.takeLoss c n =
      if min n st.remainder < n then
        (v.changeStep r.lot r.step (LotStep.addLoss (min n st.remainder))).engineHold r.lot c .quantity .soft
      else v.changeStep r.lot r.step (LotStep.addLoss (min n st.remainder)) := by
  obtain ⟨j, hj, rfl⟩ := h.run
  obtain ⟨y, hy, -, rfl⟩ := h.lot
  have hy : v.lot j.lot = some y := hy
  unfold State.takeLoss
  rw [hj]
  dsimp only
  rw [hy]
  rfl

end Sys2Proof.Machine
end

section
/-! SUPPORT. The end of a run's close: the run entry, the step, the cell and the STEP_RESULT record (R77, R78). -/

namespace Sys2Proof.Machine

variable {s v w : State} {l : LotSlot} {x y : Lot} {c : CellNo} {i j : Insertion} {r : RunRecord} {st : LotStep} {f : EndFrame}

/-! ## The cell at the close (R77 step 4, R78) -/

/-- A BUSY cell whose insertion has ended, and which no reservation names (Table 2-4). -/
theorem State.derivedState_ended (h : s.derivedState c = .busy) (hm : (w.cell c).mapping = (s.cell c).mapping)
    (hp : w.ports = s.ports) (hh : (w.cell c).heard = (s.cell c).heard)
    (hi : (w.cell c).mismatched = (s.cell c).mismatched) (hn : w.insertion c = none) (hr : w.reservationOf c = none) :
    w.derivedState c = if (w.cell c).service then .idle else .outOfService := by
  unfold State.derivedState at h ⊢
  dsimp only at h ⊢
  rw [hm, hh, hi, hn, hr]
  cases hmap : (s.cell c).mapping with
  | none => simp [hmap] at h
  | some m =>
    have hport : w.port m.port = s.port m.port := by rw [State.port, hp]; rfl
    rw [hmap] at h
    dsimp only at h ⊢
    rw [hport]
    split at h
    · cases h
    · next h1 =>
      split at h
      · cases h
      · next h2 =>
        split at h
        · cases h
        · next h3 =>
          rw [if_neg h1, if_neg h2, if_neg h3]
          cases (w.cell c).service <;> rfl

/-- A cell record that keeps the recipe and its class, without a desired command (R56, R77). -/
def Cell.left (recipe : RecipeNo) (temp : TempClass) (z : Cell) : Cell :=
  { z with lastRecipe := some recipe, lastTemp := some temp, slot := { z.slot with desired := none } }

/-- The close of a run at its cell (R77 step 4, R78): the record and the desired command cleared, the history kept, and the
cell in its new state with its record, before STEP_RESULT. -/
def State.leaveCell (c : CellNo) (recipe : RecipeNo) (temp : TempClass) (new : CellState) (v : State) : State :=
  let w := ((v.setInsertion c none).modCell c fun z => { z.left recipe temp with state := new }).report
    (.cellState c .busy new .insertion)
  if new = .idle then w.triggerPass else w

theorem State.leaveCell_lot (recipe : RecipeNo) (temp : TempClass) (new : CellState) (v : State) (l : LotSlot) :
    (v.leaveCell c recipe temp new).lot l = v.lot l := by
  unfold State.leaveCell
  dsimp only
  split <;> rfl

theorem State.leaveCell_insertion (recipe : RecipeNo) (temp : TempClass) (new : CellState) (v : State) :
    (v.leaveCell c recipe temp new).insertion c = none := by
  have h : (v.setInsertion c none).insertion c = none := (State.insertion_setInsertion v c c none).trans (if_pos rfl)
  unfold State.leaveCell
  dsimp only
  split <;> exact h

theorem State.leaveCell_cell (recipe : RecipeNo) (temp : TempClass) (new : CellState) (v : State) :
    (v.leaveCell c recipe temp new).cell c = { (v.cell c).left recipe temp with state := new } := by
  have h := (State.cell_modCell (v.setInsertion c none) c c fun z => { z.left recipe temp with state := new }).trans
    (if_pos rfl)
  unfold State.leaveCell
  dsimp only
  split <;> exact h

/-- A lot of no ship order has no order examined (R137). -/
theorem State.notice_none (hy : s.lot l = some y) (h : y.ship = none) : s.notice l = s := by
  unfold State.notice
  rw [hy]
  dsimp only
  rw [h]

/-- The end of the close, for a cell that was BUSY (R78). -/
theorem State.finishClose_eq (hb : s.derivedState c = .busy) (hstate : (s.cell c).state = .busy)
    (hfree : s.reservationOf c = none) (h : s.Near v) (hy : v.lot i.lot = some y) (hship : y.ship = none)
    (outcome : RunOutcome) :
    (v.setHistory c i).finishClose c i outcome =
      (v.leaveCell c i.recipe (s.recipe i.recipe).temp (if (s.cell c).service then .idle else .outOfService)).report
        (.stepResult i.lot c i.step i.runIndex outcome i.unitsTested (y.step i.step).gap (y.step i.step).loss
          (y.step i.step).accounted (y.step i.step).unitsIn) := by
  obtain ⟨o, ho⟩ := h.cell c
  have htemp : v.recipe i.recipe = s.recipe i.recipe := by
    unfold State.recipe State.recipe?
    rw [h.recipes]
  -- the state in which the cell's state is derived
  let w : State := (v.setInsertion c none).modCell c (Cell.left i.recipe (s.recipe i.recipe).temp)
  have hw : (v.setHistory c i).clearInsertion c = w := by
    unfold State.setHistory
    rw [htemp]
    exact modCell_modCell (v.setInsertion c none) c
      (fun z => { z with lastRecipe := some i.recipe, lastTemp := some (s.recipe i.recipe).temp })
      (fun z => { z with slot := { z.slot with desired := none } })
  have hcell : w.cell c = (v.cell c).left i.recipe (s.recipe i.recipe).temp :=
    (State.cell_modCell (v.setInsertion c none) c c _).trans (if_pos rfl)
  have hins : w.insertion c = none := (State.insertion_setInsertion v c c none).trans (if_pos rfl)
  have hres : w.reservationOf c = none := by
    rw [← hfree]
    unfold State.reservationOf
    exact congrArg _ h.reservations
  have hservice : (w.cell c).service = (s.cell c).service := by rw [hcell, ho]; rfl
  have hderived := State.derivedState_ended (w := w) hb (by rw [hcell, ho]; rfl) h.ports (by rw [hcell, ho]; rfl)
    (by rw [hcell, ho]; rfl) hins hres
  rw [hservice] at hderived
  have hbefore : (w.cell c).state = .busy := by rw [hcell, ho]; exact hstate
  have hderive : w.deriveCell c .insertion =
      v.leaveCell c i.recipe (s.recipe i.recipe).temp (if (s.cell c).service then .idle else .outOfService) := by
    unfold State.deriveCell State.leaveCell
    dsimp only
    rw [hderived, hbefore, if_neg (by split <;> simp), modCell_modCell]
    cases (s.cell c).service <;> rfl
  have hlot : (v.setHistory c i).lot i.lot = some y := hy
  unfold State.finishClose
  dsimp only
  rw [hw, hderive, hlot]
  refine State.notice_none (y := y) ?_ hship
  exact (State.leaveCell_lot _ _ _ v i.lot).trans hy

/-! ## An END frame (R75 to R79) -/

/-- After the catch-up, the totals and the loss, a SCRAPPED lot's run is aborted, and any other settled after the final
evaluation (R77). -/
theorem State.takeEnd_of (hi : s.insertion c = some i) (hr : i.takenBy.hasRun = true)
    (hv : ((s.catchUp c f.highest.toNat).reconcile c f).takeLoss c f.loss.toNat = v) (hj : v.insertion c = some j) :
    (v.scrappedAt j.lot = true →
      s.takeEnd c f = ((v.closeRun j .aborted).setHistory c j).finishClose c j .aborted) ∧
    (v.scrappedAt j.lot = false → ∀ j', (v.monitorClose c).insertion c = some j' →
      s.takeEnd c f = (v.monitorClose c).settleRun c j') := by
  unfold State.takeEnd
  rw [hi]
  dsimp only
  rw [if_neg (by simp [hr]), hv, hj]
  dsimp only
  refine ⟨fun h => if_pos h, fun h j' hj' => ?_⟩
  rw [if_neg (by simp [h]), hj']

theorem State.takeEnd_noRun (hi : s.insertion c = some i) (hr : i.takenBy.hasRun = false) :
    s.takeEnd c f = s.protocolError c := by
  unfold State.takeEnd
  rw [hi]
  exact if_pos (by simp [hr])

/-- The run entry of a step closed (R77 step 1). -/
def LotStep.closeLast (clock : Word) (outcome : RunOutcome) (st : LotStep) : LotStep :=
  { st with runs := modLastRun (fun r => { r with endSecond := some clock, outcome := some outcome }) st.runs }

/-- What the close of a run does with the lot once the run entry is closed (R77 steps 2 and 3, R7): a lot that is accounted
for goes on, with a LOSS request for a loss above the allowance; any other lot but a SCRAPPED one is QUEUED, and quarantined
when its step is exhausted. -/
def State.settleLot (c : CellNo) (l : LotSlot) (scrapped closed : Prop) [Decidable scrapped] [Decidable closed] (st : LotStep)
    (v : State) : State :=
  if closed then
    if st.lossAllowance < st.loss then (v.closeStep l).engineHold l c .loss .soft else v.closeStep l
  else if scrapped then v
  else if 4 ≤ st.runs.length ∧ ∀ a ∈ st.runs.dropLast, a.endSecond ≠ none then
    (v.setLotState l .queued).quarantine l (.exhausted 4)
  else v.setLotState l .queued

/-- What a run's close leaves of the lot `x` in its step k, whose counts have come to `st` (R77). -/
structure Lot.Ended (x : Lot) (k : Nat) (st : LotStep) (grades : Nat) (closed : Prop) [Decidable closed] (y : Lot) : Prop where
  step : y.step k = { st with state := if closed then .closed else .opened }
  ship : y.ship = x.ship
  scrapped : x.state = .scrapped → y.state = .scrapped
  short : x.state = .inTest → ¬ closed → y.state = .queued ∧ y.current = k
  empties : closed → grades = 0 → y.state = .complete ∧ y.empty = true
  completes : closed → grades ≠ 0 → k = x.steps.length → y.state = .complete ∧ y.empty = x.empty
  advances : closed → grades ≠ 0 → k < x.steps.length → y.state = .queued ∧ y.current = k + 1

/-- The lot after a close, which holds and a quarantine do not concern. -/
theorem Lot.Ended.holds {k grades : Nat} {closed : Prop} [Decidable closed] (h : x.Ended k st grades closed y)
    (hs : List Nat) (q : Bool) : x.Ended k st grades closed { y with holds := hs, quarantined := q } :=
  ⟨h.step, h.ship, h.scrapped, h.short, h.empties, h.completes, h.advances⟩

theorem State.settleLot_ended {scrapped closed : Prop} [Decidable scrapped] [Decidable closed] {clock : Word}
    {outcome : RunOutcome} (h : s.InRun v c x r (st.closeLast clock outcome)) (hr : s.reservationOfLot r.lot = none)
    (hc : x.current = r.step) (h1 : 1 ≤ r.step) (h2 : r.step ≤ x.steps.length) (ho : st.state = .opened)
    (hs : scrapped ↔ x.state = .scrapped) (hclosed : closed → x.state = .inTest)
    (hstate : x.state = .inTest ∨ x.state = .scrapped) :
    s.Near (v.settleLot c r.lot scrapped closed st) ∧
      ∃ y, (v.settleLot c r.lot scrapped closed st).lot r.lot = some y ∧
        x.Ended r.step (st.closeLast clock outcome) (st.gradeTotal (passSetOf s.lm.recipes st.recipe)) closed y := by
  obtain ⟨y, hy, hcourse, hst⟩ := h.lot
  have hcur : y.current = r.step := hcourse.current.trans hc
  have beside {u w : State} (hu : s.Near u) (k : u.Beside r.lot w) {y : Lot} (hy : u.lot r.lot = some y)
      (he : x.Ended r.step (st.closeLast clock outcome) (st.gradeTotal (passSetOf s.lm.recipes st.recipe)) closed y) :
      s.Near w ∧ ∃ y, w.lot r.lot = some y ∧
        x.Ended r.step (st.closeLast clock outcome) (st.gradeTotal (passSetOf s.lm.recipes st.recipe)) closed y := by
    obtain ⟨hs, q, hz⟩ := k.lot y hy
    exact ⟨hu.trans k.toNear, _, hz, he.holds hs q⟩
  unfold State.settleLot
  by_cases hcl : closed
  · rw [if_pos hcl]
    have hin := hclosed hcl
    have hnear := h.near.trans ((State.CellsStand.refl v).closeStep r.lot).near
    obtain ⟨z, hz, hwent, -⟩ := State.lot_closeStep hy (by omega) (by rw [hcur, hcourse.length]; exact h2)
    have hgrades : y.grades v.lm.recipes = st.gradeTotal (passSetOf s.lm.recipes st.recipe) := by
      unfold Lot.grades
      rw [hcur, hst, h.near.recipes]
      rfl
    have hended : x.Ended r.step (st.closeLast clock outcome) (st.gradeTotal (passSetOf s.lm.recipes st.recipe)) closed z := by
      have hstep := hwent.step
      rw [hcur, hst] at hstep
      refine ⟨by rw [hstep, if_pos hcl], hwent.kept.1.trans hcourse.ship, fun e => by simp [hin] at e, fun _ e => absurd hcl e,
        fun _ e => ?_, fun _ e e' => ?_, fun _ e e' => ?_⟩
      · obtain ⟨a, b, -⟩ := hwent.empties (hgrades.trans e)
        exact ⟨a, b⟩
      · obtain ⟨a, b, -⟩ := hwent.completes (by rwa [hgrades]) (by rw [hcur, hcourse.length, e'])
        exact ⟨a, b.trans hcourse.empty⟩
      · obtain ⟨a, b⟩ := hwent.advances (by rwa [hgrades]) (by rw [hcur, hcourse.length]; exact e')
        exact ⟨a, by rw [b, hcur]⟩
    split
    · exact beside hnear ((State.Beside.refl _ _).holdRequest ((hnear.reservationOfLot _).trans hr) _) hz hended
    · exact ⟨hnear, z, hz, hended⟩
  · rw [if_neg hcl]
    have hopen : (st.closeLast clock outcome) =
        { st.closeLast clock outcome with state := if closed then .closed else .opened } := by
      rw [if_neg hcl, ← ho]
      rfl
    by_cases hsc : scrapped
    · rw [if_pos hsc]
      have hxs := hs.mp hsc
      exact ⟨h.near, y, hy, hst.trans hopen, hcourse.ship, fun e => hcourse.state.trans e, fun e => by simp [hxs] at e,
        fun e => absurd e hcl, fun e => absurd e hcl, fun e => absurd e hcl⟩
    · rw [if_neg hsc]
      have hin : x.state = .inTest := hstate.resolve_right (mt hs.mpr hsc)
      have hnear := h.near.trans ((State.CellsStand.refl v).setLotState r.lot .queued).near
      have hz := State.lot_setLotState hy .queued
      have hended : x.Ended r.step (st.closeLast clock outcome) (st.gradeTotal (passSetOf s.lm.recipes st.recipe)) closed
          { y with state := .queued, ready := if LotState.queued = .queued ∧ y.state ≠ .queued then v.minute else y.ready } :=
        ⟨hst.trans hopen, hcourse.ship, fun e => by simp [hin] at e, fun _ _ => ⟨rfl, hcur⟩, fun e => absurd e hcl,
          fun e => absurd e hcl, fun e => absurd e hcl⟩
      split
      · exact beside hnear ((State.Beside.refl _ _).quarantine ((hnear.reservationOfLot _).trans hr) _) hz hended
      · exact ⟨hnear, _, hz, hended⟩

end Sys2Proof.Machine
end

section
/-! SUPPORT. The close of a run as one action (R75 to R79). -/

namespace Sys2Proof.Machine

variable {s v w : State} {x y : Lot} {c : CellNo} {i j : Insertion} {r : RunRecord} {st : LotStep} {f : EndFrame}

/-! ## The counts of the step through the close -/

/-- The step after the totals are adopted or left (R75). -/
theorem State.InRun.reconcile (h : s.InRun v c x r st) (hr : s.reservationOfLot r.lot = none) (h1 : 1 ≤ r.step)
    (h2 : r.step ≤ x.steps.length) {adopted : Bool}
    (ha : adopted = true ↔ (f.totals.toList.map BitVec.toNat).sum = r.unitsTested + r.runGap) :
    ∃ g b, s.InRun (v.reconcile c f) c x { r with runGap := g, runBins := b }
      { st with
        bins := if adopted then st.adopted r.runBins f else st.bins
        gap := if adopted then st.gap - r.runGap else st.gap } := by
  rw [h.reconcile_eq]
  by_cases e : adopted = true
  · rw [if_pos (ha.mp e), if_pos e, if_pos e]
    exact ⟨0, f.totals.map BitVec.toNat,
      (h.changeStep h1 h2 fun u => { u with bins := st.adopted r.runBins f, gap := u.gap - r.runGap }).modInsertion
        (fun j => { j with runBins := f.totals.map BitVec.toNat, runGap := 0 }) (fun j hj => by rw [← hj]; rfl) rfl rfl⟩
  · rw [if_neg (mt ha.mpr e), if_neg e, if_neg e]
    exact ⟨r.runGap, r.runBins, h.engineHold hr _ _⟩

/-- The step after the loss is taken (R76). -/
theorem State.InRun.takeLoss (h : s.InRun v c x r st) (hr : s.reservationOfLot r.lot = none) (h1 : 1 ≤ r.step)
    (h2 : r.step ≤ x.steps.length) (n : Nat) :
    s.InRun (v.takeLoss c n) c x r { st with loss := st.loss + min n st.remainder } := by
  have k := h.changeStep h1 h2 (LotStep.addLoss (min n st.remainder))
  rw [h.takeLoss_eq]
  split
  · exact k.engineHold hr _ _
  · exact k

/-! ## The settlement of a run that is not aborted (R77) -/

theorem State.returnLot_of {l : LotSlot} (hy : s.lot l = some y) (h : y.state ≠ .scrapped) :
    s.returnLot l = s.setLotState l .queued := by
  unfold State.returnLot
  rw [hy]
  exact if_neg h

theorem State.quarantineExhausted_of {l : LotSlot} (hy : s.lot l = some y) :
    s.quarantineExhausted l =
      if (y.step y.current).exhausted = true then s.quarantine l (.exhausted 4) else s := by
  unfold State.quarantineExhausted
  rw [hy]
  rfl

/-- A step whose last run has just closed is exhausted with four runs when those before have closed (R7). -/
theorem LotStep.exhausted_closeLast (ho : st.state = .opened) (clock : Word) (outcome : RunOutcome) :
    (st.closeLast clock outcome).exhausted = true ↔
      4 ≤ st.runs.length ∧ ∀ a ∈ st.runs.dropLast, a.endSecond ≠ none := by
  unfold LotStep.exhausted LotStep.closeLast
  rw [Bool.and_eq_true, Bool.and_eq_true, modLastRun_closed (by simp), decide_eq_true_iff, decide_eq_true_iff,
    modLastRun_length]
  exact ⟨fun ⟨⟨_, a⟩, b⟩ => ⟨a, b⟩, fun ⟨a, b⟩ => ⟨⟨ho, a⟩, b⟩⟩

/-- The settlement of a run whose lot is IN_TEST is that of its lot between the run entry and the cell (R77). -/
theorem State.InRun.settleRun_eq {closed : Prop} [Decidable closed] (h : s.InRun w c x r st)
    (hrun : j.run = r) (hin : x.state = .inTest) (hc : x.current = r.step) (h1 : 1 ≤ r.step) (h2 : r.step ≤ x.steps.length)
    (ho : st.state = .opened) (hclosed : closed ↔ st.accounted = st.unitsIn) :
    w.settleRun c j =
      (((w.changeStep r.lot r.step (LotStep.closeLast w.ft.clock (if closed then .closed else .short))).settleLot c r.lot
        (x.state = .scrapped) closed st).setHistory c j).finishClose c j (if closed then .closed else .short) := by
  subst hrun
  obtain ⟨y, hy, hcourse, hst⟩ := h.lot
  have hy : w.lot j.lot = some y := hy
  have hst : y.step j.step = st := hst
  have hns : ¬ x.state = .scrapped := by simp [hin]
  have hcur : y.current = j.step := hcourse.current.trans hc
  have hclosable : y.closable = true ↔ closed := by
    unfold Lot.closable
    rw [hcur, hst, hcourse.state, hin, ho, hclosed]
    simp
  unfold State.settleRun
  rw [hy]
  dsimp only
  rw [hst]
  by_cases hcl : closed
  · rw [if_pos (hclosable.mpr hcl), if_pos hcl, State.settleLot, if_pos hcl]
    rfl
  · have hv := h.changeStep h1 h2 (LotStep.closeLast w.ft.clock .short)
    obtain ⟨z, hz, hzc, hzst⟩ := hv.lot
    have hz : (w.closeRun j .short).lot j.lot = some z := hz
    have hret := State.returnLot_of hz (by rw [hzc.state, hin]; simp)
    have hstep : z.step z.current = st.closeLast w.ft.clock .short := by rw [hzc.current, hc]; exact hzst
    rw [if_neg (mt hclosable.mp hcl), if_neg hcl, State.settleLot, if_neg hcl, if_neg hns, hret,
      State.quarantineExhausted_of (State.lot_setLotState hz .queued)]
    have hex : (Lot.step { z with
        state := .queued
        ready := if LotState.queued = .queued ∧ z.state ≠ .queued then (w.closeRun j .short).minute else z.ready }
          z.current).exhausted = true ↔ 4 ≤ st.runs.length ∧ ∀ a ∈ st.runs.dropLast, a.endSecond ≠ none := by
      rw [← LotStep.exhausted_closeLast ho w.ft.clock .short, ← hstep]
      rfl
    by_cases he : 4 ≤ st.runs.length ∧ ∀ a ∈ st.runs.dropLast, a.endSecond ≠ none
    · rw [if_pos (hex.mpr he), if_pos he]
      rfl
    · rw [if_neg (mt hex.mp he), if_neg he]
      rfl

/-! ## The whole close -/

/-- A BUSY cell's run whose close R75 to R78 lay down: its lot IN_TEST or SCRAPPED at the run's step, of no ship order, and
no reservation of lot or cell. -/
structure State.Closing (s : State) (c : CellNo) (i : Insertion) (x : Lot) : Prop where
  insertion : s.insertion c = some i
  hasRun : i.takenBy.hasRun = true
  lot : s.lot i.lot = some x
  state : x.state = .inTest ∨ x.state = .scrapped
  ship : x.ship = none
  current : x.current = i.step
  first : 1 ≤ i.step
  last : i.step ≤ x.steps.length
  opened : (x.step i.step).state = .opened
  unreserved : s.reservationOfLot i.lot = none
  free : s.reservationOf c = none
  derived : s.derivedState c = .busy
  busy : (s.cell c).state = .busy

/-- The outcome of a run (R77). -/
def runOutcome (scrapped closed : Prop) [Decidable scrapped] [Decidable closed] : RunOutcome :=
  if scrapped then .aborted else if closed then .closed else .short

/-- The state in which the run entry is closed, after the final evaluation of a lot that is not SCRAPPED (R77 step 1). -/
def State.closeEntry (c : CellNo) (i : Insertion) (scrapped : Prop) [Decidable scrapped] (clock : Word) (o : RunOutcome)
    (v : State) : State :=
  (if scrapped then v else v.monitorClose c).changeStep i.lot i.step (LotStep.closeLast clock o)

/-- The close from the step's counts on: the run entry, the lot, the cell, and STEP_RESULT. -/
theorem State.Closing.takeEnd_eq (h : s.Closing c i x) {g : Nat} {b : Vector Nat 16}
    (hv : s.InRun v c x { i.run with runGap := g, runBins := b } st)
    (he : ((s.catchUp c f.highest.toNat).reconcile c f).takeLoss c f.loss.toNat = v) (ho : st.state = .opened)
    {closed : Prop} [Decidable closed] (hclosed : closed ↔ x.state = .inTest ∧ st.accounted = st.unitsIn) :
    let outcome := runOutcome (x.state = .scrapped) closed
    let u := (v.closeEntry c i (x.state = .scrapped) s.ft.clock outcome).settleLot c i.lot (x.state = .scrapped) closed st
    s.takeEnd c f =
        (u.leaveCell c i.recipe (s.recipe i.recipe).temp (if (s.cell c).service then .idle else .outOfService)).report
          (.stepResult i.lot c i.step i.runIndex outcome i.unitsTested st.gap st.loss st.accounted st.unitsIn) ∧
      ∃ y, u.lot i.lot = some y ∧
        x.Ended i.step (st.closeLast s.ft.clock outcome) (st.gradeTotal (passSetOf s.lm.recipes st.recipe)) closed y := by
  intro outcome u
  -- the state after the final evaluation
  let w : State := if x.state = .scrapped then v else v.monitorClose c
  have hw : s.InRun w c x { i.run with runGap := g, runBins := b } st := by
    show s.InRun (if x.state = .scrapped then v else v.monitorClose c) c x _ st
    split
    · exact hv
    · exact hv.monitorClose h.unreserved
  have hclock : w.ft.clock = s.ft.clock := by rw [hw.near.ft]
  obtain ⟨j, hj, hrun⟩ := hw.run
  have hlot : j.lot = i.lot := congrArg RunRecord.lot hrun
  have hstep : j.step = i.step := congrArg RunRecord.step hrun
  have hend : s.takeEnd c f = (u.setHistory c j).finishClose c j outcome := by
    obtain ⟨j₀, hj₀, hrun₀⟩ := hv.run
    have hlot₀ : j₀.lot = i.lot := congrArg RunRecord.lot hrun₀
    obtain ⟨y, hy, hcourse, -⟩ := hv.lot
    have hscrapped : v.scrappedAt j₀.lot = decide (x.state = .scrapped) := by
      unfold State.scrappedAt
      rw [hlot₀, show v.lot i.lot = some y from hy]
      dsimp only
      rw [hcourse.state]
    by_cases hs : x.state = .scrapped
    · have hncl : ¬ closed := fun e => by simp [hs] at hclosed; exact hclosed e
      have hwv : w = v := if_pos hs
      have hjj : j = j₀ := by rw [hwv, hj₀] at hj; exact (Option.some.inj hj).symm
      have hu : u = v.closeRun j .aborted := by
        show State.settleLot c i.lot (x.state = .scrapped) closed st (State.closeEntry c i _ _ (runOutcome _ _) v) = _
        rw [State.settleLot, if_neg hncl, if_pos hs, State.closeEntry, if_pos hs, runOutcome, if_pos hs, State.closeRun, hlot,
          hstep, hv.near.ft]
        rfl
      rw [hu, show outcome = .aborted from if_pos hs, hjj]
      exact (State.takeEnd_of h.insertion h.hasRun he hj₀).1 (by rw [hscrapped]; simp [hs])
    · have hin : x.state = .inTest := h.state.resolve_right hs
      have hwv : w = v.monitorClose c := if_neg hs
      have hout : outcome = if closed then .closed else .short := if_neg hs
      have hu : u = (w.changeStep i.lot i.step (LotStep.closeLast w.ft.clock (if closed then .closed else .short))).settleLot c
          i.lot (x.state = .scrapped) closed st := by rw [hclock, ← hout]; rfl
      have hsettle := hw.settleRun_eq (closed := closed) hrun hin h.current h.first h.last ho (by simp [hclosed, hin])
      rw [hu, hout]
      exact ((State.takeEnd_of h.insertion h.hasRun he hj₀).2 (by rw [hscrapped]; simp [hs]) j (by rwa [hwv] at hj)).trans
        (hwv ▸ hsettle)
  obtain ⟨hnear, y, hy, hended⟩ := State.settleLot_ended
    (hw.changeStep h.first h.last (LotStep.closeLast s.ft.clock outcome)) (scrapped := x.state = .scrapped)
    (closed := closed) h.unreserved h.current h.first h.last ho Iff.rfl (fun e => (hclosed.mp e).1) h.state
  have hfinish := State.finishClose_eq (i := j) (y := y) h.derived h.busy h.free hnear (by rw [hlot]; exact hy)
    (hended.ship.trans h.ship) outcome
  refine ⟨hend.trans (hfinish.trans ?_), y, hy, hended⟩
  rw [hlot, hstep, show y.step i.step = _ from hended.step, show j.recipe = i.recipe from congrArg RunRecord.recipe hrun,
    show j.runIndex = i.runIndex from congrArg RunRecord.runIndex hrun,
    show j.unitsTested = i.unitsTested from congrArg RunRecord.unitsTested hrun]
  rfl

end Sys2Proof.Machine
end

section
/-! OBLIGATION O41. An END frame closes the run (R75 to R79). -/

namespace Sys2Proof.Machine

variable {s v : State} {x : Lot} {p : PortNo} {c : CellNo} {i : Insertion} {r : RunRecord} {st : LotStep} {f : EndFrame}

theorem State.heardIn_cell (s : State) (p : PortNo) (c : CellNo) :
    (s.heardIn p c).cell c = { s.cell c with silence := 0 } :=
  (State.cell_modCell _ c c _).trans (if_pos rfl)

/-- A good frame leaves a cell's state to be derived the same. -/
theorem State.heardIn_derivedState (s : State) (p : PortNo) (c : CellNo) :
    (s.heardIn p c).derivedState c = s.derivedState c := by
  have hcell := s.heardIn_cell p c
  refine State.derivedState_congr c (by rw [hcell]) (fun q => ?_) (by rw [hcell]) (by rw [hcell]; rfl) (by rw [hcell]) rfl rfl
  have hport : (s.heardIn p c).port q = _ := State.port_modPort s p q fun x =>
    { x with turn := x.turn.map fun t => { t with frames := t.frames + 1, wait := 0 } }
  rw [hport]
  split
  · next h => subst h; exact ⟨rfl, rfl⟩
  · exact ⟨rfl, rfl⟩

/-- The step at the close: the catch-up, the totals when adopted, and the loss (R75, R76). -/
def LotStep.counted (st : LotStep) (i : Insertion) (f : EndFrame) (adopted : Bool) : LotStep :=
  let missed := i.seenAt f.highest.toNat - i.unitsSeen
  let seen := { st with gap := st.gap + missed }
  let told := { seen with
    bins := if adopted then seen.adopted i.runBins f else seen.bins
    gap := if adopted then seen.gap - i.gapAt f.highest.toNat else seen.gap }
  { told with loss := told.loss + min f.loss.toNat told.remainder }

/-- The state after the totals, as R75 lays it down. -/
def State.tell (c : CellNo) (i : Insertion) (f : EndFrame) (adopted : Bool) (bins : Vector Nat 16) (v : State) : State :=
  if adopted then
    (v.changeStep i.lot i.step fun u => { u with bins := bins, gap := u.gap - i.gapAt f.highest.toNat }).modInsertion c
      fun j => { j with runBins := f.totals.map BitVec.toNat, runGap := 0 }
  else v.engineHold i.lot c .reconcile .soft

/-- The state after the loss, of which `accepted` is taken (R76). -/
def State.lose (c : CellNo) (i : Insertion) (f : EndFrame) (accepted : Nat) (v : State) : State :=
  let w := v.changeStep i.lot i.step fun u => { u with loss := u.loss + accepted }
  if accepted < f.loss.toNat then w.engineHold i.lot c .quantity .soft else w

/-- The counts of the run at its close. -/
theorem State.Closing.counted (h : s.Closing c i x) {adopted : Bool}
    (ha : adopted = true ↔ (f.totals.toList.map BitVec.toNat).sum = i.unitsTested + i.gapAt f.highest.toNat) :
    let st := (x.step i.step).counted i f adopted
    ∃ g b, s.InRun (((s.catchUp c f.highest.toNat).tell c i f adopted st.bins).lose c i f (st.loss - (x.step i.step).loss)) c x
        { i.run with runGap := g, runBins := b } st ∧
      ((s.catchUp c f.highest.toNat).reconcile c f).takeLoss c f.loss.toNat =
        ((s.catchUp c f.highest.toNat).tell c i f adopted st.bins).lose c i f (st.loss - (x.step i.step).loss) := by
  intro st
  have h1 := State.InRun.catchUp h.unreserved h.insertion h.lot h.first h.last f.highest.toNat
  obtain ⟨g, b, h2⟩ := h1.reconcile h.unreserved h.first h.last ha
  have h3 := h2.takeLoss h.unreserved h.first h.last f.loss.toNat
  have htell : (s.catchUp c f.highest.toNat).reconcile c f = (s.catchUp c f.highest.toNat).tell c i f adopted st.bins := by
    refine (h1.reconcile_eq f).trans ?_
    unfold State.tell
    by_cases e : adopted = true
    · rw [if_pos e, show st.bins = _ from if_pos e]
      exact if_pos (ha.mp e)
    · rw [if_neg e]
      exact if_neg (mt ha.mpr e)
  have hloss : ((s.catchUp c f.highest.toNat).reconcile c f).takeLoss c f.loss.toNat =
      ((s.catchUp c f.highest.toNat).reconcile c f).lose c i f (st.loss - (x.step i.step).loss) := by
    refine (h2.takeLoss_eq _).trans ?_
    rw [show st.loss - (x.step i.step).loss = _ from Nat.add_sub_cancel_left _ _]
    rfl
  rw [← htell, ← hloss]
  exact ⟨g, b, h3, rfl⟩

/-- Settles O41. The counts of the run lead to the state before the close, and the close itself is one equation; what it
leaves of the lot is `Lot.Ended`. -/
theorem endClosesTheRun : Obligations.EndClosesTheRun := by
  unfold Obligations.EndClosesTheRun
  refine ⟨fun s l x r hx hr => holdRequest_cases s l x r hx hr, fun s p c address f i hd => ?_⟩
  have hexec : exec (.endOfRun p address f) s = .next ((s.heardIn p c).takeEnd c f) :=
    congrArg Host.Outcome.next ((receive_hears hd.1 _).trans (deliver_of hd _))
  refine ⟨fun hr => hexec.trans (congrArg _ (State.takeEnd_noRun (s := s.heardIn p c) hd.2.1 hr)), ?_⟩
  intro x hr hx hstate hship hcur hfirst hlast hopen hres hfree hderived hbusy st seen missed runGap adopted bins gap loss
    closed outcome grades
  have h : (s.heardIn p c).Closing c i x :=
    { insertion := hd.2.1, hasRun := hr, lot := hx, state := hstate, ship := hship, current := hcur, first := hfirst,
      last := hlast, opened := hopen, unreserved := hres, free := hfree,
      derived := (State.heardIn_derivedState s p c).trans hderived, busy := (heardIn_state s p c c).trans hbusy }
  have hservice : ((s.heardIn p c).cell c).service = (s.cell c).service :=
    (congrArg Cell.service (s.heardIn_cell p c) :)
  obtain ⟨g, b, hrun, hcounts⟩ := h.counted (adopted := adopted) (f := f) (decide_eq_true_iff)
  have hclosed : closed = true ↔ x.state = .inTest ∧ (st.counted i f adopted).accounted = (st.counted i f adopted).unitsIn := by
    show (_ && _) = true ↔ _
    rw [Bool.and_eq_true, decide_eq_true_iff, decide_eq_true_iff]
    rfl
  obtain ⟨hend, y, hy, hended⟩ := h.takeEnd_eq hrun hcounts hopen hclosed
  rw [hservice] at hend
  refine ⟨_, y, hexec.trans (congrArg _ hend), ?_⟩
  have hcell (new : CellState) (u : State) :=
    State.leaveCell_cell (c := c) i.recipe (s.recipe i.recipe).temp new u
  refine ⟨State.leaveCell_insertion i.recipe _ _ _, (congrArg (fun z => z.slot.desired) (hcell _ _) :),
    (congrArg Cell.lastRecipe (hcell _ _) :), (congrArg Cell.lastTemp (hcell _ _) :), (congrArg Cell.state (hcell _ _) :),
    (State.leaveCell_lot i.recipe _ _ _ i.lot).trans hy, (congrArg LotStep.bins hended.step :),
    (congrArg LotStep.gap hended.step :), (congrArg LotStep.loss hended.step :), (congrArg LotStep.state hended.step :),
    (congrArg (fun u => u.runs.getLast?) hended.step).trans (modLastRun_getLast _ _), hended.scrapped,
    fun e e' => hended.short e (by simp [e']), hended.empties, hended.completes, hended.advances, ?_⟩
  intro asks v0 v1 v2 v3 v4 v5 new v6
  have hseen : v1 = v0.catchUp c f.highest.toNat := (State.catchUp_eq (v := v0) hd.2.1 _).symm
  show State.report _ (State.leaveCell c _ _ _ (State.settleLot c _ _ _ _ (State.closeEntry c _ _ _ _ (State.lose c _ _ _
    (State.tell c _ _ _ _ (v0.catchUp c f.highest.toNat)))))) = _
  rw [← hseen]
  rfl

end Sys2Proof.Machine
end

section
/-! SUPPORT. The deletion of a lot's holds, and what leaves the lots, the holds and the ship orders (R114, R115). -/

namespace Sys2Proof.Machine

variable {s t : State} {l m : LotSlot} {x y : Lot} {c e : CellNo} {i j : Insertion} {d : Disposition}

/-! ## Hold records deleted (R102, R114) -/

/-- Beside what `CellsStand` says, the ship orders, the engine and the queue stand. -/
structure State.HoldsMove (s t : State) : Prop extends s.CellsStand t where
  ships : t.ships = s.ships
  de : t.de = s.de
  queue : t.lm.queue = s.lm.queue

theorem State.HoldsMove.refl (s : State) : s.HoldsMove s := ⟨.refl s, rfl, rfl, rfl⟩

theorem State.HoldsMove.trans {u : State} (h : s.HoldsMove t) (k : t.HoldsMove u) : s.HoldsMove u :=
  ⟨h.toCellsStand.trans k.toCellsStand, k.ships.trans h.ships, k.de.trans h.de, k.queue.trans h.queue⟩

theorem State.HoldsMove.modLot (h : s.HoldsMove t) (l : LotSlot) (f : Lot → Lot) : s.HoldsMove (t.modLot l f) :=
  h.trans ⟨(State.CellsStand.refl t).modLot l f, rfl, rfl, rfl⟩

theorem State.HoldsMove.report (h : s.HoldsMove t) (e : Report) : s.HoldsMove (t.report e) :=
  h.trans ⟨(State.CellsStand.refl t).report e, rfl, rfl, rfl⟩

theorem State.HoldsMove.clearHold (h : s.HoldsMove t) (d : Disposition) (g : Hold) : s.HoldsMove (t.clearHold d g) := by
  have k : t.HoldsMove { t with hm := { t.hm with holds := t.hm.holds.filter fun a => a.id ≠ g.id } } :=
    ⟨⟨rfl, rfl, rfl, rfl, rfl, rfl⟩, rfl, rfl, rfl⟩
  exact h.trans ((k.modLot g.lot _).report _)

/-- The lot in slot `l` without the ids of those of the records `hs` that name it. -/
def Lot.without (l : LotSlot) (hs : List Hold) (x : Lot) : Lot :=
  { x with holds := x.holds.diff ((hs.filter fun h => h.lot = l).map Hold.id) }

theorem State.lot_clearHold (s : State) (h : Hold) :
    (s.clearHold d h).lot l = (s.lot l).map (Lot.without l [h]) := by
  refine (State.lot_modLot _ h.lot l _).trans ?_
  by_cases e : l = h.lot
  · rw [if_pos e, ← e]
    congr 1
    funext y
    simp [Lot.without, e, List.diff_cons]
  · have e' : ¬ h.lot = l := fun k => e k.symm
    have hid : Lot.without l [h] = id := by
      funext y
      simp [Lot.without, e']
    rw [if_neg e, hid, Option.map_id]
    rfl

/-- A run of deletions: the records that bear one of the ids go, and each lot loses the ids of the records that name it. -/
theorem State.foldl_clearHold (hs : List Hold) (s : State) :
    s.HoldsMove (hs.foldl (State.clearHold d) s) ∧
      (hs.foldl (State.clearHold d) s).hm.holds = s.hm.holds.filter (fun g => ∀ h ∈ hs, g.id ≠ h.id) ∧
      (hs.foldl (State.clearHold d) s).lot l = (s.lot l).map (Lot.without l hs) := by
  induction hs generalizing s with
  | nil =>
    have hid : Lot.without l [] = id := rfl
    exact ⟨.refl s, by simp, by rw [hid, Option.map_id]; rfl⟩
  | cons h hs ih =>
    obtain ⟨hmove, hholds, hlot⟩ := ih (s.clearHold d h)
    refine ⟨((State.HoldsMove.refl s).clearHold d h).trans hmove, hholds.trans ?_, hlot.trans ?_⟩
    · show (s.hm.holds.filter fun g => g.id ≠ h.id).filter _ = _
      rw [List.filter_filter]
      congr 1
      funext g
      simp [Bool.and_comm]
    · rw [State.lot_clearHold, Option.map_map]
      congr 1
      funext y
      by_cases e : h.lot = l <;> simp [Lot.without, e]

/-- The lot once its holds are deleted and its quarantine cleared (R114, R115). -/
def State.freedLot (s : State) (l : LotSlot) (x : Lot) : Lot := { Lot.without l (s.holdsOf x) x with quarantined := false }

theorem diff_self_eq_nil (as : List Nat) : as.diff as = [] := by
  induction as with
  | nil => rfl
  | cons a as ih => rw [List.diff_cons, List.erase_cons_head, ih]

/-- A record whose id stands in the hold list of a lot is one of the lot's, or bears the same id as one of them. -/
theorem State.holdsOf_ids {g : Hold} (hg : g ∈ s.hm.holds) :
    (∀ h ∈ s.holdsOf x, g.id ≠ h.id) ↔ g.id ∉ x.holds := by
  have hid {k : Nat} {h : Hold} (e : s.hold? k = some h) : h.id = k := by
    simpa using List.find?_some e
  constructor
  · intro h hk
    cases e : s.hold? g.id with
    | none => simpa using List.find?_eq_none.mp e g hg
    | some f => exact h f (List.mem_filterMap.mpr ⟨g.id, hk, e⟩) (hid e).symm
  · rintro h f hf e
    obtain ⟨k, hk, hf⟩ := List.mem_filterMap.mp hf
    exact h (by rw [e, hid hf]; exact hk)

/-- A lot whose hold list names records of its own only is left without holds. -/
theorem State.freedLot_holds (h : ∀ k ∈ x.holds, ∃ g, s.hold? k = some g ∧ g.lot = l) : (s.freedLot l x).holds = [] := by
  have ids (ks : List Nat) (hks : ∀ k ∈ ks, ∃ g, s.hold? k = some g ∧ g.lot = l) :
      ((ks.filterMap s.hold?).filter fun g => g.lot = l).map Hold.id = ks := by
    induction ks with
    | nil => rfl
    | cons k ks ih =>
      obtain ⟨g, hg, hl⟩ := hks k (by simp)
      have hid : g.id = k := by simpa using List.find?_some hg
      rw [List.filterMap_cons, hg]
      simp [hl, hid, ih fun k hk => hks k (by simp [hk])]
  show x.holds.diff (((x.holds.filterMap s.hold?).filter fun g => g.lot = l).map Hold.id) = []
  rw [ids x.holds h, diff_self_eq_nil]

/-- R114 steps 1 and 2, R115 steps 1 and 2. -/
theorem State.clearHolds_of (hx : s.lot l = some x) (d : Disposition) :
    s.HoldsMove (s.clearHolds l x d) ∧
      (s.clearHolds l x d).hm.holds = s.hm.holds.filter (fun g => g.id ∉ x.holds) ∧
      (s.clearHolds l x d).lot l = some (s.freedLot l x) := by
  obtain ⟨hmove, hholds, hlot⟩ := State.foldl_clearHold (d := d) (l := l) (s.holdsOf x) s
  rw [hx, Option.map_some] at hlot
  rw [List.filter_congr (q := fun g => decide (g.id ∉ x.holds)) fun g hg =>
    decide_eq_decide.mpr (State.holdsOf_ids hg)] at hholds
  unfold State.clearHolds
  dsimp only
  by_cases hq : x.quarantined = true
  · rw [if_pos hq]
    refine ⟨(hmove.modLot l _).report _, hholds, (State.lot_modLot _ l l _).trans ?_⟩
    rw [if_pos rfl, hlot]
    rfl
  · have hfreed : s.freedLot l x = Lot.without l (s.holdsOf x) x := by
      unfold State.freedLot
      rw [← (show (Lot.without l (s.holdsOf x) x).quarantined = false from eq_false_of_ne_true hq)]
    rw [if_neg hq, hfreed]
    exact ⟨hmove, hholds, hlot⟩

/-! ## The insertions and cells alone (R66, R108) -/

/-- The lots, the queue, the hold table and the ship orders stand. -/
structure State.FloorMoves (s t : State) : Prop where
  lm : t.lm = s.lm
  hm : t.hm = s.hm
  ships : t.ships = s.ships

theorem State.FloorMoves.refl (s : State) : s.FloorMoves s := ⟨rfl, rfl, rfl⟩

theorem State.FloorMoves.trans {u : State} (h : s.FloorMoves t) (k : t.FloorMoves u) : s.FloorMoves u :=
  ⟨k.lm.trans h.lm, k.hm.trans h.hm, k.ships.trans h.ships⟩

theorem State.FloorMoves.lot (h : s.FloorMoves t) (l : LotSlot) : t.lot l = s.lot l := by rw [State.lot, h.lm]; rfl

theorem State.FloorMoves.ship (h : s.FloorMoves t) (n : ShipNo) : t.ship n = s.ship n := by rw [State.ship, h.ships]; rfl

theorem State.FloorMoves.modInsertion (h : s.FloorMoves t) (c : CellNo) (f : Insertion → Insertion) :
    s.FloorMoves (t.modInsertion c f) := h.trans ⟨rfl, rfl, rfl⟩

theorem State.FloorMoves.modCell (h : s.FloorMoves t) (c : CellNo) (f : Cell → Cell) : s.FloorMoves (t.modCell c f) :=
  h.trans ⟨rfl, rfl, rfl⟩

theorem State.FloorMoves.report (h : s.FloorMoves t) (e : Report) : s.FloorMoves (t.report e) := h.trans ⟨rfl, rfl, rfl⟩

theorem State.FloorMoves.triggerPass (h : s.FloorMoves t) : s.FloorMoves t.triggerPass := h.trans ⟨rfl, rfl, rfl⟩

theorem State.FloorMoves.request (h : s.FloorMoves t) (c : CellNo) (cmd : Command) : s.FloorMoves (t.request c cmd) := by
  unfold State.request
  split
  · exact (h.modCell c _).modInsertion c _
  · exact h.modCell c _

theorem State.FloorMoves.setInsState (h : s.FloorMoves t) (c : CellNo) (new : InsState) (cause : InsCause) :
    s.FloorMoves (t.setInsState c new cause) := by
  unfold State.setInsState
  split
  · exact h
  · exact (h.modInsertion c _).report _

theorem State.FloorMoves.pauseRequest (h : s.FloorMoves t) (c : CellNo) (f : PauseSet → PauseSet) :
    s.FloorMoves (t.pauseRequest c f) := by
  cases hi : t.insertion c with
  | none =>
    unfold State.pauseRequest
    rw [hi]
    exact h
  | some i =>
    have k := h.modInsertion c fun j => { j with pause := f i.pause, sampleVoid := true }
    have kp := (h.modInsertion c fun j => { j with pause := f i.pause, sampleVoid := true, state := .pausing }).report
      (.insertionEvent c i.lot (some i.state) (some .pausing) .pause)
    rw [pauseRequest_eq hi]
    split
    · exact h
    · dsimp only
      split
      · split
        · exact kp.modCell c _
        · exact k
      · exact k.modCell c _
      · split
        · exact kp.modCell c _
        · exact k.modCell c _
      · exact k

theorem State.FloorMoves.syncHold (h : s.FloorMoves t) (l : LotSlot) : s.FloorMoves (t.syncHold l) := by
  unfold State.syncHold
  split
  · exact h.pauseRequest _ _
  · exact h

/-! ## A pause request at other cells, and on an insertion that is ending or suspended -/

theorem State.insertion_modInsertion_ne (h : e ≠ c) (f : Insertion → Insertion) :
    (s.modInsertion c f).insertion e = s.insertion e := (State.insertion_modInsertion s c e f).trans (if_neg h)

theorem State.cell_asked_ne (h : e ≠ c) (cmd : Command) : (s.asked c cmd).cell e = s.cell e :=
  (State.cell_modCell s c e _).trans (if_neg h)

theorem State.pauseRequest_elsewhere (h : e ≠ c) (f : PauseSet → PauseSet) :
    (s.pauseRequest c f).insertion e = s.insertion e ∧ (s.pauseRequest c f).cell e = s.cell e := by
  cases hi : s.insertion c with
  | none =>
    unfold State.pauseRequest
    rw [hi]
    exact ⟨rfl, rfl⟩
  | some i =>
    have plain (g : Insertion → Insertion) (cmd : Command) (u : State) (hu : u.insertions = (s.modInsertion c g).insertions)
        (hc : u.cells = s.cells) : (u.asked c cmd).insertion e = s.insertion e ∧ (u.asked c cmd).cell e = s.cell e := by
      refine ⟨?_, (State.cell_asked_ne h cmd).trans (by rw [State.cell, hc]; rfl)⟩
      rw [← State.insertion_modInsertion_ne (s := s) h g]
      show u.insertion e = _
      rw [State.insertion, hu]
      rfl
    have quiet (g : Insertion → Insertion) : (s.modInsertion c g).insertion e = s.insertion e ∧
        (s.modInsertion c g).cell e = s.cell e := ⟨State.insertion_modInsertion_ne h g, rfl⟩
    rw [pauseRequest_eq hi]
    split
    · exact ⟨rfl, rfl⟩
    · dsimp only
      split
      · split
        · exact plain _ _ _ rfl rfl
        · exact quiet _
      · exact plain _ _ _ rfl rfl
      · split <;> exact plain _ _ _ rfl rfl
      · exact quiet _

theorem State.pauseRequest_resting (hi : s.insertion c = some i) (h : i.state = .ending ∨ i.state = .suspended)
    (f : PauseSet → PauseSet) :
    (∃ p v, (s.pauseRequest c f).insertion c = some { i with pause := p, sampleVoid := v }) ∧
      (s.pauseRequest c f).cell c = s.cell c := by
  have hu (p : PauseSet) : (s.modInsertion c fun j => { j with pause := p, sampleVoid := true }).insertion c =
      some { i with pause := p, sampleVoid := true } := by
    rw [State.insertion_modInsertion, if_pos rfl, hi]
    rfl
  rw [pauseRequest_eq hi]
  split
  · exact ⟨⟨i.pause, i.sampleVoid, hi⟩, rfl⟩
  · dsimp only
    split
    · next k => simp [k] at h
    · next k => simp [k] at h
    · next k => simp [k] at h
    · exact ⟨⟨_, _, hu _⟩, rfl⟩

theorem State.pauseRequest_vacant (h : s.insertion c = none) (f : PauseSet → PauseSet) : s.pauseRequest c f = s := by
  unfold State.pauseRequest
  rw [h]

/-- A lot's HOLD reason brought up to date is one pause request, or nothing. -/
theorem State.syncHold_eq (s : State) (l : LotSlot) :
    s.syncHold l = s ∨ ∃ c f, s.syncHold l = s.pauseRequest c f := by
  unfold State.syncHold
  split
  · exact .inr ⟨_, _, rfl⟩
  · exact .inl rfl

theorem State.syncHold_vacant (h : s.insertion c = none) : (s.syncHold l).insertion c = none := by
  obtain e | ⟨d, f, e⟩ := s.syncHold_eq l
  · rw [e, h]
  · rw [e]
    by_cases hd : c = d
    · rw [← hd, State.pauseRequest_vacant h, h]
    · rw [(State.pauseRequest_elsewhere hd f).1, h]

theorem State.syncHold_resting (hi : s.insertion c = some i) (h : i.state = .ending ∨ i.state = .suspended) :
    (∃ p v, (s.syncHold l).insertion c = some { i with pause := p, sampleVoid := v }) ∧
      (s.syncHold l).cell c = s.cell c := by
  obtain e | ⟨d, f, e⟩ := s.syncHold_eq l
  · rw [e]
    exact ⟨⟨i.pause, i.sampleVoid, hi⟩, rfl⟩
  · rw [e]
    by_cases hd : c = d
    · rw [← hd]
      exact State.pauseRequest_resting hi h f
    · obtain ⟨h1, h2⟩ := State.pauseRequest_elsewhere (s := s) hd f
      exact ⟨⟨i.pause, i.sampleVoid, h1.trans hi⟩, h2⟩

end Sys2Proof.Machine
end

section
/-! SUPPORT. What the ship orders leave of the floor: memberships ended and orders examined (R142, R144, R146). -/

namespace Sys2Proof.Machine

variable {s t : State} {l m : LotSlot} {x y : Lot} {n : ShipNo} {o : Ship}

/-- The cells, the insertions, the hold table, the engine and the queue stand. -/
structure State.OrdersMove (s t : State) : Prop where
  cells : t.cells = s.cells
  insertions : t.insertions = s.insertions
  hm : t.hm = s.hm
  de : t.de = s.de
  queue : t.lm.queue = s.lm.queue

theorem State.OrdersMove.refl (s : State) : s.OrdersMove s := ⟨rfl, rfl, rfl, rfl, rfl⟩

theorem State.OrdersMove.trans {u : State} (h : s.OrdersMove t) (k : t.OrdersMove u) : s.OrdersMove u :=
  ⟨k.cells.trans h.cells, k.insertions.trans h.insertions, k.hm.trans h.hm, k.de.trans h.de, k.queue.trans h.queue⟩

theorem State.OrdersMove.insertion (h : s.OrdersMove t) (c : CellNo) : t.insertion c = s.insertion c := by
  rw [State.insertion, h.insertions]
  rfl

theorem State.OrdersMove.cell (h : s.OrdersMove t) (c : CellNo) : t.cell c = s.cell c := by
  rw [State.cell, h.cells]
  rfl

/-! ## A membership ended (R142) -/

/-- An expulsion ends the membership of an OPEN order that asks for it. -/
theorem State.expel_of (hy : s.lot l = some y) (x : Lot) (cause : RemovalCause) (leaves : Ship → Bool) :
    s.OrdersMove (s.expel l x cause leaves) ∧ ∃ sh, (s.expel l x cause leaves).lot l = some { y with ship := sh } ∧
      (sh = y.ship ∨ sh = none) ∧
      ∀ n o, x.ship = some n → s.ship n = some o → o.state = .opened → leaves o = true → sh = none := by
  unfold State.expel
  cases hx : x.ship with
  | none => exact ⟨.refl s, y.ship, hy, .inl rfl, by simp⟩
  | some n =>
    dsimp only
    cases ho : s.ship n with
    | none => exact ⟨.refl s, y.ship, hy, .inl rfl, fun n' o' e e' => by cases e; simp [ho] at e'⟩
    | some o =>
      dsimp only
      by_cases hl : (o.state = .opened && leaves o) = true
      · rw [if_pos hl]
        unfold State.removeMember
        rw [ho]
        refine ⟨⟨rfl, rfl, rfl, rfl, rfl⟩, none, ?_, .inr rfl, fun _ _ _ _ _ _ => rfl⟩
        refine (State.lot_modLot _ l l _).trans ?_
        rw [if_pos rfl, State.modShip_lot, hy]
        rfl
      · rw [if_neg hl]
        refine ⟨.refl s, y.ship, hy, .inl rfl, fun n' o' e e' h1 h2 => ?_⟩
        cases e
        rw [ho] at e'
        cases e'
        simp [h1, h2] at hl

theorem State.expel_none (h : x.ship = none) (cause : RemovalCause) (leaves : Ship → Bool) :
    s.expel l x cause leaves = s := by
  unfold State.expel
  rw [h]

/-! ## An order released (R144, R146) -/

/-- No member that stands in the table is QUEUED. -/
def State.NoneQueued (s : State) (ls : List LotSlot) : Prop := ∀ k ∈ ls, ∀ x, s.lot k = some x → x.state ≠ .queued

/-- One member released, that is not QUEUED. -/
theorem State.releaseMember_of (n : ShipNo) (o : Ship) (h : ∀ x, s.lot m = some x → x.state ≠ .queued) :
    s.OrdersMove (State.releaseMember n o s m) ∧ s.LotsStand (State.releaseMember n o s m) ∧
      (∀ k, k ≠ m → (State.releaseMember n o s m).lot k = s.lot k) ∧
      ∀ x, (State.releaseMember n o s m).lot m = some x → x.state ≠ .queued := by
  unfold State.releaseMember
  cases hx : s.lot m with
  | none => exact ⟨.refl s, .refl s, fun _ _ => rfl, fun x hx' => by simp [hx] at hx'⟩
  | some x =>
    dsimp only
    have hu : (s.report (.release m (s.releaseContent n o x))).lot m = some x := hx
    refine ⟨?_, ((State.LotsStand.refl s).report _).setLotState m _, fun k hk => ?_, fun y hy => ?_⟩
    · by_cases e : x.state = .released
      · rw [State.setLotState_same hu e]
        exact ⟨rfl, rfl, rfl, rfl, rfl⟩
      · rw [State.setLotState_apart hu e (h x hx) (by simp)]
        exact ⟨rfl, rfl, rfl, rfl, rfl⟩
    · by_cases e : x.state = .released
      · rw [State.setLotState_same hu e]
        rfl
      · rw [State.setLotState_apart hu e (h x hx) (by simp)]
        exact (State.lot_setLot _ m k _).trans (if_neg hk)
    · rw [State.lot_setLotState hu] at hy
      cases hy
      simp

/-- The members released in turn. -/
theorem State.foldl_releaseMember (n : ShipNo) (o : Ship) (ls : List LotSlot) (s : State) (h : s.NoneQueued ls) :
    s.OrdersMove (ls.foldl (State.releaseMember n o) s) ∧ s.LotsStand (ls.foldl (State.releaseMember n o) s) ∧
      ∀ k, k ∉ ls → (ls.foldl (State.releaseMember n o) s).lot k = s.lot k := by
  induction ls generalizing s with
  | nil => exact ⟨.refl s, .refl s, fun _ _ => rfl⟩
  | cons m ls ih =>
    obtain ⟨h1, h2, h3, h4⟩ := State.releaseMember_of (m := m) n o (h m (by simp))
    obtain ⟨k1, k2, k3⟩ := ih (State.releaseMember n o s m) fun k hk x hx => by
      by_cases e : k = m
      · exact h4 x (e ▸ hx)
      · exact h k (by simp [hk]) x (by rw [← h3 k e, hx])
    refine ⟨h1.trans k1, h2.trans k2, fun k hk => ?_⟩
    rw [List.mem_cons, not_or] at hk
    exact (k3 k hk.2).trans (h3 k hk.1)

/-- An order that is ready for auto-release has no QUEUED member (R136, R146). -/
theorem State.autoReady_noneQueued (h : s.autoReady o = true) : s.NoneQueued o.lots := by
  intro k hk x hx
  unfold State.autoReady at h
  rw [Bool.and_eq_true, List.all_eq_true] at h
  have hready := h.2 k hk
  unfold State.readyAt at hready
  rw [hx] at hready
  unfold Lot.releaseReady at hready
  intro e
  simp [e] at hready

/-- An examination releases members at most: lot records keep all but their states, and a lot outside the order stands. -/
theorem State.examineAuto_moves (s : State) (n : ShipNo) :
    s.OrdersMove (s.examineAuto n) ∧ s.LotsStand (s.examineAuto n) ∧
      ((∀ o, s.ship n = some o → l ∉ o.lots) → (s.examineAuto n).lot l = s.lot l) := by
  unfold State.examineAuto
  cases ho : s.ship n with
  | none => exact ⟨.refl s, .refl s, fun _ => rfl⟩
  | some o =>
    dsimp only
    split
    · next ha =>
      obtain ⟨h1, h2, h3⟩ := State.foldl_releaseMember n o o.lots s (State.autoReady_noneQueued ha)
      unfold State.releaseOrder
      rw [ho]
      dsimp only
      exact ⟨h1.trans ⟨rfl, rfl, rfl, rfl, rfl⟩, h2.next rfl rfl, fun h => h3 l (h o rfl)⟩
    · exact ⟨.refl s, .refl s, fun _ => rfl⟩

/-- The examination after an expulsion does not concern the lot. -/
theorem State.examineFormer_moves (s : State) (l : LotSlot) (x : Lot) :
    s.OrdersMove (s.examineFormer l x) ∧ (s.examineFormer l x).lot l = s.lot l := by
  unfold State.examineFormer
  split
  · exact ⟨.refl s, rfl⟩
  · next n _ =>
    split
    · exact ⟨.refl s, rfl⟩
    · next o ho =>
      split
      · exact ⟨.refl s, rfl⟩
      · next hl =>
        obtain ⟨h1, -, h3⟩ := State.examineAuto_moves (l := l) s n
        exact ⟨h1, h3 fun o' e => by rw [ho] at e; cases e; exact hl⟩

/-- A readiness notice releases members at most (R137). -/
theorem State.notice_moves (s : State) (l : LotSlot) : s.OrdersMove (s.notice l) ∧ s.LotsStand (s.notice l) := by
  unfold State.notice
  split
  · exact ⟨.refl s, .refl s⟩
  · split
    · exact ⟨.refl s, .refl s⟩
    · next n _ =>
      split
      · obtain ⟨h1, h2, -⟩ := State.examineAuto_moves (l := l) s n
        exact ⟨h1, h2⟩
      · exact ⟨.refl s, .refl s⟩

end Sys2Proof.Machine
end

section
/-! SUPPORT. A lot scrapped (R79, R114). -/

namespace Sys2Proof.Machine

variable {s t w : State} {l : LotSlot} {x y : Lot} {c : CellNo} {i j : Insertion}

/-! ## What a change of lot state leaves -/

theorem State.setLotState_ships (s : State) (l : LotSlot) (new : LotState) : (s.setLotState l new).ships = s.ships := by
  unfold State.setLotState
  split
  · rfl
  · split
    · rfl
    · dsimp only
      split
      · rfl
      · split <;> rfl

theorem State.CellsStand.insertion (h : s.CellsStand t) (c : CellNo) : t.insertion c = s.insertion c := by
  rw [State.insertion, h.insertions]
  rfl

theorem State.CellsStand.cell (h : s.CellsStand t) (c : CellNo) : t.cell c = s.cell c := by
  rw [State.cell, h.cells]
  rfl

theorem State.insertionOf_congr (h : ∀ c, t.insertion c = s.insertion c) (l : LotSlot) :
    t.insertionOf l = s.insertionOf l := by
  unfold State.insertionOf
  simp only [h]

theorem State.CellsStand.derived (h : s.CellsStand t) (k : s.CellStatesDerived) : t.CellStatesDerived := by
  intro c
  rw [h.cell, k c]
  refine (State.derivedState_congr c (by rw [h.cell]) (fun p => ?_) (by rw [h.cell]) (by rw [h.cell]) (by rw [h.cell])
    (by rw [h.insertion]) ?_).symm
  · rw [State.port, h.ports]
    exact ⟨rfl, rfl⟩
  · rw [State.reservationOf, h.reservations]
    rfl

/-! ## The cell of an insertion that is given up (R65) -/

/-- A cell whose insertion alone has gone enters no state that cancels a reservation (Table 2-4, Table 2-6). -/
theorem State.deriveCell_vacated (h : (w.cell c).state = s.derivedState c) (hm : (w.cell c).mapping = (s.cell c).mapping)
    (hp : w.ports = s.ports) (hh : (w.cell c).heard = (s.cell c).heard) (hi : (w.cell c).mismatched = (s.cell c).mismatched)
    (hn : w.insertion c = none) (cause : CellCause) :
    w.FloorMoves (w.deriveCell c cause) ∧ (w.deriveCell c cause).insertions = w.insertions := by
  have hstate : w.derivedState c = s.derivedState c ∨ w.derivedState c = .reserved ∨ w.derivedState c = .outOfService ∨
      w.derivedState c = .idle := by
    unfold State.derivedState
    dsimp only
    rw [hm, hh, hi, hn]
    cases (s.cell c).mapping with
    | none => exact .inl rfl
    | some m =>
      have hport : w.port m.port = s.port m.port := by rw [State.port, hp]; rfl
      dsimp only
      rw [hport]
      by_cases h1 : (!(s.port m.port).inWindow m.tap) = true
      · exact .inl (by rw [if_pos h1, if_pos h1])
      · by_cases h2 : (!(s.cell c).heard) = true
        · exact .inl (by rw [if_neg h1, if_neg h1, if_pos h2, if_pos h2])
        · by_cases h3 : (s.cell c).mismatched = true
          · exact .inl (by rw [if_neg h1, if_neg h1, if_neg h2, if_neg h2, if_pos h3, if_pos h3])
          · rw [if_neg h1, if_neg h2, if_neg h3]
            right
            cases (w.reservationOf c).isSome <;> cases (w.cell c).service <;> simp
  unfold State.deriveCell
  dsimp only
  split
  · exact ⟨.refl w, rfl⟩
  · next hne =>
    have moved := ((State.FloorMoves.refl w).modCell c fun x => { x with state := w.derivedState c }).report
      (.cellState c (w.cell c).state (w.derivedState c) cause)
    rcases hstate with e | e | e | e
    · exact absurd (e.trans h.symm) hne
    · rw [e] at moved ⊢
      exact ⟨moved, rfl⟩
    · rw [e] at moved ⊢
      exact ⟨moved, rfl⟩
    · rw [e] at moved ⊢
      exact ⟨moved.triggerPass, rfl⟩

/-- A SCRAPPED lot's insertion is given up: its record goes, and no lot, hold or order changes (R65, R114). -/
theorem State.abandon_scrapped (hd : s.CellStatesDerived) (hi : s.insertion c = some i) (hy : s.lot i.lot = some y)
    (hs : y.state = .scrapped) : s.FloorMoves (s.abandon c none) ∧ (s.abandon c none).insertion c = none := by
  let w : State := (s.clearInsertion c).report (.insertionEvent c i.lot (some i.state) none .abandoned)
  have hcell : w.cell c = { s.cell c with slot := { (s.cell c).slot with desired := none } } :=
    (State.cell_modCell (s.setInsertion c none) c c fun z => { z with slot := { z.slot with desired := none } }).trans
      (if_pos rfl)
  have hins : w.insertion c = none := (State.insertion_setInsertion s c c none).trans (if_pos rfl)
  have hw : s.abandon c none = w.deriveCell c .insertion := by
    have hlot : (s.clearInsertion c).lot i.lot = some y := hy
    unfold State.abandon
    rw [hi]
    dsimp only
    rw [State.returnLot, hlot]
    dsimp only
    rw [if_pos hs]
  obtain ⟨h1, h2⟩ := State.deriveCell_vacated (s := s) (w := w) (c := c) (by rw [hcell]; exact hd c) (by rw [hcell]) rfl
    (by rw [hcell]) (by rw [hcell]; rfl) hins .insertion
  rw [hw]
  refine ⟨State.FloorMoves.trans (t := w) ⟨rfl, rfl, rfl⟩ h1, ?_⟩
  rw [State.insertion, h2]
  exact hins

/-! ## The abort request (R79) -/

theorem State.cell_asked (s : State) (c : CellNo) (cmd : Command) :
    (s.asked c cmd).cell c = { s.cell c with slot := { (s.cell c).slot with desired := some cmd } } :=
  (State.cell_modCell s c c _).trans (if_pos rfl)

theorem State.insertion_modInsertion_same (hi : s.insertion c = some i) (f : Insertion → Insertion) :
    (s.modInsertion c f).insertion c = some (f i) := by
  rw [State.insertion_modInsertion, if_pos rfl, hi]
  rfl

/-- An abort request to an insertion that is neither in KIT_WAIT nor LOADING: ABORT is asked for, and the insertion is
ENDING, or SUSPENDED from ENDING (R79). -/
theorem State.abortRequest_later (hi : s.insertion c = some i) (h1 : i.takenBy ≠ .kitWait) (h2 : i.takenBy ≠ .loading) :
    s.FloorMoves (s.abortRequest c) ∧ ((s.abortRequest c).cell c).slot.desired = some .abort ∧
      ∃ j, (s.abortRequest c).insertion c = some j ∧ j.abortRequested = true ∧ j.takenBy = .ending ∧
        (j.state = .ending ∨ j.state = .suspended) := by
  let u := s.modInsertion c fun i => { i with abortRequested := true }
  have hu : u.insertion c = some { i with abortRequested := true } := State.insertion_modInsertion_same hi _
  have hcase : s.abortRequest c =
      if i.state = .suspended then (u.modInsertion c fun i => { i with before := some .ending }).asked c .abort
      else if i.state = .ending then u.asked c .abort
      else (u.setInsState c .ending .abort).asked c .abort := by
    unfold State.abortRequest
    rw [hi]
    dsimp only
    split
    · next e => exact absurd e h1
    · next e => exact absurd e h2
    · simp only [request_plain (cmd := .abort) rfl]
      rfl
  have moved := (State.FloorMoves.refl s).modInsertion c fun i => { i with abortRequested := true }
  rw [hcase]
  by_cases hs : i.state = .suspended
  · rw [if_pos hs]
    refine ⟨(moved.modInsertion c _).modCell c _, by rw [State.cell_asked], _,
      State.insertion_modInsertion_same hu fun i => { i with before := some .ending }, rfl, ?_, .inr hs⟩
    unfold Insertion.takenBy
    rw [if_pos hs]
    rfl
  · rw [if_neg hs]
    by_cases he : i.state = .ending
    · rw [if_pos he]
      refine ⟨moved.modCell c _, by rw [State.cell_asked], _, hu, rfl, ?_, .inl he⟩
      unfold Insertion.takenBy
      rw [if_neg hs]
      exact he
    · rw [if_neg he, setInsState_eq hu]
      exact ⟨((moved.modInsertion c _).report _).modCell c _, by rw [State.cell_asked], _,
        State.insertion_modInsertion_same hu fun i => { i with state := .ending }, rfl, rfl, .inl rfl⟩

/-- The cell found for a lot holds an insertion of the lot. -/
theorem State.insertionOf_some (h : s.insertionOf l = some c) : ∃ i, s.insertion c = some i ∧ i.lot = l := by
  have k := List.find?_some h
  cases hi : s.insertion c with
  | none => simp [hi] at k
  | some i => exact ⟨i, rfl, by simpa [hi] using k⟩

/-- The abort request to a lot's insertion, when there is one (R114). -/
def State.abortLot (l : LotSlot) (s : State) : State :=
  match s.insertionOf l with
  | none => s
  | some c => s.abortRequest c

/-- The abort request and the HOLD reason of a SCRAPPED lot's insertion (R79, R114). -/
theorem State.abortLot_scrapped (hd : s.CellStatesDerived) (hy : s.lot l = some y) (hs : y.state = .scrapped) :
    s.FloorMoves ((s.abortLot l).syncHold l) ∧ ∀ c i, s.insertionOf l = some c → s.insertion c = some i →
      (i.takenBy = .kitWait ∨ i.takenBy = .loading → ((s.abortLot l).syncHold l).insertion c = none) ∧
      (i.takenBy.hasRun = true → ∃ j, ((s.abortLot l).syncHold l).insertion c = some j ∧ j.abortRequested = true ∧
        j.takenBy = .ending ∧ (((s.abortLot l).syncHold l).cell c).slot.desired = some .abort) := by
  unfold State.abortLot
  cases hc : s.insertionOf l with
  | none => exact ⟨(State.FloorMoves.refl s).syncHold l, by simp⟩
  | some c =>
    obtain ⟨i, hi, rfl⟩ := State.insertionOf_some hc
    dsimp only
    by_cases hload : i.takenBy = .kitWait ∨ i.takenBy = .loading
    · have habandon : s.abortRequest c = s.abandon c none := by
        unfold State.abortRequest
        rw [hi]
        dsimp only
        rcases hload with e | e <;> rw [e]
      obtain ⟨h1, h2⟩ := State.abandon_scrapped hd hi hy hs
      rw [habandon]
      refine ⟨h1.syncHold _, fun c' i' e e' => ?_⟩
      cases e
      rw [hi] at e'
      cases e'
      refine ⟨fun _ => State.syncHold_vacant h2, fun hr => ?_⟩
      rcases hload with k | k <;> rw [k] at hr <;> cases hr
    · rw [not_or] at hload
      obtain ⟨h1, h2, j, hj, habort, hending, hstate⟩ := State.abortRequest_later hi hload.1 hload.2
      refine ⟨h1.syncHold _, fun c' i' e e' => ?_⟩
      cases e
      rw [hi] at e'
      cases e'
      obtain ⟨⟨p, v, hsync⟩, hcell⟩ := State.syncHold_resting (l := i.lot) hj hstate
      refine ⟨fun k => absurd k (by simp [hload.1, hload.2]), fun _ => ⟨_, hsync, habort, hending, ?_⟩⟩
      rw [hcell]
      exact h2

/-! ## The scrap (R114) -/

/-- What a scrap leaves of the lot, when the cell states are the derived ones. -/
theorem State.scrap_scrapped (hx : s.lot l = some x) (hd : s.CellStatesDerived) : s.Scrapped l x (s.scrap l) := by
  -- the holds deleted and the lot SCRAPPED
  obtain ⟨hclear, hholds, hfreed⟩ := State.clearHolds_of hx .scrap
  let a := s.clearHolds l x .scrap
  let b := a.setLotState l .scrapped
  have hb : b.lot l = some { s.freedLot l x with state := .scrapped } := by
    refine (State.lot_setLotState hfreed _).trans ?_
    rw [if_neg (by simp)]
  have hqueue : b.lm.queue = if x.state = .queued then s.lm.queue.erase l else s.lm.queue := by
    refine (State.queue_setLotState hfreed (by simp)).trans ?_
    rw [hclear.queue]
    by_cases e : x.state = .queued
    · rw [if_pos e]
      exact if_pos ⟨e, by simp⟩
    · rw [if_neg e]
      exact if_neg fun k => e k.1
  have stand : s.CellsStand b := hclear.toCellsStand.setLotState l .scrapped
  have hships : b.ships = s.ships := (State.setLotState_ships a l .scrapped).trans hclear.ships
  have hbholds : b.hm.holds = s.hm.holds.filter fun g => g.id ∉ x.holds := by
    rw [((State.LotsStand.refl a).setLotState l .scrapped).hm]
    exact hholds
  -- the insertion ended, and the membership
  obtain ⟨hfloor, hins⟩ := State.abortLot_scrapped (stand.derived hd) hb rfl
  let e := (b.abortLot l).syncHold l
  have he : e.lot l = some { s.freedLot l x with state := .scrapped } := (hfloor.lot l).trans hb
  obtain ⟨hexpel, sh, hlot, -, hship⟩ := State.expel_of he x .scrapped fun _ => true
  obtain ⟨hformer, hlast⟩ := State.examineFormer_moves ((e.expel l x .scrapped fun _ => true).triggerPass) l x
  have hu : s.scrap l = ((e.expel l x .scrapped fun _ => true).triggerPass).examineFormer l x := by
    unfold State.scrap
    rw [hx]
    rfl
  have hinsertion (c : CellNo) : (s.scrap l).insertion c = e.insertion c := by
    rw [hu, hformer.insertion]
    exact hexpel.insertion c
  have hcell (c : CellNo) : (s.scrap l).cell c = e.cell c := by
    rw [hu, hformer.cell]
    exact hexpel.cell c
  refine ⟨?_, ⟨{ s.freedLot l x with state := .scrapped, ship := sh }, ?_, rfl, rfl, rfl, rfl, rfl, rfl, fun n o hn ho hopen => ?_, fun _ hall => ?_⟩, fun _ => ?_,
    fun c i hc hi hl => ?_, fun c i hc hi hr => ?_, ?_⟩
  · rw [hu, hformer.hm]
    show (e.expel l x .scrapped fun _ => true).hm.holds = _
    rw [hexpel.hm, hfloor.hm, hbholds]
  · rw [hu, hlast]
    exact hlot
  · refine hship n o hn ?_ hopen rfl
    rw [hfloor.ship, State.ship, hships]
    exact ho
  · exact State.freedLot_holds hall
  · rw [hu, hformer.queue]
    show (e.expel l x .scrapped fun _ => true).lm.queue = _
    rw [hexpel.queue, hfloor.lm, hqueue]
  · rw [hinsertion]
    exact (hins c i ((State.insertionOf_congr stand.insertion l).trans hc) ((stand.insertion c).trans hi)).1 hl
  · rw [hinsertion, hcell]
    exact (hins c i ((State.insertionOf_congr stand.insertion l).trans hc) ((stand.insertion c).trans hi)).2 hr
  · rw [hu, hformer.de]
    rfl

end Sys2Proof.Machine
end

section
/-! OBLIGATION O48. A quarantined lot disposed of (R114, R115). -/

namespace Sys2Proof.Machine

variable {s t : State} {l : LotSlot} {x y z : Lot} {c e : CellNo} {i : Insertion} {slot : BoardSlot} {lot : Half} {d : Byte}

/-! ## The lot's step closed as it stands (R18, R115) -/

/-- Lot `z` has the ship order, the holds, the quarantine and the flag DEVIATION of `y`. -/
structure Lot.Kept (y z : Lot) : Prop where
  ship : z.ship = y.ship
  holds : z.holds = y.holds
  quarantined : z.quarantined = y.quarantined
  deviation : z.deviation = y.deviation

theorem State.closeStep_kept (hy : s.lot l = some y) :
    (s.closeStep l).hm = s.hm ∧ ∃ z, (s.closeStep l).lot l = some z ∧ y.Kept z := by
  let u := (s.changeStep l y.current fun st => { st with state := .closed }).setLot l (some (y.goesOn s.lm.recipes).1)
  have hu : u.lot l = some (y.goesOn s.lm.recipes).1 := (State.lot_setLot _ l l _).trans (if_pos rfl)
  have hkept : y.Kept (y.goesOn s.lm.recipes).1 := by
    unfold Lot.goesOn
    dsimp only
    split
    · exact ⟨rfl, rfl, rfl, rfl⟩
    · split <;> exact ⟨rfl, rfl, rfl, rfl⟩
  rw [State.closeStep_eq hy]
  exact ⟨((State.LotsStand.refl u).setLotState l _).hm, _, State.lot_setLotState hu _,
    hkept.ship, hkept.holds, hkept.quarantined, hkept.deviation⟩

/-- What a downgrade does with the current step of the lot `x`: an exhausted one closes with the remainder as loss, and the
accounted one of a QUEUED lot as it stands (R18, R115). -/
def State.closeAsItStands (l : LotSlot) (x : Lot) (s : State) : State :=
  if (x.step x.current).exhausted = true then (s.changeStep l x.current LotStep.remainderToLoss).closeStep l
  else if x.state = .queued ∧ x.closable = true then s.closeStep l
  else s

theorem State.closeAsItStands_kept (hy : s.lot l = some y) (x : Lot) :
    s.CellsStand (s.closeAsItStands l x) ∧ (s.closeAsItStands l x).hm = s.hm ∧
      ∃ z, (s.closeAsItStands l x).lot l = some z ∧ y.Kept z := by
  unfold State.closeAsItStands
  split
  · obtain ⟨hm, z, hz, k⟩ := State.closeStep_kept
      (State.lot_changeStep (k := x.current) (f := LotStep.remainderToLoss) hy)
    exact ⟨((State.CellsStand.refl s).changeStep _ _ _).closeStep l, hm, z, hz, k.ship, k.holds, k.quarantined, k.deviation⟩
  · split
    · obtain ⟨hm, z, hz, k⟩ := State.closeStep_kept hy
      exact ⟨(State.CellsStand.refl s).closeStep l, hm, z, hz, k⟩
    · exact ⟨.refl s, rfl, y, hy, rfl, rfl, rfl, rfl⟩

/-- The step is OPEN with four runs, all closed (R7). -/
def LotStep.Spent (st : LotStep) : Prop := st.state = .opened ∧ 4 ≤ st.runs.length ∧ ∀ r ∈ st.runs, r.endSecond ≠ none

/-- The current step of a QUEUED lot is OPEN and accounted for. -/
def Lot.Accounted (x : Lot) : Prop :=
  x.state = .queued ∧ (x.step x.current).state = .opened ∧ (x.step x.current).accounted = (x.step x.current).unitsIn

theorem LotStep.exhausted_iff (st : LotStep) : st.exhausted = true ↔ st.Spent := by
  unfold LotStep.exhausted LotStep.Spent
  rw [Bool.and_eq_true, Bool.and_eq_true, decide_eq_true_iff, decide_eq_true_iff, List.all_eq_true, and_assoc]
  simp only [Option.isSome_iff_ne_none]
  rfl

theorem Lot.accounted_iff (x : Lot) : x.state = .queued ∧ x.closable = true ↔ x.Accounted := by
  unfold Lot.closable Lot.Accounted
  rw [Bool.and_eq_true, Bool.and_eq_true, decide_eq_true_iff, decide_eq_true_iff, decide_eq_true_iff]
  constructor
  · rintro ⟨h, ⟨-, h1⟩, h2⟩
    exact ⟨h, h1, h2⟩
  · rintro ⟨h, h1, h2⟩
    exact ⟨h, ⟨by simp [h], h1⟩, h2⟩

/-- The lot `z` in state `t` is what the closure of the current step of `x`, with loss `n`, leaves (R16, R17). -/
structure State.Closed (s t : State) (l : LotSlot) (x : Lot) (n : Nat) (z : Lot) : Prop where
  step : z.step x.current = { x.step x.current with state := .closed, loss := n }
  empties : x.grades s.lm.recipes = 0 → z.state = .complete ∧ z.empty = true ∧ z.tail = 0 ∧ z.current = x.current ∧
    ∀ k, x.current < k → k ≤ x.steps.length →
      (z.step k).state = .skipped ∧ (z.step k).unitsIn = 0 ∧ (z.step k).accounted = 0 ∧ (z.step k).runs = []
  completes : x.grades s.lm.recipes ≠ 0 → x.current = x.steps.length →
    z.state = .complete ∧ z.empty = x.empty ∧ z.tail = 0 ∧ z.current = x.current
  advances : x.grades s.lm.recipes ≠ 0 → x.current < x.steps.length → z.state = .queued ∧ z.current = x.current + 1
  leaves : x.state = .queued → z.state = .complete → t.lm.queue = s.lm.queue.erase l
  stays : x.state = .queued → z.state = .queued → t.lm.queue = s.lm.queue ∧ z.ready = x.ready

/-- The closure of the step of a lot on the course of `x`, the loss alone of the step being changed. -/
theorem State.closeStep_closed {w : State} {n : Nat} (hw : w.lot l = some y) (hr : w.lm.recipes = s.lm.recipes)
    (hq : w.lm.queue = s.lm.queue) (hc : x.SameCourse y) (hready : y.ready = x.ready)
    (hstep : y.step x.current = { x.step x.current with loss := n }) (h1 : 1 ≤ x.current)
    (h2 : x.current ≤ x.steps.length) :
    ∃ z, (w.closeStep l).lot l = some z ∧ s.Closed (w.closeStep l) l x n z := by
  have hcur := hc.current
  have hlen := hc.length
  obtain ⟨z, hz, hwent, hleaves, hstays⟩ := State.lot_closeStep hw (by rw [hcur]; exact h1) (by rw [hcur, hlen]; exact h2)
  have hgrades : y.grades w.lm.recipes = x.grades s.lm.recipes := by
    unfold Lot.grades
    rw [hcur, hstep, hr]
    rfl
  have hclosed := hwent.step
  rw [hcur, hstep] at hclosed
  refine ⟨z, hz, hclosed, fun e => ?_, fun e e' => ?_, fun e e' => ?_, fun e e' => ?_, fun e e' => ?_⟩
  · obtain ⟨hstate, hempty, htail, hz, hlater⟩ := hwent.empties (hgrades.trans e)
    exact ⟨hstate, hempty, htail, hz.trans hcur, fun k hk hl => hlater k (by rw [hcur]; exact hk) (by rw [hlen]; exact hl)⟩
  · obtain ⟨hstate, hempty, htail, hz⟩ := hwent.completes (by rwa [hgrades]) (by rw [hcur, hlen]; exact e')
    exact ⟨hstate, hempty.trans hc.empty, htail, hz.trans hcur⟩
  · obtain ⟨hstate, hz⟩ := hwent.advances (by rwa [hgrades]) (by rw [hcur, hlen]; exact e')
    exact ⟨hstate, by rw [hz, hcur]⟩
  · rw [hleaves (hc.state.trans e) e', hq]
  · obtain ⟨hqueue, hz⟩ := hstays (hc.state.trans e) e'
    exact ⟨hqueue.trans hq, hz.trans hready⟩

/-- The three cases of the closure that a downgrade makes, of a lot with the course and the steps of `x` (R18, R115). -/
theorem State.closeAsItStands_of {w : State} (hw : w.lot l = some y) (hr : w.lm.recipes = s.lm.recipes)
    (hq : w.lm.queue = s.lm.queue) (hc : x.SameCourse y) (hready : y.ready = x.ready) (hsteps : y.steps = x.steps)
    (h1 : 1 ≤ x.current) (h2 : x.current ≤ x.steps.length) :
    ∃ z, (w.closeAsItStands l x).lot l = some z ∧
      ((x.step x.current).Spent →
        s.Closed (w.closeAsItStands l x) l x ((x.step x.current).loss + (x.step x.current).remainder) z) ∧
      (¬ (x.step x.current).Spent → x.Accounted → s.Closed (w.closeAsItStands l x) l x (x.step x.current).loss z) ∧
      (¬ (x.step x.current).Spent → ¬ x.Accounted → z = y ∧ w.closeAsItStands l x = w) := by
  have hstep : y.step x.current = x.step x.current := by
    unfold Lot.step
    rw [hsteps]
  unfold State.closeAsItStands
  by_cases he : (x.step x.current).Spent
  · rw [if_pos ((LotStep.exhausted_iff _).mpr he)]
    have hloss := Lot.step_changeStep (x := y) (recipes := w.lm.recipes) (k := x.current) (f := LotStep.remainderToLoss) h1
      (by rw [hsteps]; exact h2)
    rw [hstep] at hloss
    obtain ⟨z, hz, hclosed⟩ := State.closeStep_closed (s := s) (x := x)
      (State.lot_changeStep (k := x.current) (f := LotStep.remainderToLoss) hw) hr hq
      ⟨hc.state, hc.current, hc.ship, hc.empty, Lot.changeStep_length.trans hc.length⟩ hready hloss h1 h2
    exact ⟨z, hz, fun _ => hclosed, fun k => absurd he k, fun k => absurd he k⟩
  · rw [if_neg (mt (LotStep.exhausted_iff _).mp he)]
    by_cases ha : x.Accounted
    · rw [if_pos (x.accounted_iff.mpr ha)]
      obtain ⟨z, hz, hclosed⟩ := State.closeStep_closed (n := (x.step x.current).loss) hw hr hq hc hready hstep h1 h2
      exact ⟨z, hz, fun k => absurd k he, fun _ _ => hclosed, fun _ k => absurd ha k⟩
    · rw [if_neg (mt x.accounted_iff.mp ha)]
      exact ⟨y, hw, fun k => absurd k he, fun _ k => absurd k ha, fun _ _ => ⟨rfl, rfl⟩⟩

/-! ## The HOLD reason withdrawn (R68, R108) -/

/-- A cell with a desired command. -/
def Cell.asking (cmd : Command) (z : Cell) : Cell := { z with slot := { z.slot with desired := some cmd } }

/-- The HOLD reason withdrawn from the pause-reason set of an insertion. -/
def State.withdrawHold (c : CellNo) (s : State) : State := s.pauseRequest c fun p => { p with hold := none }

theorem State.withdrawHold_none (hi : s.insertion c = some i) (h : i.pause.hold = none) : s.withdrawHold c = s := by
  have e : ({ i.pause with hold := none } : PauseSet) = i.pause := by rw [← h]
  exact (pauseRequest_eq hi _).trans (if_pos e)

/-- Without a reason left, a PAUSING or PAUSED insertion is asked for GO. -/
theorem State.withdrawHold_go (hi : s.insertion c = some i) (h : i.pause.hold ≠ none)
    (hp : i.state = .pausing ∨ i.state = .paused) (he : ({ i.pause with hold := none } : PauseSet).Empty) :
    (s.withdrawHold c).insertion c = some { i with pause := { i.pause with hold := none }, sampleVoid := true } ∧
      (s.withdrawHold c).cell c = (s.cell c).asking .go := by
  obtain ⟨hcmd, hhalt⟩ := command_of_empty he
  have hne : ({ i.pause with hold := none } : PauseSet) ≠ i.pause := fun e => h (congrArg PauseSet.hold e).symm
  have hask : s.withdrawHold c = (s.modInsertion c fun j => { j with
      pause := { i.pause with hold := none }, sampleVoid := true }).asked c .go := by
    refine (pauseRequest_eq hi _).trans ((if_neg hne).trans ?_)
    dsimp only
    rcases hp with e | e
    · rw [e, ← hcmd]
    · rw [e, hhalt, ← hcmd]
      rfl
  rw [hask]
  exact ⟨State.insertion_modInsertion_same hi _, State.cell_asked _ c .go⟩

/-- With a reason left, a PAUSING or PAUSED insertion is asked for the halt of those that stand. -/
theorem State.withdrawHold_halt (hi : s.insertion c = some i) (h : i.pause.hold ≠ none)
    (hp : i.state = .pausing ∨ i.state = .paused) (he : ¬ ({ i.pause with hold := none } : PauseSet).Empty) :
    (s.withdrawHold c).insertion c = some { i with
        pause := { i.pause with hold := none }, sampleVoid := true
        state := if (s.cell c).slot.desired = some .go then .pausing else i.state } ∧
      (s.withdrawHold c).cell c = (s.cell c).asking ({ i.pause with hold := none } : PauseSet).halting := by
  obtain ⟨hcmd, hhalt⟩ := command_of_nonempty he
  have hne : ({ i.pause with hold := none } : PauseSet) ≠ i.pause := fun e => h (congrArg PauseSet.hold e).symm
  have hask := (pauseRequest_eq hi fun p => { p with hold := none }).trans (if_neg hne)
  have hquiet := State.insertion_modInsertion_same hi fun j => { j with
    pause := { i.pause with hold := none }, sampleVoid := true }
  have hagain := State.insertion_modInsertion_same hi fun j => { j with
    pause := { i.pause with hold := none }, sampleVoid := true, state := .pausing }
  unfold State.withdrawHold
  rw [hask, ← hcmd]
  dsimp only
  rcases hp with e | e
  · rw [e, ite_self]
    refine ⟨hquiet.trans ?_, State.cell_asked _ c _⟩
    rw [e]
  · rw [e, hhalt]
    have hdesired : (true && (s.cell c).goDesired) = true ↔ (s.cell c).slot.desired = some .go := by simp [Cell.goDesired]
    by_cases hgo : (s.cell c).slot.desired = some .go
    · rw [if_pos hgo, if_pos (hdesired.mpr hgo)]
      exact ⟨hagain, State.cell_asked _ c _⟩
    · rw [if_neg hgo, if_neg (mt hdesired.mp hgo)]
      refine ⟨hquiet.trans ?_, State.cell_asked _ c _⟩
      rw [e]

/-- An insertion that is not on its way to or from a halt is asked for nothing. -/
theorem State.withdrawHold_quiet (hi : s.insertion c = some i) (h : i.pause.hold ≠ none) (h1 : i.state ≠ .running)
    (h2 : i.state ≠ .pausing) (h3 : i.state ≠ .paused) :
    (s.withdrawHold c).insertion c = some { i with pause := { i.pause with hold := none }, sampleVoid := true } ∧
      (s.withdrawHold c).cell c = s.cell c := by
  have hne : ({ i.pause with hold := none } : PauseSet) ≠ i.pause := fun e => h (congrArg PauseSet.hold e).symm
  unfold State.withdrawHold
  rw [pauseRequest_eq hi, if_neg hne]
  dsimp only
  split
  · next e => exact absurd e h1
  · next e => exact absurd e h2
  · next e => exact absurd e h3
  · exact ⟨State.insertion_modInsertion_same hi _, rfl⟩

/-- What the withdrawal of the HOLD reason makes of insertion `i` and of its cell `z` (R68, R108). -/
structure Insertion.Withdrawn (i : Insertion) (z : Cell) (j : Option Insertion) (z' : Cell) : Prop where
  stands : i.pause.hold = none → j = some i ∧ z' = z
  go : i.pause.hold ≠ none → i.state = .pausing ∨ i.state = .paused → ({ i.pause with hold := none } : PauseSet).Empty →
    j = some { i with pause := { i.pause with hold := none }, sampleVoid := true } ∧ z' = z.asking .go
  halt : i.pause.hold ≠ none → i.state = .pausing ∨ i.state = .paused → ¬ ({ i.pause with hold := none } : PauseSet).Empty →
    j = some { i with
      pause := { i.pause with hold := none }, sampleVoid := true
      state := if z.slot.desired = some .go then .pausing else i.state } ∧
    z' = z.asking ({ i.pause with hold := none } : PauseSet).halting
  quiet : i.pause.hold ≠ none → i.state ≠ .running → i.state ≠ .pausing → i.state ≠ .paused →
    j = some { i with pause := { i.pause with hold := none }, sampleVoid := true } ∧ z' = z

theorem State.withdrawHold_withdrawn (hi : s.insertion c = some i) :
    i.Withdrawn (s.cell c) ((s.withdrawHold c).insertion c) ((s.withdrawHold c).cell c) :=
  { stands := fun h => by rw [State.withdrawHold_none hi h]; exact ⟨hi, rfl⟩
    go := State.withdrawHold_go hi
    halt := State.withdrawHold_halt hi
    quiet := State.withdrawHold_quiet hi }

/-- Without holds and quarantine, bringing the HOLD reason up to date withdraws it. -/
theorem State.syncHold_withdraw (hz : s.lot l = some z) (h : z.holds = []) (hq : z.quarantined = false)
    (hc : s.insertionOf l = some c) : s.syncHold l = s.withdrawHold c := by
  have hreason : s.holdReason z = none := by simp [State.holdReason, State.holdsOf, h, hq]
  unfold State.syncHold
  rw [hz, hc]
  dsimp only
  rw [hreason]
  rfl

/-- The HOLD reason concerns the insertion of the lot alone. -/
theorem State.syncHold_elsewhere (h : s.insertionOf l ≠ some e) :
    (s.syncHold l).insertion e = s.insertion e ∧ (s.syncHold l).cell e = s.cell e := by
  unfold State.syncHold
  split
  · next c _ hc => exact State.pauseRequest_elsewhere (fun k => h (by rw [hc, k])) _
  · exact ⟨rfl, rfl⟩

/-! ## The downgrade (R115) -/

/-- The lot of a downgrade before its step is closed. -/
def State.downgradedLot (s : State) (l : LotSlot) (x : Lot) : Lot := { s.freedLot l x with deviation := true }

/-- The downgrade up to the close of the lot's step (R115 steps 1 to 6). -/
theorem State.downgrade_closed (hx : s.lot l = some x) :
    ∃ v z, s.downgrade l = (((v.syncHold l).triggerPass).notice l).examineFormer l x ∧ v.lot l = some z ∧
      v.hm.holds = s.hm.holds.filter (fun g => g.id ∉ x.holds) ∧
      (∀ e, v.insertion e = s.insertion e ∧ v.cell e = s.cell e) ∧
      z.holds = (s.freedLot l x).holds ∧ z.quarantined = false ∧ z.deviation = true ∧
      (∀ n o, x.ship = some n → s.ship n = some o → o.state = .opened → o.kind = .normal → z.ship = none) ∧
      (x.ship = none → z.ship = none ∧ (1 ≤ x.current → x.current ≤ x.steps.length →
        ((x.step x.current).Spent → s.Closed v l x ((x.step x.current).loss + (x.step x.current).remainder) z) ∧
        (¬ (x.step x.current).Spent → x.Accounted → s.Closed v l x (x.step x.current).loss z) ∧
        (¬ (x.step x.current).Spent → ¬ x.Accounted →
          z.state = x.state ∧ z.steps = x.steps ∧ v.lm.queue = s.lm.queue))) := by
  obtain ⟨hclear, hholds, hfreed⟩ := State.clearHolds_of hx .downgrade
  let a := (s.clearHolds l x .downgrade).modLot l fun x => { x with deviation := true }
  have ha : a.lot l = some (s.downgradedLot l x) := by
    refine (State.lot_modLot _ l l _).trans ?_
    rw [if_pos rfl, hfreed]
    rfl
  have move : s.HoldsMove a := hclear.modLot l _
  obtain ⟨b, hexp⟩ : ∃ b, b = a.expel l x .downgraded fun o => o.kind = .normal := ⟨_, rfl⟩
  obtain ⟨hexpel, sh, hb, hsh, hship⟩ := State.expel_of ha x .downgraded fun o => o.kind = .normal
  rw [← hexp] at hexpel hb
  obtain ⟨hstand, hm, z, hz, hkept⟩ := State.closeAsItStands_kept hb x
  refine ⟨b.closeAsItStands l x, z, ?_, hz, ?_, fun e => ⟨?_, ?_⟩, hkept.holds, hkept.quarantined, hkept.deviation, ?_, ?_⟩
  · rw [hexp]
    unfold State.downgrade
    rw [hx]
    rfl
  · rw [hm, hexpel.hm]
    exact hholds
  · rw [hstand.insertion, hexpel.insertion, move.insertion]
  · rw [hstand.cell, hexpel.cell, move.cell]
  · intro n o hn ho hopen hkind
    refine hkept.ship.trans (hship n o hn ?_ hopen (decide_eq_true hkind))
    rw [State.ship, move.ships]
    exact ho
  · intro hnone
    have hba : b = a := hexp.trans (State.expel_none hnone _ _)
    have hown : z.ship = none := hkept.ship.trans (hsh.elim (fun k => k.trans hnone) id)
    refine ⟨hown, fun h1 h2 => ?_⟩
    rw [hba] at hz ⊢
    obtain ⟨z', hz', hspent, haccounted, hneither⟩ := State.closeAsItStands_of (x := x) ha move.recipes move.queue
      ⟨rfl, rfl, rfl, rfl, rfl⟩ rfl rfl h1 h2
    obtain rfl : z' = z := Option.some.inj (hz'.symm.trans hz)
    refine ⟨hspent, haccounted, fun k k' => ?_⟩
    obtain ⟨rfl, hsame⟩ := hneither k k'
    exact ⟨rfl, rfl, by rw [hsame]; exact move.queue⟩

/-- The end of a downgrade: the HOLD reason, the pass, and the orders (R115). -/
theorem State.downgrade_end {v : State} (hz : v.lot l = some z) (x : Lot) :
    let u := (((v.syncHold l).triggerPass).notice l).examineFormer l x
    u.hm = v.hm ∧ u.de.passPending = true ∧
      (∀ e, u.insertion e = (v.syncHold l).insertion e ∧ u.cell e = (v.syncHold l).cell e) ∧
      u.lm.queue = v.lm.queue ∧
      ∃ y, u.lot l = some y ∧ y.body = z.body ∧ (z.ship = none → y = z) := by
  intro u
  have hfloor := ((State.FloorMoves.refl v).syncHold l).triggerPass
  have hw : ((v.syncHold l).triggerPass).lot l = some z := (hfloor.lot l).trans hz
  obtain ⟨hnotice, hlots⟩ := State.notice_moves ((v.syncHold l).triggerPass) l
  obtain ⟨hformer, hlot⟩ := State.examineFormer_moves (((v.syncHold l).triggerPass).notice l) l x
  have hall := hnotice.trans hformer
  obtain ⟨y, hy, hbody⟩ := hlots.some hw
  refine ⟨hall.hm.trans hfloor.hm, ?_, fun e => ⟨hall.insertion e, hall.cell e⟩, hall.queue.trans ?_, y, hlot.trans hy,
    hbody, fun h => ?_⟩
  · rw [hall.de]
    rfl
  · rw [hfloor.lm]
  · rw [State.notice_none hw h, hw] at hy
    exact (Option.some.inj hy).symm

theorem State.Closed.queue {u : State} {n : Nat} (h : s.Closed t l x n z) (hq : u.lm.queue = t.lm.queue) :
    s.Closed u l x n z :=
  { h with
    leaves := fun e e' => hq.trans (h.leaves e e')
    stays := fun e e' => ⟨hq.trans (h.stays e e').1, (h.stays e e').2⟩ }

/-- What a downgrade leaves of the lot `x`, `y` being its record afterwards (R115). -/
structure State.Downgraded (s : State) (l : LotSlot) (x : Lot) (u : State) (y : Lot) : Prop where
  lot : u.lot l = some y
  holds : u.hm.holds = s.hm.holds.filter fun g => g.id ∉ x.holds
  deviation : y.deviation = true
  quarantined : y.quarantined = false
  pass : u.de.passPending = true
  ship : ∀ n o, x.ship = some n → s.ship n = some o → o.state = .opened → o.kind = .normal → y.ship = none
  elsewhere : ∀ e, s.insertionOf l ≠ some e → u.insertion e = s.insertion e ∧ u.cell e = s.cell e
  freed : (∀ h ∈ x.holds, ∃ g, s.hold? h = some g ∧ g.lot = l) → y.holds = [] ∧
    ∀ c i, s.insertionOf l = some c → s.insertion c = some i → i.Withdrawn (s.cell c) (u.insertion c) (u.cell c)
  spent : x.ship = none → 1 ≤ x.current → x.current ≤ x.steps.length → (x.step x.current).Spent →
    s.Closed u l x ((x.step x.current).loss + (x.step x.current).remainder) y
  accounted : x.ship = none → 1 ≤ x.current → x.current ≤ x.steps.length → ¬ (x.step x.current).Spent → x.Accounted →
    s.Closed u l x (x.step x.current).loss y
  neither : x.ship = none → 1 ≤ x.current → x.current ≤ x.steps.length → ¬ (x.step x.current).Spent → ¬ x.Accounted →
    y.state = x.state ∧ y.steps = x.steps ∧ u.lm.queue = s.lm.queue

theorem State.downgrade_downgraded (hx : s.lot l = some x) : ∃ y, s.Downgraded l x (s.downgrade l) y := by
  obtain ⟨v, z, hv, hz, hholds, hfloor, hzholds, hzq, hzdev, hship, hclose⟩ := State.downgrade_closed hx
  obtain ⟨hm, hpass, hcells, hqueue, y, hy, hbody, hsame⟩ := State.downgrade_end hz x
  rw [← hv] at hm hpass hcells hqueue hy
  have hof : v.insertionOf l = s.insertionOf l := State.insertionOf_congr (fun e => (hfloor e).1) l
  have hyholds : y.holds = z.holds := (congrArg Lot.holds hbody :)
  refine ⟨y, hy, by rw [hm, hholds], (congrArg Lot.deviation hbody :).trans hzdev,
    (congrArg Lot.quarantined hbody :).trans hzq, hpass,
    fun n o hn ho h1 h2 => (congrArg Lot.ship hbody :).trans (hship n o hn ho h1 h2), fun e he => ?_, fun hall => ?_,
    fun h h1 h2 he => ?_, fun h h1 h2 he ha => ?_, fun h h1 h2 he ha => ?_⟩
  · obtain ⟨hi, hc⟩ := State.syncHold_elsewhere (by rw [hof]; exact he)
    exact ⟨(hcells e).1.trans (hi.trans (hfloor e).1), (hcells e).2.trans (hc.trans (hfloor e).2)⟩
  · have hempty : z.holds = [] := hzholds.trans (State.freedLot_holds hall)
    refine ⟨hyholds.trans hempty, fun c i hc hi => ?_⟩
    rw [(hcells c).1, (hcells c).2, State.syncHold_withdraw hz hempty hzq (hof.trans hc), ← (hfloor c).2]
    exact State.withdrawHold_withdrawn ((hfloor c).1.trans hi)
  · obtain ⟨hown, hsteps⟩ := hclose h
    rw [hsame hown]
    exact ((hsteps h1 h2).1 he).queue hqueue
  · obtain ⟨hown, hsteps⟩ := hclose h
    rw [hsame hown]
    exact ((hsteps h1 h2).2.1 he ha).queue hqueue
  · obtain ⟨hown, hsteps⟩ := hclose h
    obtain ⟨hstate, hkept, hstays⟩ := (hsteps h1 h2).2.2 he ha
    rw [hsame hown]
    exact ⟨hstate, hkept, hqueue.trans hstays⟩

/-! ## The order (R115) -/

/-- DISPOSE_LOT of a lot that is not quarantined. -/
theorem actDisposeLot_free {k : Disposition} (hd : Disposition.ofLotCode? d.toNat = some k) (e : lot.toNat = l.val)
    (hx : s.lot l = some x) (hq : x.quarantined = false) : actDisposeLot lot d s = refuseWith .wrongState 0 s := by
  unfold actDisposeLot
  rw [hd, ofIndex_val l e]
  dsimp only
  rw [hx]
  exact if_pos (by simp [hq])

/-- DISPOSE_LOT of a quarantined lot, by its first OPEN hold. -/
theorem actDisposeLot_of {k : Disposition} (hd : Disposition.ofLotCode? d.toNat = some k) (e : lot.toNat = l.val)
    (hx : s.lot l = some x) (hq : x.quarantined = true) :
    (∀ h, (s.holdsOf x).find? (fun h => h.state = .opened) = some h →
      actDisposeLot lot d s = refuseWith .wrongState h.id s) ∧
    ((s.holdsOf x).find? (fun h => h.state = .opened) = none →
      actDisposeLot lot d s = (if k = .scrap then s.scrap l else s.downgrade l, Answer.withDetail .done 0)) := by
  unfold actDisposeLot
  rw [hd, ofIndex_val l e]
  dsimp only
  rw [hx]
  dsimp only
  rw [if_neg (by simp [hq])]
  exact ⟨fun h hf => by rw [hf], fun hf => by rw [hf]⟩

/-- The two codes of a lot's disposition. -/
theorem Disposition.ofLotCode_of (h : d.toNat ≤ 1) : ∃ k, Disposition.ofLotCode? d.toNat = some k := by
  rcases Nat.le_one_iff_eq_zero_or_eq_one.mp h with e | e <;> rw [e] <;> exact ⟨_, rfl⟩

theorem Disposition.ofLotCode_above {n : Nat} (h : 1 < n) : Disposition.ofLotCode? n = none := by
  unfold Disposition.ofLotCode?
  split
  case h_3 => rfl
  all_goals omega

/-- An order whose owner's action is not refused is answered DONE with detail 0. -/
theorem answers_disposeLot {u : State} (ht : s.Takes slot)
    (hu : actDisposeLot lot d (s.takeSlot slot) = (u, Answer.withDetail .done 0)) :
    Answers (.disposeLot slot lot d) slot s .done (some 0) [] u := by
  have hc := (Acts.disposeLot lot d (s.takeSlot slot)).toCore
  rw [hu] at hc
  exact answers_acted rfl ht hu hc (.refl u) (Nat.zero_le _)

/-! The floor is the same whether the slot is taken before or after. -/

@[simp] theorem State.takeSlot_insertionOf (s : State) (slot : BoardSlot) (l : LotSlot) :
    (s.takeSlot slot).insertionOf l = s.insertionOf l := State.insertionOf_congr (s.takeSlot_insertion slot) l

@[simp] theorem State.takeSlot_hold (s : State) (slot : BoardSlot) (k : Nat) : (s.takeSlot slot).hold? k = s.hold? k := by
  simp [State.hold?]

@[simp] theorem State.takeSlot_holdsOf (s : State) (slot : BoardSlot) (x : Lot) :
    (s.takeSlot slot).holdsOf x = s.holdsOf x := by simp [State.holdsOf]

theorem State.Scrapped.of_takeSlot {u : State} (h : (s.takeSlot slot).Scrapped l x u) : s.Scrapped l x u := by
  obtain ⟨h1, h2, h3, h4, h5, h6⟩ := h
  simp only [State.takeSlot_hm, State.takeSlot_ship, State.takeSlot_hold, State.takeSlot_lm, State.takeSlot_insertionOf,
    State.takeSlot_insertion] at h1 h2 h3 h4 h5
  exact ⟨h1, h2, h3, h4, h5, h6⟩

theorem State.Closed.of_takeSlot {u : State} {n : Nat} (h : (s.takeSlot slot).Closed u l x n z) : s.Closed u l x n z := by
  obtain ⟨h1, h2, h3, h4, h5, h6⟩ := h
  rw [State.takeSlot_lm] at h2 h3 h4 h5 h6
  exact ⟨h1, h2, h3, h4, h5, h6⟩

theorem State.Downgraded.of_takeSlot {u : State} (h : (s.takeSlot slot).Downgraded l x u y) : s.Downgraded l x u y := by
  obtain ⟨hlot, hholds, hdev, hq, hpass, hship, helse, hfreed, hspent, haccounted, hneither⟩ := h
  simp only [State.takeSlot_hm, State.takeSlot_ship, State.takeSlot_hold, State.takeSlot_lm, State.takeSlot_insertionOf,
    State.takeSlot_insertion, State.takeSlot_cell] at hholds hship helse hfreed hneither
  exact ⟨hlot, hholds, hdev, hq, hpass, hship, helse, hfreed, fun h h1 h2 he => (hspent h h1 h2 he).of_takeSlot,
    fun h h1 h2 he ha => (haccounted h h1 h2 he ha).of_takeSlot, hneither⟩

theorem State.takeSlot_derived (h : s.CellStatesDerived) : (s.takeSlot slot).CellStatesDerived :=
  State.CellsStand.derived ⟨s.takeSlot_cells slot, s.takeSlot_insertions slot, s.takeSlot_ports slot, by rw [State.takeSlot_de],
    by rw [State.takeSlot_lm], s.takeSlot_ft slot⟩ h

/-- Settles O48. -/
theorem disposeLotScrapsOrDowngrades : Obligations.DisposeLotScrapsOrDowngrades := by
  unfold Obligations.DisposeLotScrapsOrDowngrades
  intro s slot lot d ht
  refine ⟨fun hd => ?_, fun hd hl => ?_, fun l x hd e hx => ?_⟩
  · refine answers_refuseWith rfl ht ?_
    unfold actDisposeLot
    rw [Disposition.ofLotCode_above hd]
  · obtain ⟨k, hk⟩ := Disposition.ofLotCode_of hd
    refine answers_refuseWith rfl ht ?_
    unfold actDisposeLot
    rw [hk]
    rcases hl with h | ⟨l, e, hl⟩
    · rw [ofIndex_outside h]
    · rw [ofIndex_val l e]
      dsimp only
      rw [State.takeSlot_lot, hl]
  · obtain ⟨k, hk⟩ := Disposition.ofLotCode_of hd
    have hx' : (s.takeSlot slot).lot l = some x := (s.takeSlot_lot slot l).trans hx
    refine ⟨fun hq => ?_, fun hq before h after hs ho hb => ?_, fun hq hnone => ?_⟩
    · exact answers_refuseWith rfl ht (actDisposeLot_free hk e hx' hq)
    · have hfind : (s.holdsOf x).find? (fun h => h.state = .opened) = some h :=
        List.find?_eq_some_iff_append.mpr ⟨by simpa using ho, before, after, hs, by simpa using hb⟩
      exact answers_refuseWith rfl ht ((actDisposeLot_of hk e hx' hq).1 h (by rw [State.takeSlot_holdsOf, hfind]))
    · have hfind : (s.holdsOf x).find? (fun h => h.state = .opened) = none :=
        List.find?_eq_none.mpr fun g hg => by simpa using hnone g hg
      have hact (k : Disposition) (hk : Disposition.ofLotCode? d.toNat = some k) :=
        (actDisposeLot_of hk e hx' hq).2 (by rw [State.takeSlot_holdsOf, hfind])
      refine ⟨fun h0 hderived => ?_, fun h1 => ?_⟩
      · subst h0
        exact ⟨_, answers_disposeLot ht (hact .scrap rfl),
          (State.scrap_scrapped hx' (State.takeSlot_derived hderived)).of_takeSlot⟩
      · subst h1
        obtain ⟨y, h⟩ := State.downgrade_downgraded hx'
        replace h := h.of_takeSlot
        refine ⟨_, y, answers_disposeLot ht (hact .downgrade rfl), h.lot, h.holds, h.deviation, h.quarantined, h.pass,
          h.ship, h.elsewhere, fun _ hall => ⟨(h.freed hall).1, fun c i hc hi => ?_⟩, fun hnone h1 h2 => ?_⟩
        · have k := (h.freed hall).2 c i hc hi
          exact ⟨k.stands, k.go, k.halt, k.quiet⟩
        · intro st exhausted accounted grades
          have hspent := h.spent hnone h1 h2
          have haccounted := h.accounted hnone h1 h2
          refine ⟨fun he => (congrArg LotStep.loss (hspent he).step :),
            fun he ha => (congrArg LotStep.loss (haccounted he ha).step :), fun hor => ?_, h.neither hnone h1 h2⟩
          obtain ⟨n, hclosed⟩ : ∃ n, s.Closed _ l x n y := by
            by_cases he : (x.step x.current).Spent
            · exact ⟨_, hspent he⟩
            · exact ⟨_, haccounted he (hor.resolve_left he)⟩
          refine ⟨?_, hclosed.empties, hclosed.completes, hclosed.advances, hclosed.leaves, hclosed.stays⟩
          rw [(congrArg LotStep.loss hclosed.step :)]
          exact hclosed.step

end Sys2Proof.Machine
end

section
/-! SUPPORT. The derivation of a cell's state, with what the cell enters by it (R32, R33). -/

namespace Sys2Proof.Machine

variable {s t u : State} {c : CellNo} {f g : Cell → Cell} {new : CellState} {cause : CellCause}

/-! ## Cell records changed -/

theorem State.cell_modCell_same (s : State) (c : CellNo) (f : Cell → Cell) : (s.modCell c f).cell c = f (s.cell c) :=
  (State.cell_modCell s c c f).trans (if_pos rfl)

theorem State.modCell_congr (h : f (s.cell c) = g (s.cell c)) : s.modCell c f = s.modCell c g := by
  unfold State.modCell
  rw [h]

theorem State.modCell_self (h : f (s.cell c) = s.cell c) : s.modCell c f = s := by
  unfold State.modCell
  rw [h]
  simp [State.cell]

/-! ## The rows of Table 2-4 -/

/-- The cell is heard at a tap address inside the window of its port: none of DETACHED, PARKED and SILENT (Table 2-4). -/
def State.Linked (s : State) (c : CellNo) : Prop :=
  (s.cell c).heard = true ∧ ∃ m, (s.cell c).mapping = some m ∧ (s.port m.port).inWindow m.tap = true

/-- The state of a linked cell whose identity is accepted: the rows below MISMATCH (Table 2-4). -/
def State.standing (s : State) (c : CellNo) : CellState :=
  if (s.insertion c).isSome then .busy else if (s.reservationOf c).isSome then .reserved
  else if (s.cell c).service then .idle else .outOfService

theorem State.derivedState_linked (h : s.Linked c) :
    s.derivedState c = if (s.cell c).mismatched then .mismatch else s.standing c := by
  obtain ⟨hh, m, hm, hw⟩ := h
  unfold State.derivedState State.standing
  dsimp only
  rw [hm, hh]
  dsimp only
  rw [hw]
  cases (s.cell c).service <;> rfl

theorem State.derivedState_unlinked (h : ¬ s.Linked c) :
    s.derivedState c = .detached ∨ s.derivedState c = .parked ∨ s.derivedState c = .silent := by
  unfold State.derivedState
  dsimp only
  cases hm : (s.cell c).mapping with
  | none => exact .inl rfl
  | some m =>
    dsimp only
    cases hw : (s.port m.port).inWindow m.tap with
    | false => exact .inr (.inl rfl)
    | true =>
      cases hh : (s.cell c).heard with
      | false => exact .inr (.inr rfl)
      | true => exact absurd ⟨hh, m, hm, hw⟩ h

/-- A cell in one of the states from MISMATCH on is linked. -/
theorem State.linked_of_derived (h1 : s.derivedState c ≠ .detached) (h2 : s.derivedState c ≠ .parked)
    (h3 : s.derivedState c ≠ .silent) : s.Linked c := by
  by_contra h
  rcases State.derivedState_unlinked h with e | e | e
  · exact h1 e
  · exact h2 e
  · exact h3 e

/-- Whether a cell is linked depends on its mapping, its heard flag and the ports alone. -/
theorem State.Linked.congr (h : s.Linked c) (hh : (t.cell c).heard = (s.cell c).heard)
    (hm : (t.cell c).mapping = (s.cell c).mapping) (hp : t.ports = s.ports) : t.Linked c := by
  obtain ⟨h1, m, h2, h3⟩ := h
  refine ⟨hh.trans h1, m, hm.trans h2, ?_⟩
  rw [State.port, hp]
  exact h3

/-- The state of a cell that is not linked depends on the same alone. -/
theorem State.derivedState_congr_unlinked (h : ¬ s.Linked c) (hh : (t.cell c).heard = (s.cell c).heard)
    (hm : (t.cell c).mapping = (s.cell c).mapping) (hp : t.ports = s.ports) : t.derivedState c = s.derivedState c := by
  have hport (p : PortNo) : t.port p = s.port p := by rw [State.port, hp]; rfl
  unfold State.derivedState
  dsimp only
  rw [hh, hm]
  cases hmap : (s.cell c).mapping with
  | none => rfl
  | some m =>
    dsimp only
    rw [hport]
    cases hw : (s.port m.port).inWindow m.tap with
    | false => rfl
    | true =>
      cases hheard : (s.cell c).heard with
      | false => rfl
      | true => exact absurd ⟨hheard, m, hmap, hw⟩ h

/-- A change of cell record that keeps the mapping and the heard flag keeps the cell linked. -/
theorem State.linked_modCell (hh : (f (s.cell c)).heard = (s.cell c).heard)
    (hm : (f (s.cell c)).mapping = (s.cell c).mapping) : (s.modCell c f).Linked c ↔ s.Linked c := by
  have hc := s.cell_modCell_same c f
  exact ⟨fun h => h.congr (by rw [hc, hh]) (by rw [hc, hm]) rfl, fun h => h.congr (by rw [hc, hh]) (by rw [hc, hm]) rfl⟩

theorem State.standing_calm (s : State) (c : CellNo) :
    s.standing c ≠ .parked ∧ s.standing c ≠ .silent ∧ s.standing c ≠ .mismatch := by
  unfold State.standing
  split
  · simp
  · split
    · simp
    · split <;> simp

theorem State.standing_modCell (h : (f (s.cell c)).service = (s.cell c).service) :
    (s.modCell c f).standing c = s.standing c := by
  unfold State.standing
  rw [State.cell_modCell_same, h]
  rfl

/-- Where an insertion stands, neither the service flag nor a reservation is seen. -/
theorem State.derivedState_occupied (hs : (s.insertion c).isSome) (ht : (t.insertion c).isSome)
    (hh : (t.cell c).heard = (s.cell c).heard) (hm : (t.cell c).mapping = (s.cell c).mapping)
    (hi : (t.cell c).mismatched = (s.cell c).mismatched) (hp : t.ports = s.ports) :
    t.derivedState c = s.derivedState c := by
  by_cases h : s.Linked c
  · rw [State.derivedState_linked h, State.derivedState_linked (h.congr hh hm hp), hi, State.standing, State.standing,
      if_pos hs, if_pos ht]
  · exact State.derivedState_congr_unlinked h hh hm hp

/-! ## What a cell enters (Table 2-6) -/

theorem State.suspend_vacant (h : s.insertion c = none) : s.suspend c = s := by
  unfold State.suspend
  rw [h]

theorem State.cancelFor_none (h : s.reservationOf c = none) (cause : CancelCause) : s.cancelFor c cause = s := by
  unfold State.cancelFor
  rw [h]

/-- A state other than PARKED, SILENT and MISMATCH concerns neither insertion nor reservation. -/
theorem State.enterCellState_calm (h1 : new ≠ .parked) (h2 : new ≠ .silent) (h3 : new ≠ .mismatch) :
    s.enterCellState c new = if new = .idle then s.triggerPass else s := by
  cases new with
  | parked => exact absurd rfl h1
  | silent => exact absurd rfl h2
  | mismatch => exact absurd rfl h3
  | _ => rfl

/-- Without insertion and reservation there is nothing to suspend and nothing to cancel. -/
theorem State.enterCellState_vacant (hi : s.insertion c = none) (hr : s.reservationOf c = none)
    (hs : new = .parked → (s.cell c).silence = 0) :
    s.enterCellState c new = if new = .idle then s.triggerPass else s := by
  cases new with
  | parked =>
    have hself : s.modCell c (fun x => { x with silence := 0 }) = s := State.modCell_self (by rw [← hs rfl])
    show (s.modCell c fun x => { x with silence := 0 }).suspend c = s
    rw [hself, State.suspend_vacant hi]
  | silent => exact (congrArg (State.cancelFor c .silent) (State.suspend_vacant hi)).trans (State.cancelFor_none hr _)
  | mismatch => exact (congrArg (State.cancelFor c .mismatch) (State.suspend_vacant hi)).trans (State.cancelFor_none hr _)
  | _ => rfl

/-! ## The derivation (R32, R33) -/

theorem State.deriveCell_same (h : s.derivedState c = (s.cell c).state) (cause : CellCause) : s.deriveCell c cause = s :=
  if_pos h

/-- A cell record changed with its state, which is recorded when it is another (R33). -/
def State.writeCell (c : CellNo) (f : Cell → Cell) (new : CellState) (cause : CellCause) (s : State) : State :=
  let u := s.modCell c fun x => { f x with state := new }
  if new = (s.cell c).state then u else u.report (.cellState c (s.cell c).state new cause)

/-- The same for a state that concerns neither insertion nor reservation; entry into IDLE is a pass trigger (R122). -/
def State.recordCell (c : CellNo) (f : Cell → Cell) (new : CellState) (cause : CellCause) (s : State) : State :=
  let v := s.writeCell c f new cause
  if new = .idle ∧ (s.cell c).state ≠ .idle then v.triggerPass else v

theorem State.SameFloor.cell (h : u.SameFloor t) (c : CellNo) : t.cell c = u.cell c := by
  rw [State.cell, h.cells]
  rfl

theorem State.SameFloor.writeCell (h : u.SameFloor t) (c : CellNo) (f : Cell → Cell) (new : CellState) (cause : CellCause) :
    (u.writeCell c f new cause).SameFloor (t.writeCell c f new cause) := by
  unfold State.writeCell
  rw [h.cell]
  dsimp only
  split
  · exact h.modCell c _
  · exact (h.modCell c _).report _

theorem State.SameFloor.recordCell (h : u.SameFloor t) (c : CellNo) (f : Cell → Cell) (new : CellState) (cause : CellCause) :
    (u.recordCell c f new cause).SameFloor (t.recordCell c f new cause) := by
  unfold State.recordCell
  rw [h.cell]
  dsimp only
  split
  · exact (h.writeCell c f new cause).triggerPass
  · exact h.writeCell c f new cause

theorem State.recordCell_changed (h : new ≠ (s.cell c).state) (f : Cell → Cell) (cause : CellCause) :
    s.recordCell c f new cause =
      let v := (s.modCell c fun x => { f x with state := new }).report (.cellState c (s.cell c).state new cause)
      if new = .idle then v.triggerPass else v := by
  have hidle : (new = .idle ∧ (s.cell c).state ≠ .idle) ↔ new = .idle :=
    ⟨fun k => k.1, fun k => ⟨k, fun k' => h (k.trans k'.symm)⟩⟩
  unfold State.recordCell State.writeCell
  dsimp only
  rw [if_neg h]
  simp only [hidle]

/-- Entry into another state than IDLE calls for no pass. -/
theorem State.recordCell_of_ne_idle (h : new ≠ .idle) (s : State) (c : CellNo) (f : Cell → Cell) (cause : CellCause) :
    s.recordCell c f new cause =
      if (s.cell c).state = new then s.modCell c fun x => { f x with state := new }
      else (s.modCell c fun x => { f x with state := new }).report (.cellState c (s.cell c).state new cause) := by
  unfold State.recordCell
  refine (if_neg fun k => h k.1).trans ?_
  unfold State.writeCell
  by_cases e : (s.cell c).state = new
  · rw [if_pos e]
    exact if_pos e.symm
  · rw [if_neg e]
    exact if_neg (Ne.symm e)

/-- A derivation after a change of the cell record: the record with its new state, and what the cell enters when it is
another. -/
theorem State.deriveCell_modCell (hs : (f (s.cell c)).state = (s.cell c).state)
    (hd : (s.modCell c f).derivedState c = new) (cause : CellCause) :
    (s.modCell c f).deriveCell c cause =
      if new = (s.cell c).state then s.writeCell c f new cause else (s.writeCell c f new cause).enterCellState c new := by
  have hcell := s.cell_modCell_same c f
  unfold State.deriveCell State.writeCell
  dsimp only
  rw [hd, hcell, hs]
  by_cases e : new = (s.cell c).state
  · rw [if_pos e, if_pos e, if_pos e]
    exact State.modCell_congr (by rw [e, ← hs])
  · rw [if_neg e, if_neg e, if_neg e, modCell_modCell]

/-- The derivation of a state that concerns neither insertion nor reservation. -/
theorem State.deriveCell_calm (hs : (f (s.cell c)).state = (s.cell c).state) (hd : (s.modCell c f).derivedState c = new)
    (he : new = (s.cell c).state ∨ new ≠ .parked ∧ new ≠ .silent ∧ new ≠ .mismatch) (cause : CellCause) :
    (s.modCell c f).deriveCell c cause = s.recordCell c f new cause := by
  rw [State.deriveCell_modCell hs hd]
  unfold State.recordCell
  dsimp only
  by_cases e : new = (s.cell c).state
  · rw [if_pos e, if_neg (fun h => h.2 (e ▸ h.1))]
  · obtain ⟨h1, h2, h3⟩ := he.resolve_left e
    rw [if_neg e, State.enterCellState_calm h1 h2 h3]
    by_cases hidle : new = .idle
    · rw [if_pos hidle, if_pos ⟨hidle, fun k => e (hidle.trans k.symm)⟩]
    · rw [if_neg hidle, if_neg fun h => hidle h.1]

/-- The derivation of a cell without insertion and reservation. -/
theorem State.deriveCell_vacant (hs : (f (s.cell c)).state = (s.cell c).state) (hd : (s.modCell c f).derivedState c = new)
    (hi : s.insertion c = none) (hr : s.reservationOf c = none) (h0 : new = .parked → (f (s.cell c)).silence = 0)
    (cause : CellCause) : (s.modCell c f).deriveCell c cause = s.recordCell c f new cause := by
  have hcell : (s.writeCell c f new cause).cell c = { f (s.cell c) with state := new } := by
    unfold State.writeCell
    dsimp only
    split <;> exact s.cell_modCell_same c fun x => { f x with state := new }
  have hins : (s.writeCell c f new cause).insertion c = none := by
    unfold State.writeCell
    dsimp only
    split <;> exact hi
  have hres : (s.writeCell c f new cause).reservationOf c = none := by
    unfold State.writeCell
    dsimp only
    split <;> exact hr
  rw [State.deriveCell_modCell hs hd]
  unfold State.recordCell
  dsimp only
  by_cases e : new = (s.cell c).state
  · rw [if_pos e, if_neg (fun h => h.2 (e ▸ h.1))]
  · rw [if_neg e, State.enterCellState_vacant hins hres (by rw [hcell]; exact h0)]
    by_cases hidle : new = .idle
    · rw [if_pos hidle, if_pos ⟨hidle, fun k => e (hidle.trans k.symm)⟩]
    · rw [if_neg hidle, if_neg fun h => hidle h.1]

end Sys2Proof.Machine
end

section
/-! SUPPORT. The orders MAP_CELL, UNMAP_CELL and FREEZE (R22, R23, R26, R27). -/

namespace Sys2Proof.Machine

variable {s u : State} {slot : BoardSlot} {c d : CellNo} {m : Mapping} {cell port tap action policy : Byte} {p : PortNo}
variable {new : CellState}

/-! ## MAP_CELL (R22) -/

theorem State.cellTaken_iff : s.cellTaken c = true ↔ s.insertion c ≠ none ∨ s.reservationOf c ≠ none := by
  simp [State.cellTaken, Option.isSome_iff_ne_none]

@[simp] theorem State.takeSlot_cellTaken (s : State) (slot : BoardSlot) (c : CellNo) :
    (s.takeSlot slot).cellTaken c = s.cellTaken c := by simp [State.cellTaken]

@[simp] theorem State.takeSlot_otherAt (s : State) (slot : BoardSlot) (c : CellNo) (m : Mapping) :
    (s.takeSlot slot).otherAt c m = s.otherAt c m := by simp [State.otherAt]

theorem State.otherAt_none (h : ∀ d, d ≠ c → (s.cell d).mapping ≠ some m) : s.otherAt c m = none := by
  refine List.find?_eq_none.mpr fun d _ k => ?_
  obtain ⟨h1, h2⟩ := Bool.and_eq_true_iff.mp k
  exact h d (of_decide_eq_true h1) (of_decide_eq_true h2)

/-- The other cell at a port and tap address, which is the only one there. -/
theorem State.otherAt_unique (hd : d ≠ c) (hm : (s.cell d).mapping = some m)
    (h : ∀ e, e ≠ c → (s.cell e).mapping = some m → e = d) : s.otherAt c m = some d := by
  cases hf : s.otherAt c m with
  | none => exact absurd (by simp [hd, hm]) (List.find?_eq_none.mp hf d (List.mem_finRange d))
  | some e =>
    obtain ⟨h1, h2⟩ := Bool.and_eq_true_iff.mp
      (List.find?_some (p := fun d => d ≠ c && (s.cell d).mapping = some m) (l := allCells) hf)
    rw [h e (of_decide_eq_true h1) (of_decide_eq_true h2)]

/-- MAP_CELL with its three numbers in range. -/
theorem actMapCell_of (hc : cell.toNat = number c) (hp : port.toNat = p.val) (h1 : 1 ≤ tap.toNat) (h2 : tap.toNat ≤ 15)
    (s : State) :
    actMapCell cell port tap s =
      if s.cellTaken c then refuseWith .busy 0 s
      else match s.otherAt c { port := p, tap := tap.toNat } with
      | some d => refuseWith .inUse (number d) s
      | none =>
        ((s.modCell c (Cell.mapTo { port := p, tap := tap.toNat })).deriveCell c .mapping, Answer.withDetail .done 0) := by
  unfold actMapCell
  rw [ofNumber_number c hc, ofIndex_val p hp]
  exact if_neg (by omega)

theorem actMapCell_badArg (h : cell = 0 ∨ 48 < cell.toNat ∨ 4 ≤ port.toNat ∨ tap = 0 ∨ 15 < tap.toNat) (s : State) :
    actMapCell cell port tap s = refuseWith .badArg 0 s := by
  unfold actMapCell
  split
  · next c p hc hp =>
    have hcell := ofNumber_eq_some_iff.mp hc
    have hc48 := c.isLt
    have hc1 : 1 ≤ cell.toNat := by rw [hcell]; simp [number]
    have hport : port.toNat < 4 := by
      by_contra k
      rw [ofIndex_outside (by omega)] at hp
      cases hp
    have hbad : tap = 0 ∨ 15 < tap.toNat := by
      rcases h with rfl | h | h | h
      · simp at hc1
      · simp [number] at hcell; omega
      · omega
      · exact h
    refine if_pos ?_
    rcases hbad with rfl | h
    · exact .inl (by simp)
    · exact .inr h
  · rfl

/-- The state of a cell that MAP_CELL has just mapped: unheard (R22, R32). -/
theorem State.derivedState_mapTo (s : State) (c : CellNo) (m : Mapping) :
    (s.modCell c (Cell.mapTo m)).derivedState c =
      if (s.port m.port).winStart ≤ m.tap ∧ m.tap ≤ (s.port m.port).winStop then .silent else .parked := by
  have hcell := s.cell_modCell_same c (Cell.mapTo m)
  rw [State.derivedState_unheard (by rw [hcell]; rfl), hcell]
  rfl

/-- Settles O22. -/
theorem mapCellTakesTheMapping : Obligations.MapCellTakesTheMapping := by
  unfold Obligations.MapCellTakesTheMapping
  intro s slot cell port tap ht
  refine ⟨fun h => answers_refuseWith rfl ht (actMapCell_badArg h _), fun c p hc hp h1 h2 => ?_⟩
  have hact := actMapCell_of hc hp h1 h2 (s.takeSlot slot)
  rw [State.takeSlot_cellTaken, State.takeSlot_otherAt] at hact
  refine ⟨fun h => ?_, fun hi hr => ?_⟩
  · exact answers_refuseWith rfl ht (hact.trans (if_pos (State.cellTaken_iff.mpr h)))
  have hfree : ¬ s.cellTaken c = true := by
    rw [State.cellTaken_iff]
    simp [hi, hr]
  rw [if_neg hfree] at hact
  refine ⟨fun d hd hm hone => ?_, fun hnone => ?_⟩
  · rw [State.otherAt_unique hd hm hone] at hact
    exact answers_refuseWith rfl ht hact
  · intro new u
    rw [State.otherAt_none hnone] at hact
    have hderived : ((s.takeSlot slot).modCell c (Cell.mapTo { port := p, tap := tap.toNat })).derivedState c = new := by
      rw [State.derivedState_mapTo, State.takeSlot_port]
    have hrecord := State.deriveCell_vacant (s := s.takeSlot slot) rfl hderived (by simpa using hi) (by simpa using hr)
      (fun _ => rfl) .mapping
    have hidle : new ≠ .idle := by
      show (if _ then CellState.silent else .parked) ≠ .idle
      split <;> simp
    have hu := State.recordCell_of_ne_idle hidle s c (Cell.mapTo { port := p, tap := tap.toNat }) .mapping
    have hcore := (Acts.mapCell cell port tap (s.takeSlot slot)).toCore
    rw [hact] at hcore
    refine answers_acted rfl ht hact hcore ?_ (Nat.zero_le _)
    rw [hrecord]
    exact hu ▸ (State.SameFloor.takeSlot s slot).recordCell c _ new .mapping

/-! ## UNMAP_CELL (R23) -/

/-- UNMAP_CELL of a cell number in range. -/
theorem actUnmapCell_of (hc : cell.toNat = number c) (s : State) :
    actUnmapCell cell s =
      if (s.cell c).mapping.isNone then refuse .wrongState s
      else if s.cellTaken c then refuse .busy s
      else doneOrder ((s.modCell c Cell.unmap).deriveCell c .mapping) := by
  unfold actUnmapCell
  rw [ofNumber_number c hc]

/-- Settles O23. -/
theorem unmapCellDetachesTheCell : Obligations.UnmapCellDetachesTheCell := by
  unfold Obligations.UnmapCellDetachesTheCell
  intro s slot cell ht
  refine ⟨fun h => answers_refuse rfl ht (by unfold actUnmapCell; rw [ofNumber_outside h]), fun c hc => ?_⟩
  have hact := actUnmapCell_of hc (s.takeSlot slot)
  rw [State.takeSlot_cell, State.takeSlot_cellTaken] at hact
  refine ⟨fun hm => ?_, fun hm h => ?_, fun hm hi hr => ?_⟩
  · exact answers_refuse rfl ht (hact.trans (if_pos (by simp [hm])))
  · exact answers_refuse rfl ht (hact.trans ((if_neg (by simpa using hm)).trans (if_pos (State.cellTaken_iff.mpr h))))
  · intro u
    have hfree : ¬ s.cellTaken c = true := by
      rw [State.cellTaken_iff]
      simp [hi, hr]
    have hderived : ((s.takeSlot slot).modCell c Cell.unmap).derivedState c = .detached := by
      unfold State.derivedState
      rw [State.cell_modCell_same]
      rfl
    have hrecord := State.deriveCell_vacant (s := s.takeSlot slot) rfl hderived (by simpa using hi) (by simpa using hr)
      (fun _ => rfl) .mapping
    have hu := State.recordCell_of_ne_idle (new := .detached) (by simp) s c Cell.unmap .mapping
    refine answers_done rfl ht (hact.trans ((if_neg (by simpa using hm)).trans (if_neg hfree)))
      (Acts.unmapCell cell _).toCore ?_
    rw [hrecord]
    exact hu ▸ (State.SameFloor.takeSlot s slot).recordCell c _ .detached .mapping

/-! ## FREEZE (R26, R27) -/

/-- A cell record with its frozen identity replaced (R26). -/
def Cell.freezeTo (o : Option FrozenIdentity) (x : Cell) : Cell := { x with freeze := o.isSome, frozen := o }

/-- A cell frozen to the identity that it reports, or not frozen, does not mismatch (R27). -/
theorem Cell.freezeTo_matches {x : Cell} {o : Option FrozenIdentity} (h : o = none ∨ o = x.reported.map Identity.compared) :
    (x.freezeTo o).mismatched = false := by
  rcases h with rfl | rfl
  · rfl
  · simp [Cell.mismatched, Cell.freezeTo]

/-- FREEZE ON of a mapped cell that reports an identity. -/
theorem actFreeze_on (hc : cell.toNat = number c) (s : State) :
    actFreeze cell 0 s =
      if (s.cell c).mapping.isNone ∨ (s.cell c).reported.isNone then refuse .wrongState s
      else doneOrder
        ((s.modCell c fun x => { x with freeze := true, frozen := x.reported.map Identity.compared }).deriveFrozen c) := by
  unfold actFreeze
  rw [ofNumber_number c hc]
  rfl

theorem actFreeze_off (hc : cell.toNat = number c) (s : State) :
    actFreeze cell 1 s = doneOrder ((s.modCell c (Cell.freezeTo none)).deriveFrozen c) := by
  unfold actFreeze
  rw [ofNumber_number c hc]
  rfl

theorem onOff_above {n : Nat} (h : 1 < n) : onOff? n = none := by
  unfold onOff?
  split
  case h_3 => rfl
  all_goals omega

theorem actFreeze_badArg (h : cell = 0 ∨ 48 < cell.toNat ∨ 1 < action.toNat) (s : State) :
    actFreeze cell action s = refuse .badArg s := by
  have hnone : ofNumber? 48 cell.toNat = none ∨ onOff? action.toNat = none := by
    rcases h with h | h | h
    · exact .inl (ofNumber_outside (.inl h))
    · exact .inl (ofNumber_outside (.inr h))
    · exact .inr (onOff_above h)
  unfold actFreeze
  split
  · next h1 h2 => simp [h1, h2] at hnone
  · next h1 h2 => simp [h1, h2] at hnone
  · rfl

/-- A SUSPENDED insertion gets resync pending (R82). -/
def Insertion.awaitResync (i : Insertion) : Insertion := if i.state = .suspended then { i with resyncPending := true } else i

/-- A cell that was not in MISMATCH keeps its state through FREEZE. -/
theorem State.deriveFrozen_stays {o : Option FrozenIdentity} (hd : (s.cell c).state = s.derivedState c)
    (ho : ((s.cell c).freezeTo o).mismatched = false) (h : (s.cell c).state ≠ .mismatch) :
    (s.modCell c (Cell.freezeTo o)).deriveFrozen c = s.modCell c (Cell.freezeTo o) := by
  have hcell := s.cell_modCell_same c (Cell.freezeTo o)
  have hsame : (s.modCell c (Cell.freezeTo o)).derivedState c = ((s.modCell c (Cell.freezeTo o)).cell c).state := by
    rw [hcell]
    refine Eq.trans ?_ hd.symm
    by_cases hl : s.Linked c
    · rw [hd, State.derivedState_linked hl] at h
      have hm : (s.cell c).mismatched = false := by
        by_contra k
        exact h (if_pos (by simpa using k))
      rw [State.derivedState_linked ((State.linked_modCell (f := Cell.freezeTo o) rfl rfl).mpr hl),
        State.derivedState_linked hl, hcell, ho, hm]
      exact State.standing_modCell rfl
    · exact State.derivedState_congr_unlinked hl (by rw [hcell]; rfl) (by rw [hcell]; rfl) rfl
  unfold State.deriveFrozen
  dsimp only
  rw [State.deriveCell_same hsame, hcell]
  exact if_neg fun k => h k.1

/-- FREEZE ends a MISMATCH (R27). -/
theorem State.deriveFrozen_ends {o : Option FrozenIdentity} (hd : (s.cell c).state = s.derivedState c)
    (ho : ((s.cell c).freezeTo o).mismatched = false) (h : (s.cell c).state = .mismatch) :
    (s.modCell c (Cell.freezeTo o)).deriveFrozen c =
      (s.recordCell c (Cell.freezeTo o) (s.standing c) .freeze).modInsertion c Insertion.awaitResync := by
  have hcell := s.cell_modCell_same c (Cell.freezeTo o)
  have hlinked : s.Linked c := by
    rw [hd] at h
    exact State.linked_of_derived (by simp [h]) (by simp [h]) (by simp [h])
  have hderived : (s.modCell c (Cell.freezeTo o)).derivedState c = s.standing c := by
    rw [State.derivedState_linked ((State.linked_modCell (f := Cell.freezeTo o) rfl rfl).mpr hlinked), hcell, ho]
    exact State.standing_modCell rfl
  have hstate : ((s.recordCell c (Cell.freezeTo o) (s.standing c) .freeze).cell c).state = s.standing c := by
    unfold State.recordCell State.writeCell
    dsimp only
    rw [apply_ite (fun u : State => (u.cell c).state), State.triggerPass_cell, ite_self,
      apply_ite (fun u : State => (u.cell c).state), State.report_cell, ite_self]
    exact congrArg Cell.state (s.cell_modCell_same c _)
  unfold State.deriveFrozen
  dsimp only
  rw [State.deriveCell_calm rfl hderived (.inr (s.standing_calm c)), hcell, hstate]
  exact if_pos ⟨h, (s.standing_calm c).2.2⟩

/-- FREEZE where it is not refused, by the cell's state. -/
theorem answers_freeze {o : Option FrozenIdentity} (ht : s.Takes slot) (hd : (s.cell c).state = s.derivedState c)
    (ho : ((s.cell c).freezeTo o).mismatched = false)
    (hact : actFreeze cell action (s.takeSlot slot) =
      doneOrder (((s.takeSlot slot).modCell c (Cell.freezeTo o)).deriveFrozen c)) :
    ((s.cell c).state ≠ .mismatch → Answers (.freeze slot cell action) slot s .done none [] (s.modCell c (Cell.freezeTo o))) ∧
    ((s.cell c).state = .mismatch → Answers (.freeze slot cell action) slot s .done none []
      ((s.recordCell c (Cell.freezeTo o) (s.standing c) .freeze).modInsertion c Insertion.awaitResync)) := by
  have hcore := (Acts.freeze cell action (s.takeSlot slot)).toCore
  have hfloor := State.SameFloor.takeSlot s slot
  have hderived : (s.takeSlot slot).derivedState c = s.derivedState c :=
    State.derivedState_congr c (by simp) (by simp) (by simp) (by simp) (by simp) (by simp) (by simp)
  have hstanding : (s.takeSlot slot).standing c = s.standing c := by simp [State.standing]
  refine ⟨fun h => ?_, fun h => ?_⟩
  · rw [State.deriveFrozen_stays (by rw [hderived]; simpa using hd) (by simpa using ho) (by simpa using h)] at hact
    exact answers_done rfl ht hact hcore (hfloor.modCell c _)
  · rw [State.deriveFrozen_ends (by rw [hderived]; simpa using hd) (by simpa using ho) (by simpa using h), hstanding] at hact
    exact answers_done rfl ht hact hcore ((hfloor.recordCell c _ _ .freeze).modInsertion c _)

/-- Settles O24. -/
theorem freezeSetsTheFrozenIdentity : Obligations.FreezeSetsTheFrozenIdentity := by
  unfold Obligations.FreezeSetsTheFrozenIdentity
  intro s slot cell action ht
  refine ⟨fun h => answers_refuse rfl ht (actFreeze_badArg h _), fun c hc => ⟨fun ha h => ?_, ?_⟩⟩
  · subst ha
    exact answers_refuse rfl ht ((actFreeze_on hc _).trans (if_pos (by simpa using h)))
  · intro o ho hd new
    have hact : actFreeze cell action (s.takeSlot slot) =
        doneOrder (((s.takeSlot slot).modCell c (Cell.freezeTo o)).deriveFrozen c) := by
      rcases ho with ⟨rfl, hm, d, hr, rfl⟩ | ⟨rfl, rfl⟩
      · refine (actFreeze_on hc _).trans ((if_neg (by simp [hm, hr])).trans ?_)
        congr 2
        exact State.modCell_congr (by simp [Cell.freezeTo, hr, Identity.compared])
      · exact actFreeze_off hc _
    have hmatch : ((s.cell c).freezeTo o).mismatched = false := by
      refine Cell.freezeTo_matches ?_
      rcases ho with ⟨-, -, d, hr, rfl⟩ | ⟨-, rfl⟩
      · exact .inr (by simp [hr, Identity.compared])
      · exact .inl rfl
    have hnew : s.standing c = new := by
      show State.standing s c = if _ then CellState.busy else _
      unfold State.standing
      cases (s.cell c).service <;> rfl
    obtain ⟨hstays, hends⟩ := answers_freeze ht hd hmatch hact
    refine ⟨hstays, fun h => ?_⟩
    have := hends h
    have hne : new ≠ .mismatch := hnew ▸ (s.standing_calm c).2.2
    rw [hnew, State.recordCell_changed (by rw [h]; exact hne), h] at this
    exact this

end Sys2Proof.Machine
end

section
/-! SUPPORT. What a request on the pause-reason set leaves of the insertion and its cell (R66 to R68); the stop policy and the
service flag of a cell (R28, R29). -/

namespace Sys2Proof.Machine

variable {s t u v : State} {slot : BoardSlot} {c d : CellNo} {i j : Insertion} {z : Cell} {p : PauseSet} {f : PauseSet → PauseSet}

/-! ## A request on the pause-reason set (R66 to R68) -/

/-- The state of an insertion whose pause-reason set has become `p`. -/
def Insertion.askedState (i : Insertion) (z : Cell) (p : PauseSet) : InsState :=
  match i.state with
  | .running => if p.halt.isSome then .pausing else .running
  | .paused => if p.halt.isSome && z.goDesired then .pausing else .paused
  | st => st

/-- The cell of such an insertion: RUNNING on a halt, PAUSING and PAUSED ask for the set's command. -/
def Insertion.askedCell (i : Insertion) (z : Cell) (p : PauseSet) : Cell :=
  match i.state with
  | .running => if p.halt.isSome then z.asking p.command else z
  | .pausing => z.asking p.command
  | .paused => z.asking p.command
  | _ => z

/-- An insertion and its cell after a request that makes `p` of the pause-reason set; the set as it stands asks for nothing. -/
def Insertion.requested (i : Insertion) (z : Cell) (p : PauseSet) : Insertion × Cell :=
  if p = i.pause then (i, z)
  else ({ i with pause := p, sampleVoid := true, state := i.askedState z p }, i.askedCell z p)

theorem Insertion.requested_same (h : p = i.pause) : i.requested z p = (i, z) := if_pos h

theorem Insertion.requested_changed (h : p ≠ i.pause) :
    i.requested z p = ({ i with pause := p, sampleVoid := true, state := i.askedState z p }, i.askedCell z p) := if_neg h

@[simp] theorem Insertion.requested_pause (i : Insertion) (z : Cell) (p : PauseSet) : (i.requested z p).1.pause = p := by
  unfold Insertion.requested
  split
  · next h => exact h.symm
  · rfl

/-- The cell of a request differs in its desired command at most. -/
theorem Insertion.requested_cell (i : Insertion) (z : Cell) (p : PauseSet) :
    ∃ o, (i.requested z p).2 = { z with slot := { z.slot with desired := o } } := by
  have stands : ∃ o, z = { z with slot := { z.slot with desired := o } } := ⟨z.slot.desired, rfl⟩
  have asks (cmd : Command) : ∃ o, z.asking cmd = { z with slot := { z.slot with desired := o } } := ⟨some cmd, rfl⟩
  unfold Insertion.requested Insertion.askedCell
  split
  · exact stands
  · dsimp only
    split
    · split
      · exact asks _
      · exact stands
    · exact asks _
    · exact asks _
    · exact stands

/-- A request leaves the insertion and the cell as `Insertion.requested` says. -/
theorem State.pauseRequest_requested (hi : s.insertion c = some i) (f : PauseSet → PauseSet) :
    (s.pauseRequest c f).insertion c = some (i.requested (s.cell c) (f i.pause)).1 ∧
      (s.pauseRequest c f).cell c = (i.requested (s.cell c) (f i.pause)).2 := by
  rw [pauseRequest_eq hi]
  by_cases h : f i.pause = i.pause
  · rw [if_pos h, Insertion.requested_same h]
    exact ⟨hi, rfl⟩
  · rw [if_neg h, Insertion.requested_changed h]
    have hquiet := State.insertion_modInsertion_same hi fun j => { j with pause := f i.pause, sampleVoid := true }
    have hpaused := State.insertion_modInsertion_same hi fun j => { j with
      pause := f i.pause, sampleVoid := true, state := .pausing }
    unfold Insertion.askedState Insertion.askedCell
    dsimp only
    cases hs : i.state with
    | running =>
      dsimp only
      by_cases hh : (f i.pause).halt.isSome = true
      · rw [if_pos hh, if_pos hh, if_pos hh]
        exact ⟨hpaused, State.cell_asked _ c _⟩
      · rw [if_neg hh, if_neg hh, if_neg hh]
        exact ⟨hquiet.trans (by rw [hs]), rfl⟩
    | pausing => exact ⟨hquiet.trans (by rw [hs]), State.cell_asked _ c _⟩
    | paused =>
      dsimp only
      by_cases hh : ((f i.pause).halt.isSome && (s.cell c).goDesired) = true
      · rw [if_pos hh, if_pos hh]
        exact ⟨hpaused, State.cell_asked _ c _⟩
      · rw [if_neg hh, if_neg hh]
        exact ⟨hquiet.trans (by rw [hs]), State.cell_asked _ c _⟩
    | _ => exact ⟨hquiet.trans (by rw [hs]), rfl⟩

/-- A request changes cells, insertions and records alone. -/
theorem State.pauseRequest_rest (s : State) (c : CellNo) (f : PauseSet → PauseSet) :
    s.pauseRequest c f = { s with
      cells := (s.pauseRequest c f).cells, insertions := (s.pauseRequest c f).insertions, ru := (s.pauseRequest c f).ru } := by
  cases hi : s.insertion c with
  | none =>
    rw [State.pauseRequest_vacant hi]
  | some i =>
    rw [pauseRequest_eq hi]
    split
    · rfl
    · dsimp only
      split
      · split <;> rfl
      · rfl
      · split <;> rfl
      · rfl

/-! ## SET_CELL_SERVICE (R28, R29) -/

/-- A cell record with its stop policy and its service flag set (R28). -/
def Cell.serve (policy : StopPolicy) (on : Bool) (x : Cell) : Cell := ({ x with policy := policy } : Cell).setService on

/-- The state of a cell whose service flag is set or cleared (R28, R32). -/
def CellState.served (old : CellState) (on : Bool) : CellState :=
  if old = .idle ∧ on = false then .outOfService else if old = .outOfService ∧ on = true then .idle else old

theorem CellState.served_eq_or (old : CellState) (on : Bool) :
    old.served on = old ∨ old.served on ≠ .parked ∧ old.served on ≠ .silent ∧ old.served on ≠ .mismatch := by
  unfold CellState.served
  split
  · exact .inr (by simp)
  · split
    · exact .inr (by simp)
    · exact .inl rfl

/-- The service flag decides between the last two rows of Table 2-4 alone. -/
theorem State.derivedState_serve (s : State) (c : CellNo) (policy : StopPolicy) (on : Bool) :
    (s.modCell c (Cell.serve policy on)).derivedState c = (s.derivedState c).served on := by
  have hcell := s.cell_modCell_same c (Cell.serve policy on)
  by_cases hl : s.Linked c
  · rw [State.derivedState_linked ((State.linked_modCell (f := Cell.serve policy on) rfl rfl).mpr hl),
      State.derivedState_linked hl, hcell]
    show (if (s.cell c).mismatched = true then _ else _) = _
    cases (s.cell c).mismatched with
    | true => rfl
    | false =>
      unfold State.standing
      rw [hcell]
      show (if (s.insertion c).isSome = true then CellState.busy else if (s.reservationOf c).isSome = true then .reserved
        else if on = true then .idle else .outOfService) = _
      cases (s.insertion c).isSome with
      | true => rfl
      | false =>
        cases (s.reservationOf c).isSome with
        | true => rfl
        | false => cases on <;> cases (s.cell c).service <;> rfl
  · have hsame : (s.modCell c (Cell.serve policy on)).derivedState c = s.derivedState c :=
      State.derivedState_congr_unlinked hl (by rw [hcell]; rfl) (by rw [hcell]; rfl) rfl
    rw [hsame]
    rcases State.derivedState_unlinked hl with e | e | e <;> rw [e] <;> rfl

theorem State.setPolicy_plain {policy : StopPolicy} (h : s.ft.mode ≠ .lineStop ∨ policy = (s.cell c).policy) :
    s.setPolicy c policy = s.modCell c fun x => { x with policy := policy } := by
  unfold State.setPolicy
  dsimp only
  refine if_neg fun k => ?_
  rcases h with h | h
  · exact h k.1
  · exact k.2 h

/-- A change of stop policy in LINE_STOP is a request on the insertion that it finds on the handler (R29). -/
theorem State.setPolicy_lineStop {policy : StopPolicy} (hm : s.ft.mode = .lineStop) (hp : policy ≠ (s.cell c).policy)
    (hi : s.insertion c = some i) (ht : i.takenBy.onHandler = true) :
    s.setPolicy c policy = (s.modCell c fun x => { x with policy := policy }).pauseRequest c
      fun p => { p with lineStop := policyReason (s.cell c).policy policy p.lineStop } := by
  have hi' : (s.modCell c fun x => { x with policy := policy }).insertion c = some i := hi
  unfold State.setPolicy
  dsimp only
  refine (if_pos ⟨hm, hp⟩).trans ?_
  unfold State.applyPolicy
  rw [hi']
  exact if_pos ht

theorem policyReason_eq (old new : StopPolicy) (reason : Option HaltKind) :
    policyReason old new reason =
      if new = .exempt then none else if old = .exempt ∨ reason ≠ none then new.halt else none := by
  have hexempt : StopPolicy.exempt.halt = none := rfl
  unfold policyReason
  by_cases hn : new = .exempt
  · subst hn
    rw [if_pos rfl, hexempt]
    cases reason <;> simp
  · rw [if_neg hn]
    by_cases ho : old = .exempt
    · rw [if_pos ho, if_pos (.inl ho)]
    · rw [if_neg ho]
      cases reason <;> simp [ho]

theorem StopPolicy.ofCode_code (policy : StopPolicy) : StopPolicy.ofCode? policy.code = some policy := by
  cases policy <;> rfl

theorem StopPolicy.ofCode_above {n : Nat} (h : 2 < n) : StopPolicy.ofCode? n = none := by
  unfold StopPolicy.ofCode?
  split
  case h_4 => rfl
  all_goals omega

theorem onOff_code (on : Bool) : onOff? (if on then 0 else 1) = some on := by cases on <;> rfl

theorem actSetCellService_of {cell action policy : Byte} {p : StopPolicy} {on : Bool} (hc : cell.toNat = number c)
    (hp : policy.toNat = p.code) (ha : action.toNat = if on then 0 else 1) (s : State) :
    actSetCellService cell action policy s =
      doneOrder (((s.setPolicy c p).modCell c (Cell.setService on)).deriveCell c .service) := by
  unfold actSetCellService
  rw [ofNumber_number c hc, hp, ha, onOff_code, StopPolicy.ofCode_code]

theorem actSetCellService_badArg {cell action policy : Byte}
    (h : cell = 0 ∨ 48 < cell.toNat ∨ 1 < action.toNat ∨ 2 < policy.toNat) (s : State) :
    actSetCellService cell action policy s = refuse .badArg s := by
  have hnone : ofNumber? 48 cell.toNat = none ∨ onOff? action.toNat = none ∨ StopPolicy.ofCode? policy.toNat = none := by
    rcases h with h | h | h | h
    · exact .inl (ofNumber_outside (.inl h))
    · exact .inl (ofNumber_outside (.inr h))
    · exact .inr (.inl (onOff_above h))
    · exact .inr (.inr (StopPolicy.ofCode_above h))
  unfold actSetCellService
  split
  · next h1 h2 h3 => simp [h1, h2, h3] at hnone
  · rfl

/-- The cell of an insertion whose policy has changed in LINE_STOP keeps its derived state (R29, R32). -/
theorem State.deriveCell_policy {policy : StopPolicy} {on : Bool} (hd : (s.cell c).state = s.derivedState c)
    (hi : s.insertion c = some i) :
    let w := ((s.modCell c fun x => { x with policy := policy }).pauseRequest c f).modCell c (Cell.setService on)
    w.deriveCell c .service = w ∧ (w.cell c).policy = policy ∧ (w.cell c).service = on ∧
      ∃ j, w.insertion c = some j ∧ j.pause = f i.pause := by
  intro w
  let v := s.modCell c fun x => { x with policy := policy }
  obtain ⟨hins, hcell⟩ := State.pauseRequest_requested (s := v) (c := c) hi f
  obtain ⟨o, ho⟩ := i.requested_cell (v.cell c) (f i.pause)
  have hw : w.cell c = Cell.setService on { s.cell c with
      policy := policy, slot := { (s.cell c).slot with desired := o } } := by
    rw [State.cell_modCell_same, hcell, ho, State.cell_modCell_same]
  have hports : w.ports = s.ports := by
    show (v.pauseRequest c f).ports = _
    rw [State.pauseRequest_rest]
    rfl
  have hderived : w.derivedState c = s.derivedState c :=
    State.derivedState_occupied (by rw [hi]; rfl) (by rw [show w.insertion c = _ from hins]; rfl) (by rw [hw]; rfl)
      (by rw [hw]; rfl) (by rw [hw]; rfl) hports
  refine ⟨State.deriveCell_same (by rw [hderived, ← hd, hw]; rfl) _, by rw [hw]; rfl, by rw [hw]; rfl, _, hins, ?_⟩
  exact i.requested_pause _ _

/-- Settles O25. -/
theorem setCellServiceSetsFlagAndPolicy : Obligations.SetCellServiceSetsFlagAndPolicy := by
  unfold Obligations.SetCellServiceSetsFlagAndPolicy
  intro s slot cell action policy ht
  refine ⟨fun h => answers_refuse rfl ht (actSetCellService_badArg h _), fun c p on hc hp ha hd => ?_⟩
  have hact := actSetCellService_of hc hp ha (s.takeSlot slot)
  have hcore := (Acts.setCellService cell action policy (s.takeSlot slot)).toCore
  have hderived : (s.takeSlot slot).derivedState c = s.derivedState c :=
    State.derivedState_congr c (by simp) (by simp) (by simp) (by simp) (by simp) (by simp) (by simp)
  refine ⟨fun hplain => ?_, fun hm hne i hi htaken => ?_⟩
  · intro old new u v
    have hnew : ((s.takeSlot slot).modCell c (Cell.serve p on)).derivedState c = new := by
      rw [State.derivedState_serve, hderived, ← hd]
      rfl
    have hrecord : ((s.takeSlot slot).modCell c (Cell.serve p on)).deriveCell c .service =
        (s.takeSlot slot).recordCell c (Cell.serve p on) new .service := by
      refine State.deriveCell_calm rfl hnew ?_ .service
      rw [State.takeSlot_cell]
      exact CellState.served_eq_or old on
    rw [State.setPolicy_plain (by simpa using hplain), modCell_modCell] at hact
    exact answers_done rfl ht hact hcore (hrecord ▸ (State.SameFloor.takeSlot s slot).recordCell c (Cell.serve p on) new _)
  · have hi' : (s.takeSlot slot).insertion c = some i := (s.takeSlot_insertion slot c).trans hi
    rw [State.setPolicy_lineStop (by simpa using hm) (by simpa using hne) hi' htaken] at hact
    obtain ⟨hsame, hpolicy, hon, j, hj, hpause⟩ := State.deriveCell_policy (s := s.takeSlot slot) (policy := p) (on := on)
      (f := fun q => { q with lineStop := policyReason ((s.takeSlot slot).cell c).policy p q.lineStop })
      (by rw [hderived]; simpa using hd) hi'
    rw [hsame] at hact
    obtain ⟨t, hexec, -, -, -, hfloor⟩ := answers_done (i := .setCellService slot cell action policy) rfl ht hact hcore (.refl _)
    refine ⟨t, j, hexec, ?_, by rw [hpause], by rw [hpause], ?_, ?_, ?_⟩
    · rw [State.insertion, hfloor.insertions]
      exact hj
    · rw [hpause]
      dsimp only
      rw [policyReason_eq, State.takeSlot_cell]
    · rw [hfloor.cell]
      exact hpolicy
    · rw [hfloor.cell]
      exact hon

end Sys2Proof.Machine
end

section
/-! SUPPORT. The floor modes (R150 to R152): the LINE_STOP reason given to the insertions of the floor, and taken from them. -/

namespace Sys2Proof.Machine

variable {s t u v : State} {slot : BoardSlot} {c d : CellNo} {i j : Insertion} {z : Cell} {p : PauseSet}
variable {g : Cell → Insertion → PauseSet} {cs : List CellNo}

/-! ## Requests on the insertions of several cells -/

/-- Each insertion of the cells `cs` has been asked for the pause-reason set `g` of its cell and itself; the other cells
stand. -/
structure State.Requested (g : Cell → Insertion → PauseSet) (cs : List CellNo) (s t : State) : Prop where
  rest : t = { s with cells := t.cells, insertions := t.insertions, ru := t.ru }
  vacant : ∀ d, s.insertion d = none → t.insertion d = none ∧ t.cell d = s.cell d
  asked : ∀ d i, s.insertion d = some i → d ∈ cs →
    t.insertion d = some (i.requested (s.cell d) (g (s.cell d) i)).1 ∧
      t.cell d = (i.requested (s.cell d) (g (s.cell d) i)).2
  elsewhere : ∀ d, d ∉ cs → t.insertion d = s.insertion d ∧ t.cell d = s.cell d

theorem State.Requested.nil (g : Cell → Insertion → PauseSet) (s : State) : s.Requested g [] s :=
  ⟨rfl, fun _ h => ⟨h, rfl⟩, fun _ _ _ h => by simp at h, fun _ _ => ⟨rfl, rfl⟩⟩

/-- Where every set stays as it is, nothing is asked. -/
theorem State.Requested.refl (h : ∀ z i, g z i = i.pause) (cs : List CellNo) (s : State) : s.Requested g cs s :=
  ⟨rfl, fun _ k => ⟨k, rfl⟩, fun d i k _ => by rw [Insertion.requested_same (h _ i)]; exact ⟨k, rfl⟩, fun _ _ => ⟨rfl, rfl⟩⟩

theorem State.Requested.cons (hc : c ∉ cs) (h : s.Requested g [c] u) (k : u.Requested g cs t) : s.Requested g (c :: cs) t := by
  refine ⟨k.rest.trans (by rw [h.rest]), fun d hd => ?_, fun d i hi hd => ?_, fun d hd => ?_⟩
  · obtain ⟨h1, h2⟩ := h.vacant d hd
    obtain ⟨k1, k2⟩ := k.vacant d h1
    exact ⟨k1, k2.trans h2⟩
  · by_cases e : d = c
    · subst e
      obtain ⟨h1, h2⟩ := h.asked d i hi (by simp)
      obtain ⟨k1, k2⟩ := k.elsewhere d hc
      exact ⟨k1.trans h1, k2.trans h2⟩
    · obtain ⟨h1, h2⟩ := h.elsewhere d (by simpa using e)
      rw [← h2]
      exact k.asked d i (h1.trans hi) (by simpa [e] using hd)
  · rw [List.mem_cons, not_or] at hd
    obtain ⟨h1, h2⟩ := h.elsewhere d (by simpa using hd.1)
    obtain ⟨k1, k2⟩ := k.elsewhere d hd.2
    exact ⟨k1.trans h1, k2.trans h2⟩

theorem State.Requested.foldl {f : State → CellNo → State} (hf : ∀ (s : State) (c : CellNo), s.Requested g [c] (f s c))
    (cs : List CellNo) (hcs : cs.Nodup) : ∀ s : State, s.Requested g cs (cs.foldl f s) := by
  induction cs with
  | nil => exact fun s => .nil g s
  | cons c cs ih =>
    obtain ⟨hc, hcs⟩ := List.nodup_cons.mp hcs
    exact fun s => .cons hc (hf s c) (ih hcs _)

/-- One request is the case of one cell. -/
theorem State.Requested.pauseRequest {f : PauseSet → PauseSet} (h : ∀ i, s.insertion c = some i → f i.pause = g (s.cell c) i) :
    s.Requested g [c] (s.pauseRequest c f) := by
  refine ⟨s.pauseRequest_rest c f, fun d hd => ?_, fun d i hi hd => ?_, fun d hd => ?_⟩
  · by_cases e : d = c
    · subst e
      rw [State.pauseRequest_vacant hd]
      exact ⟨hd, rfl⟩
    · obtain ⟨h1, h2⟩ := State.pauseRequest_elsewhere (s := s) e f
      exact ⟨h1.trans hd, h2⟩
  · obtain rfl := List.mem_singleton.mp hd
    rw [← h i hi]
    exact State.pauseRequest_requested hi f
  · exact State.pauseRequest_elsewhere (fun e => hd (by simp [e])) f

/-! ## The LINE_STOP reason (R150 to R152) -/

/-- The pause-reason set of an insertion on the floor's entry into LINE_STOP (R151). -/
def Insertion.lineStopped (z : Cell) (i : Insertion) : PauseSet :=
  if i.takenBy.onHandler = true ∧ z.policy ≠ .exempt then { i.pause with lineStop := z.policy.halt } else i.pause

/-- The same on the departure from LINE_STOP (R152). -/
def Insertion.lineStarted (_ : Cell) (i : Insertion) : PauseSet := { i.pause with lineStop := none }

/-- The pause-reason set of an insertion on a change of floor mode (R150). -/
def Insertion.inMode (old new : FloorMode) (z : Cell) (i : Insertion) : PauseSet :=
  if old ≠ .lineStop ∧ new = .lineStop then i.lineStopped z
  else if old = .lineStop ∧ new ≠ .lineStop then i.lineStarted z
  else i.pause

theorem State.Requested.applyLineStop (s : State) (c : CellNo) :
    s.Requested (fun z i => i.lineStopped z) [c] (s.applyLineStop c) := by
  unfold State.applyLineStop
  cases hi : s.insertion c with
  | none =>
    refine ⟨rfl, fun d h => ⟨h, rfl⟩, fun d i h hd => ?_, fun d _ => ⟨rfl, rfl⟩⟩
    rw [List.mem_singleton.mp hd, hi] at h
    cases h
  | some i =>
    dsimp only
    by_cases h : i.takenBy.onHandler = true ∧ (s.cell c).policy ≠ .exempt
    · rw [if_pos h]
      refine .pauseRequest fun j hj => ?_
      rw [hi] at hj
      cases hj
      exact (if_pos h).symm
    · rw [if_neg h]
      refine ⟨rfl, fun d k => ⟨k, rfl⟩, fun d j k hd => ?_, fun d _ => ⟨rfl, rfl⟩⟩
      rw [List.mem_singleton.mp hd, hi] at k
      cases k
      have hset : i.lineStopped (s.cell c) = i.pause := if_neg h
      rw [List.mem_singleton.mp hd, hset, Insertion.requested_same rfl]
      exact ⟨hi, rfl⟩

theorem State.Requested.withdrawLineStop (s : State) (c : CellNo) :
    s.Requested (fun z i => i.lineStarted z) [c] (s.withdrawLineStop c) := .pauseRequest fun _ _ => rfl

/-- A change of floor mode asks each insertion for its set in the new mode; a return to RUN calls for a pass. -/
theorem State.changeMode_requested (old new : FloorMode) (s : State) :
    ∃ v, s.changeMode old new = (if old ≠ .run ∧ new = .run then v.triggerPass else v) ∧
      s.Requested (fun z i => i.inMode old new z) allCells v := by
  have hall : allCells.Nodup := List.nodup_finRange 48
  refine ⟨_, rfl, ?_⟩
  unfold Insertion.inMode
  by_cases h1 : old ≠ .lineStop ∧ new = .lineStop
  · simp only [if_pos h1]
    exact .foldl State.Requested.applyLineStop allCells hall s
  · simp only [if_neg h1]
    by_cases h2 : old = .lineStop ∧ new ≠ .lineStop
    · simp only [if_pos h2]
      exact .foldl State.Requested.withdrawLineStop allCells hall s
    · simp only [if_neg h2]
      exact .refl (fun _ _ => rfl) allCells s

theorem FloorMode.ofCode_code (m : FloorMode) : FloorMode.ofCode? m.code = some m := by cases m <;> rfl

theorem FloorMode.ofCode_above {n : Nat} (h : 2 < n) : FloorMode.ofCode? n = none := by
  unfold FloorMode.ofCode?
  split
  case h_4 => rfl
  all_goals omega

/-- SET_FLOOR_MODE of a mode (R150). -/
theorem actSetFloorMode_of {mode : Byte} {m : FloorMode} (h : mode.toNat = m.code) (s : State) :
    actSetFloorMode mode s =
      (({ s with ft := { s.ft with mode := m } } : State).changeMode s.ft.mode m, Answer.withDetail .done s.ft.mode.code) := by
  unfold actSetFloorMode
  rw [h, FloorMode.ofCode_code]

/-- The LINE_STOP halt kind of a policy that is not EXEMPT (Table 2-3). -/
theorem StopPolicy.halt_of_ne_exempt {policy : StopPolicy} (h : policy ≠ .exempt) :
    policy.halt = some (if policy = .immediate then .haltNow else .haltAtIndex) := by
  cases policy with
  | exempt => exact absurd rfl h
  | endOfIndex => rfl
  | immediate => rfl

/-! ## What a changed set does (R67, R68) -/

theorem Cell.goDesired_iff : z.goDesired = true ↔ z.slot.desired = some .go := by simp [Cell.goDesired]


theorem Insertion.requested_running (h : p ≠ i.pause) (hs : i.state = .running) (he : ¬ p.Empty) :
    (i.requested z p).1.state = .pausing ∧ (i.requested z p).2 = z.asking p.halting := by
  obtain ⟨hcmd, hhalt⟩ := command_of_nonempty he
  rw [Insertion.requested_changed h, Insertion.askedState, Insertion.askedCell, hs]
  dsimp only
  rw [if_pos hhalt, if_pos hhalt, hcmd]
  exact ⟨rfl, rfl⟩

theorem Insertion.requested_halting (h : p ≠ i.pause) (hs : i.state = .pausing ∨ i.state = .paused) (he : ¬ p.Empty) :
    (i.requested z p).1.state = (if z.slot.desired = some .go then .pausing else i.state) ∧
      (i.requested z p).2 = z.asking p.halting := by
  obtain ⟨hcmd, hhalt⟩ := command_of_nonempty he
  rw [Insertion.requested_changed h, Insertion.askedState, Insertion.askedCell]
  rcases hs with e | e
  · rw [e, ite_self, ← hcmd]
    exact ⟨rfl, rfl⟩
  · rw [e, ← hcmd, hhalt, Bool.true_and]
    refine ⟨?_, rfl⟩
    by_cases hgo : z.slot.desired = some .go
    · exact (if_pos (Cell.goDesired_iff.mpr hgo)).trans (if_pos hgo).symm
    · exact (if_neg fun k => hgo (Cell.goDesired_iff.mp k)).trans (if_neg hgo).symm

theorem Insertion.requested_resuming (h : p ≠ i.pause) (hs : i.state = .pausing ∨ i.state = .paused) (he : p.Empty) :
    (i.requested z p).1.state = i.state ∧ (i.requested z p).2 = z.asking .go := by
  obtain ⟨hcmd, hhalt⟩ := command_of_empty he
  rw [Insertion.requested_changed h, Insertion.askedState, Insertion.askedCell]
  rcases hs with e | e <;> rw [e] <;> dsimp only
  · rw [hcmd]
    exact ⟨rfl, rfl⟩
  · rw [hcmd, hhalt]
    exact ⟨rfl, rfl⟩

theorem Insertion.requested_quiet (h : p ≠ i.pause) (h1 : i.state ≠ .running) (h2 : i.state ≠ .pausing)
    (h3 : i.state ≠ .paused) : (i.requested z p).1.state = i.state ∧ (i.requested z p).2 = z := by
  rw [Insertion.requested_changed h, Insertion.askedState, Insertion.askedCell]
  cases hs : i.state with
  | running => exact absurd hs h1
  | pausing => exact absurd hs h2
  | paused => exact absurd hs h3
  | _ => exact ⟨rfl, rfl⟩

/-! ## The set of an insertion in the new mode -/

theorem Insertion.inMode_rest (old new : FloorMode) (z : Cell) (i : Insertion) :
    (i.inMode old new z).hold = i.pause.hold ∧ (i.inMode old new z).cellOrder = i.pause.cellOrder := by
  unfold Insertion.inMode Insertion.lineStopped Insertion.lineStarted
  split
  · split <;> exact ⟨rfl, rfl⟩
  · split <;> exact ⟨rfl, rfl⟩

theorem Insertion.inMode_added {old new : FloorMode} (h : old ≠ .lineStop ∧ new = .lineStop)
    (ht : i.takenBy.onHandler = true ∧ z.policy ≠ .exempt) :
    (i.inMode old new z).lineStop = some (if z.policy = .immediate then .haltNow else .haltAtIndex) := by
  rw [Insertion.inMode, if_pos h, Insertion.lineStopped, if_pos ht]
  exact StopPolicy.halt_of_ne_exempt ht.2

theorem Insertion.inMode_withdrawn {old new : FloorMode} (h : old = .lineStop ∧ new ≠ .lineStop) :
    (i.inMode old new z).lineStop = none := by
  rw [Insertion.inMode, if_neg fun k => k.1 h.1, if_pos h, Insertion.lineStarted]

theorem Insertion.inMode_same {old new : FloorMode}
    (h1 : ¬ ((old ≠ .lineStop ∧ new = .lineStop) ∧ i.takenBy.onHandler = true ∧ z.policy ≠ .exempt))
    (h2 : ¬ (old = .lineStop ∧ new ≠ .lineStop)) : i.inMode old new z = i.pause := by
  rw [Insertion.inMode, if_neg h2]
  split
  · next h => exact if_neg fun k => h1 ⟨h, k⟩
  · rfl

/-- Settles O57. -/
theorem setFloorModeStopsTheLine : Obligations.SetFloorModeStopsTheLine := by
  unfold Obligations.SetFloorModeStopsTheLine
  intro s slot mode ht
  refine ⟨fun h => answers_refuse rfl ht (by unfold actSetFloorMode; rw [FloorMode.ofCode_above h]), fun m hm => ?_⟩
  have hact := actSetFloorMode_of hm (s.takeSlot slot)
  have hcore := (Acts.setFloorMode mode (s.takeSlot slot)).toCore
  obtain ⟨v, hv, hreq⟩ := State.changeMode_requested (s.takeSlot slot).ft.mode m
    ({ s.takeSlot slot with ft := { (s.takeSlot slot).ft with mode := m } } : State)
  rw [hv] at hact
  rw [hact] at hcore
  rw [State.takeSlot_ft] at hact hcore
  let called : Bool := s.de.passPending || (m = .run && s.ft.mode ≠ .run)
  let u : State := { s with
    ft := { s.ft with mode := m }, cells := v.cells, insertions := v.insertions, ru := v.ru,
    de := { s.de with passPending := called } }
  have hfloor : u.SameFloor (if s.ft.mode ≠ .run ∧ m = .run then v.triggerPass else v) := by
    rw [hreq.rest]
    split
    · next h =>
      have hcalled : called = true := by simp [called, h.1, h.2]
      exact ⟨by simp [u], rfl, by simp [u], rfl, by simp [u], by simp [u], by simp [u, State.triggerPass, hcalled], by simp [u],
        by simp [u], rfl⟩
    · next h =>
      have hcalled : called = s.de.passPending := by
        by_cases hr : m = .run
        · have : s.ft.mode = .run := by
            by_contra k
            exact h ⟨k, hr⟩
          simp [called, this]
        · simp [called, hr]
      exact ⟨by simp [u], rfl, by simp [u], rfl, by simp [u], by simp [u], by simp [u, hcalled], by simp [u], by simp [u], rfl⟩
  refine ⟨u, answers_acted rfl ht hact hcore hfloor (Nat.zero_le _), rfl, fun c => ⟨fun hi => ?_, fun i hi => ?_⟩⟩
  · obtain ⟨h1, h2⟩ := hreq.vacant c ((s.takeSlot_insertion slot c).trans hi)
    exact ⟨h1, h2.trans (s.takeSlot_cell slot c)⟩
  · intro added withdrawn
    obtain ⟨hins, hcell⟩ := hreq.asked c i ((s.takeSlot_insertion slot c).trans hi) (mem_allCells c)
    have hz : ({ s.takeSlot slot with ft := { (s.takeSlot slot).ft with mode := m } } : State).cell c = s.cell c :=
      s.takeSlot_cell slot c
    rw [hz, State.takeSlot_ft] at hins hcell
    generalize hp : i.inMode s.ft.mode m (s.cell c) = p at hins hcell
    have hpause := i.requested_pause (s.cell c) p
    have hrest := i.inMode_rest s.ft.mode m (s.cell c)
    refine ⟨_, hins, ?_⟩
    rw [hpause, ← hp]
    refine ⟨hrest.1, hrest.2, fun h => Insertion.inMode_added ⟨h.2.1, h.1⟩ h.2.2, fun h => Insertion.inMode_withdrawn ⟨h.2, h.1⟩,
      fun h1 h2 => congrArg _ (Insertion.inMode_same (fun k => h1 ⟨k.1.2, k.1.1, k.2⟩) fun k => h2 ⟨k.2, k.1⟩), fun h => ?_,
      fun h => ?_⟩
    · rw [hp] at h ⊢
      rw [Insertion.requested_same h] at hcell ⊢
      exact ⟨rfl, hcell⟩
    · rw [hp] at h ⊢
      have hrec : (i.requested (s.cell c) p).1 =
          { i with pause := p, sampleVoid := true, state := (i.requested (s.cell c) p).1.state } := by
        rw [Insertion.requested_changed h]
      refine ⟨hrec, fun hs he => ?_, fun hs he => ?_, fun hs he => ?_, fun h1 h2 h3 => ?_⟩
      · exact (Insertion.requested_running h hs he).imp_right hcell.trans
      · exact (Insertion.requested_halting h hs he).imp_right hcell.trans
      · exact (Insertion.requested_resuming h hs he).imp_right hcell.trans
      · exact (Insertion.requested_quiet h h1 h2 h3).imp_right hcell.trans

end Sys2Proof.Machine
end

section
/-! SUPPORT. The timers of an insertion (R63, R65) and the load failures of a cell (R30). -/

namespace Sys2Proof.Machine

variable {s t u : State} {c : CellNo} {i : Insertion} {l : LotSlot} {x : Lot}

/-! ## A pass called for already -/

theorem State.triggerPass_called (h : s.de.passPending = true) : s.triggerPass = s := by
  unfold State.triggerPass
  rw [← h]

theorem State.setLotState_queued_passPending (h : s.lot l = some x) (hs : x.state ≠ .queued) :
    (s.setLotState l .queued).de.passPending = true := by
  rw [State.setLotState_enter h hs]
  rfl

/-- A lot's entry into QUEUED and a change of a cell record do not meet. -/
theorem State.setLotState_modCell (h : s.lot l = some x) (hs : x.state ≠ .queued) (f : Cell → Cell) :
    (s.modCell c f).setLotState l .queued = (s.setLotState l .queued).modCell c f := by
  have h' : (s.modCell c f).lot l = some x := h
  rw [State.setLotState_enter h hs, State.setLotState_enter h' hs]
  rfl

/-! ## The kit and load timers (R65, R30) -/

/-- A cell record after a load failure, without a desired command (R30, R56). -/
def Cell.failed (z : Cell) : Cell := { z with slot := { z.slot with desired := none } }.loadFailed

theorem Cell.failed_eq (z : Cell) :
    z.failed = { z with
      slot := { z.slot with desired := none }
      loadFailures := min (z.loadFailures + 1) 3
      service := z.service && min (z.loadFailures + 1) 3 ≠ 3 } := by
  unfold Cell.failed Cell.loadFailed
  dsimp only
  by_cases h : min (z.loadFailures + 1) 3 = 3
  · simp [Config.loadFailureLimit, h]
  · simp [Config.loadFailureLimit, h]

/-- The state between the end of the insertion with LOAD_FAILED and the derivation of the cell's state (R65). -/
theorem State.abandon_failed (hi : s.insertion c = some i) (hx : s.lot i.lot = some x) (hs : x.state = .inTest)
    (timer : FailedTimer) :
    let n := (s.cell c).failed.loadFailures
    s.abandon c (some timer) = ((((s.setInsertion c none).setLotState i.lot .queued).report
      (.loadFailed c i.lot timer n)).modCell c Cell.failed).deriveCell c (if n = 3 then .loadFailures else .insertion) := by
  intro n
  have hq : x.state ≠ .queued := by simp [hs]
  have hlot : (s.setInsertion c none).lot i.lot = some x := hx
  have hlot' : (s.clearInsertion c).lot i.lot = some x := hx
  have hreturn : (s.clearInsertion c).returnLot i.lot = ((s.setInsertion c none).setLotState i.lot .queued).modCell c
      fun z => { z with slot := { z.slot with desired := none } } :=
    (State.returnLot_of hlot' (by simp [hs])).trans (State.setLotState_modCell hlot hq _)
  have hcell : ((s.setInsertion c none).setLotState i.lot .queued).cell c = s.cell c := by
    rw [State.setLotState_enter hlot hq]
    rfl
  unfold State.abandon
  rw [hi]
  dsimp only
  rw [hreturn, modCell_modCell]
  have hn : ((((s.setInsertion c none).setLotState i.lot .queued).modCell c fun z =>
      Cell.loadFailed { z with slot := { z.slot with desired := none } }).cell c).loadFailures = n := by
    rw [State.cell_modCell_same, hcell]
    rfl
  rw [hn]
  rfl

/-- The end of an insertion by a timer on a BUSY cell (R65, R30). -/
theorem State.abandon_timer (hi : s.insertion c = some i) (hx : s.lot i.lot = some x) (hs : x.state = .inTest)
    (hb : (s.cell c).state = .busy) (hd : s.derivedState c = .busy) (hr : s.reservationOf c = none) (timer : FailedTimer) :
    let z := (s.cell c).failed
    let new : CellState := if z.service then .idle else .outOfService
    s.abandon c (some timer) =
      ((((s.setInsertion c none).modCell c fun y => { y.failed with state := new }).setLotState i.lot .queued).report
        (.loadFailed c i.lot timer z.loadFailures)).report
          (.cellState c .busy new (if z.loadFailures = 3 then .loadFailures else .insertion)) := by
  intro z new
  have hq : x.state ≠ .queued := by simp [hs]
  have hlot : (s.setInsertion c none).lot i.lot = some x := hx
  let v := ((s.setInsertion c none).setLotState i.lot .queued).report (.loadFailed c i.lot timer z.loadFailures)
  have hv : (s.setInsertion c none).setLotState i.lot .queued = (((s.setInsertion c none).requeue i.lot).triggerPass).report
      (.lotState i.lot (some x.state) (some .queued) x.current) := State.setLotState_enter hlot hq
  have hcell : v.cell c = s.cell c := by
    show ((s.setInsertion c none).setLotState i.lot .queued).cell c = _
    rw [hv]
    rfl
  have hafter : (v.modCell c Cell.failed).cell c = z := by rw [State.cell_modCell_same, hcell]
  have hderived : (v.modCell c Cell.failed).derivedState c = new := by
    have hports : (v.modCell c Cell.failed).ports = s.ports := by
      show ((s.setInsertion c none).setLotState i.lot .queued).ports = _
      rw [hv]
      rfl
    have hins : (v.modCell c Cell.failed).insertion c = none := by
      show ((s.setInsertion c none).setLotState i.lot .queued).insertion c = _
      rw [hv]
      exact (State.insertion_setInsertion s c c none).trans (if_pos rfl)
    have hres : (v.modCell c Cell.failed).reservationOf c = none := by
      show ((s.setInsertion c none).setLotState i.lot .queued).reservationOf c = _
      rw [hv]
      exact hr
    have h := State.derivedState_ended (w := v.modCell c Cell.failed) hd (by rw [hafter]; rfl)
      hports (by rw [hafter]; rfl) (by rw [hafter]; rfl) hins hres
    rwa [hafter] at h
  have hnew : new ≠ .busy ∧ new ≠ .parked ∧ new ≠ .silent ∧ new ≠ .mismatch := by
    by_cases h : z.service = true
    · simp [new, h]
    · simp [new, h]
  have hstate : new ≠ (v.cell c).state := by rw [hcell, hb]; exact hnew.1
  rw [State.abandon_failed hi hx hs, State.deriveCell_calm (s := v) (by rw [hcell]; rfl)
    hderived (.inr hnew.2), State.recordCell_changed hstate, State.setLotState_modCell hlot hq, hcell, hb]
  dsimp only
  split
  · refine State.triggerPass_called ?_
    exact State.setLotState_queued_passPending hlot hq
  · rfl

theorem State.kitExpiry_due (hi : s.insertion c = some i) (hs : i.state = .kitWait) (h0 : i.kitTimer = 0) :
    s.kitExpiry c = s.abandon c (some .kit) := by
  unfold State.kitExpiry
  rw [hi]
  exact if_pos ⟨hs, h0⟩

theorem State.kitExpiry_quiet (hi : s.insertion c = some i) (h : i.state ≠ .kitWait ∨ i.kitTimer ≠ 0) :
    s.kitExpiry c = s := by
  unfold State.kitExpiry
  rw [hi]
  exact if_neg fun k => h.elim (· k.1) (· k.2)

theorem State.loadExpiry_due (hi : s.insertion c = some i) (hs : i.state = .loading) (h0 : i.loadTimer = 0) :
    s.loadExpiry c = s.abandon c (some .load) := by
  unfold State.loadExpiry
  rw [hi]
  exact if_pos ⟨hs, h0⟩

theorem State.loadExpiry_quiet (hi : s.insertion c = some i) (h : i.state ≠ .loading ∨ i.loadTimer ≠ 0) :
    s.loadExpiry c = s := by
  unfold State.loadExpiry
  rw [hi]
  exact if_neg fun k => h.elim (· k.1) (· k.2)

/-! ## The soak timer (R65) -/

theorem State.modInsertion_self {f : Insertion → Insertion} (hi : s.insertion c = some i) (h : f i = i) :
    s.modInsertion c f = s := by
  have hsame : (s.insertion c).map f = s.insertion c := by rw [hi, Option.map_some, h]
  unfold State.modInsertion State.setInsertion
  rw [hsame]
  simp [State.insertion]

/-- A request to an insertion in SOAKING concerns its record alone (R66). -/
theorem State.pauseRequest_soaking {f : PauseSet → PauseSet} (hi : s.insertion c = some i) (hs : i.state = .soaking) :
    s.pauseRequest c f = s.modInsertion c fun j => { j with
      pause := f i.pause, sampleVoid := j.sampleVoid || f i.pause ≠ i.pause } := by
  rw [pauseRequest_eq hi]
  by_cases h : f i.pause = i.pause
  · rw [if_pos h, State.modInsertion_self hi (by rw [h]; simp)]
  · rw [if_neg h, hs]
    exact modInsertion_congr hi (by simp [h])

/-- The pause-reason set with which an insertion leaves SOAKING (R65). -/
def State.soakPause (s : State) (c : CellNo) (i : Insertion) : PauseSet :=
  if s.ft.mode = .lineStop ∧ (s.cell c).policy ≠ .exempt then
    { i.pause with lineStop := some (if (s.cell c).policy = .immediate then .haltNow else .haltAtIndex) }
  else i.pause

/-- The insertion in SOAKING with the set of its departure. -/
def State.soaked (s : State) (c : CellNo) (i : Insertion) : State :=
  s.modInsertion c fun j => { j with
    pause := s.soakPause c i, sampleVoid := j.sampleVoid || s.soakPause c i ≠ i.pause }

theorem State.soakExpiry_of (hi : s.insertion c = some i) (hs : i.state = .soaking) (h1 : i.soakStarted = true)
    (h0 : i.soakTimer = 0) :
    s.soakExpiry c =
      if (s.soakPause c i).halt.isSome then
        (((s.soaked c i).modInsertion c fun j => { j with state := .pausing }).report
          (.insertionEvent c i.lot (some .soaking) (some .pausing) .soakDone)).asked c (s.soakPause c i).command
      else (((s.soaked c i).modInsertion c fun j => { j with state := .running }).report
        (.insertionEvent c i.lot (some .soaking) (some .running) .soakDone)).asked c .go := by
  have hadd : (if s.ft.mode = .lineStop ∧ (s.cell c).policy ≠ .exempt then
      s.pauseRequest c fun p => { p with lineStop := (s.cell c).policy.halt } else s) = s.soaked c i := by
    unfold State.soaked State.soakPause
    by_cases h : s.ft.mode = .lineStop ∧ (s.cell c).policy ≠ .exempt
    · rw [if_pos h, if_pos h, StopPolicy.halt_of_ne_exempt h.2, State.pauseRequest_soaking hi hs]
    · rw [if_neg h, if_neg h, State.modInsertion_self hi (by simp)]
  have hins : (s.soaked c i).insertion c = some { i with
      pause := s.soakPause c i, sampleVoid := i.sampleVoid || s.soakPause c i ≠ i.pause } :=
    State.insertion_modInsertion_same hi _
  unfold State.soakExpiry
  rw [hi]
  dsimp only
  rw [if_pos ⟨hs, h1, h0⟩, hadd, hins]
  dsimp only
  rw [setInsState_eq hins, setInsState_eq hins, request_plain (command_plain _), request_plain rfl, hs]

theorem State.soakExpiry_quiet (hi : s.insertion c = some i)
    (h : i.state ≠ .soaking ∨ i.soakStarted = false ∨ i.soakTimer ≠ 0) : s.soakExpiry c = s := by
  unfold State.soakExpiry
  rw [hi]
  refine if_neg fun ⟨k1, k2, k3⟩ => ?_
  rcases h with h | h | h
  · exact h k1
  · simp [h] at k2
  · exact h k3

/-- Settles O35. -/
theorem insertionTimersExpire : Obligations.InsertionTimersExpire := by
  unfold Obligations.InsertionTimersExpire
  intro s c i hi
  refine ⟨fun x timer ht hx hs hb hd hr => ?_, fun hs h1 h0 => ?_, fun h => ?_, fun h => ?_, fun h => ?_⟩
  · have hz := (s.cell c).failed_eq
    intro n service new
    have hend : s.abandon c (some timer) = (((((s.setInsertion c none).modCell c fun y => { y with
        slot := { y.slot with desired := none }, loadFailures := n, service := service, state := new }).setLotState i.lot
          .queued).report (.loadFailed c i.lot timer n)).report
            (.cellState c .busy new (if n = 3 then .loadFailures else .insertion))) := by
      rw [State.abandon_timer hi hx hs hb hd hr, State.modCell_congr (s := s.setInsertion c none) (c := c)
        (g := fun y => { y with
          slot := { y.slot with desired := none }, loadFailures := n, service := service, state := new })]
      · rw [hz]
      · rw [show (s.setInsertion c none).cell c = s.cell c from rfl, hz]
    rcases ht with ⟨rfl, hst, h0⟩ | ⟨rfl, hst, h0⟩
    · exact congrArg _ ((State.kitExpiry_due hi hst h0).trans hend)
    · exact congrArg _ ((State.loadExpiry_due hi hst h0).trans hend)
  · have hexpiry : exec (.soakTimerExpiry c) s = .next (s.soakExpiry c) := rfl
    intro p u
    rw [hexpiry, State.soakExpiry_of hi hs h1 h0]
    refine ⟨fun he => ?_, fun he => ?_⟩
    · have hhalt : ¬ (s.soakPause c i).halt.isSome = true := by simp [(command_of_empty (p := s.soakPause c i) he).2]
      rw [if_neg hhalt]
      rfl
    · obtain ⟨hcmd, hhalt⟩ := command_of_nonempty (p := s.soakPause c i) he
      rw [if_pos hhalt, hcmd]
      rfl
  · exact congrArg _ (State.kitExpiry_quiet hi h)
  · exact congrArg _ (State.loadExpiry_quiet hi h)
  · exact congrArg _ (State.soakExpiry_quiet hi h)

end Sys2Proof.Machine
end

section
/-! SUPPORT. The mapping, the heard flag and the reported identity of every cell, which the work on insertions, lots and
reservations leaves (R22, R24, R25). -/

namespace Sys2Proof.Machine

variable {s t u : State} {c d : CellNo} {l : LotSlot} {f : Cell → Cell}

/-- A cell record keeps its mapping, its heard flag and its reported identity, and a silence timer at 0 stays there. -/
structure Cell.SameReport (x y : Cell) : Prop where
  mapping : y.mapping = x.mapping
  heard : y.heard = x.heard
  reported : y.reported = x.reported
  silence : x.silence = 0 → y.silence = 0

theorem Cell.SameReport.refl (x : Cell) : x.SameReport x := ⟨rfl, rfl, rfl, id⟩

theorem Cell.SameReport.trans {x y z : Cell} (h : x.SameReport y) (k : y.SameReport z) : x.SameReport z :=
  ⟨k.mapping.trans h.mapping, k.heard.trans h.heard, k.reported.trans h.reported, fun e => k.silence (h.silence e)⟩

/-- Every cell keeps what its tap has reported. -/
def State.SameReports (s t : State) : Prop := ∀ d, (s.cell d).SameReport (t.cell d)

theorem State.SameReports.refl (s : State) : s.SameReports s := fun d => .refl (s.cell d)

theorem State.SameReports.trans (h : s.SameReports t) (k : t.SameReports u) : s.SameReports u := fun d => (h d).trans (k d)

/-- An update that leaves the cell records. -/
theorem State.SameReports.next (h : s.SameReports t) (hc : u.cells = t.cells) : s.SameReports u := fun d => by
  have hcell : u.cell d = t.cell d := by rw [State.cell, hc]; rfl
  rw [hcell]
  exact h d

/-- A change of one cell record that concerns none of these. -/
theorem State.SameReports.modCell (h : s.SameReports t) (c : CellNo) (hf : ∀ x : Cell, x.SameReport (f x)) :
    s.SameReports (t.modCell c f) := fun d => by
  rw [State.cell_modCell]
  by_cases e : d = c
  · rw [if_pos e, ← e]
    exact (h d).trans (hf _)
  · rw [if_neg e]
    exact h d

theorem State.SameReports.insertions (h : s.SameReports t) (c : CellNo) (g : Insertion → Insertion) :
    s.SameReports (t.modInsertion c g) := h.next rfl

theorem State.SameReports.report (h : s.SameReports t) (e : Report) : s.SameReports (t.report e) := h.next rfl

theorem State.SameReports.request (h : s.SameReports t) (c : CellNo) (cmd : Command) : s.SameReports (t.request c cmd) := by
  unfold State.request
  split
  · refine State.SameReports.insertions ?_ c _
    exact h.modCell c fun _ => ⟨rfl, rfl, rfl, id⟩
  · exact h.modCell c fun _ => ⟨rfl, rfl, rfl, id⟩

theorem State.SameReports.setInsState (h : s.SameReports t) (c : CellNo) (new : InsState) (cause : InsCause) :
    s.SameReports (t.setInsState c new cause) := by
  unfold State.setInsState
  split
  · exact h
  · exact (h.insertions c _).report _

theorem State.SameReports.suspend (h : s.SameReports t) (c : CellNo) : s.SameReports (t.suspend c) := by
  unfold State.suspend
  split
  · exact h
  · have k := (h.insertions c fun j => { j with
      before := some j.state, sampleVoid := true, resyncPending := false }).setInsState c .suspended .suspend
    split
    · exact h.insertions c _
    · dsimp only
      split
      · exact k.request c _
      · exact k

theorem State.SameReports.setLotState (h : s.SameReports t) (l : LotSlot) (new : LotState) :
    s.SameReports (t.setLotState l new) := h.next ((State.CellsStand.refl t).setLotState l new).cells

theorem State.SameReports.cancelEntry (h : s.SameReports t) (cause : CancelCause) (r : Reservation) :
    s.SameReports (t.cancelEntry cause r) :=
  State.SameReports.setLotState (h.next (u := (t.deleteReservation r.cell).report _) rfl) _ _

theorem State.SameReports.cancelFor (h : s.SameReports t) (c : CellNo) (cause : CancelCause) :
    s.SameReports (t.cancelFor c cause) := by
  unfold State.cancelFor
  split
  · exact h
  · exact h.cancelEntry cause _

theorem State.SameReports.enterCellState (h : s.SameReports t) (c : CellNo) (new : CellState) :
    s.SameReports (t.enterCellState c new) := by
  cases new with
  | parked =>
    refine State.SameReports.suspend ?_ c
    exact h.modCell c fun _ => ⟨rfl, rfl, rfl, fun _ => rfl⟩
  | silent => exact (h.suspend c).cancelFor c _
  | mismatch => exact (h.suspend c).cancelFor c _
  | idle => exact h.next rfl
  | detached => exact h
  | busy => exact h
  | reserved => exact h
  | outOfService => exact h

theorem State.SameReports.deriveCell (h : s.SameReports t) (c : CellNo) (cause : CellCause) :
    s.SameReports (t.deriveCell c cause) := by
  unfold State.deriveCell
  dsimp only
  split
  · exact h
  · refine (State.SameReports.report ?_ _).enterCellState c _
    exact h.modCell c fun _ => ⟨rfl, rfl, rfl, id⟩

theorem State.SameReports.cancelOfLot (h : s.SameReports t) (l : LotSlot) (cause : CancelCause) :
    s.SameReports (t.cancelOfLot l cause) := by
  unfold State.cancelOfLot
  split
  · exact h
  · exact (h.cancelEntry cause _).deriveCell _ _

theorem State.SameReports.pauseRequest (h : s.SameReports t) (c : CellNo) (g : PauseSet → PauseSet) :
    s.SameReports (t.pauseRequest c g) := by
  have hnear : t.Near (t.pauseRequest c g) := ((State.Beside.refl 0 t).pauseRequest c g).toNear
  refine h.trans fun d => ?_
  obtain ⟨o, ho⟩ := hnear.cell d
  rw [ho]
  exact ⟨rfl, rfl, rfl, id⟩

theorem State.SameReports.syncHold (h : s.SameReports t) (l : LotSlot) : s.SameReports (t.syncHold l) := by
  unfold State.syncHold
  split
  · exact h.pauseRequest _ _
  · exact h

theorem State.SameReports.quarantine (h : s.SameReports t) (l : LotSlot) (m : QuarantineMatter) :
    s.SameReports (t.quarantine l m) := by
  unfold State.quarantine
  split
  · exact h
  · split
    · exact h
    · exact ((h.next (u := (t.modLot l fun x => { x with quarantined := true }).report _) rfl).syncHold l).cancelOfLot l _

theorem State.SameReports.makeHold (h : s.SameReports t) (l : LotSlot) (x : Lot) (r : HoldRequest) :
    s.SameReports (t.makeHold l x r).1 := by
  let u : State := { t with hm := { holds := t.hm.holds ++ [t.newHold l x r], lastId := (t.newHold l x r).id } }
  have k : s.SameReports ((u.modLot l fun y => { y with holds := y.holds ++ [(t.newHold l x r).id] }).report
    (.holdRaised l (t.newHold l x r).id x.current r)) := h.next rfl
  exact (k.syncHold l).cancelOfLot l _

theorem State.SameReports.holdRequest (h : s.SameReports t) (l : LotSlot) (r : HoldRequest) :
    s.SameReports (t.holdRequest l r).1 := by
  unfold State.holdRequest
  split
  · exact h
  · split
    · exact h
    · split
      · exact h.quarantine l _
      · split
        · exact h.quarantine l _
        · split
          · exact h.quarantine l _
          · exact h.makeHold l _ r

end Sys2Proof.Machine
end

section
/-! SUPPORT. START: the setup block's fields, the Report Unit's pages, and the derivation of every cell (R155, R156, R165). -/

namespace Sys2Proof.Machine

variable {s t u : State} {c d : CellNo} {i : Insertion} {cs : List CellNo}

/-! ## The setup block (R156) -/

theorem clamp_eq (low high v : Nat) (h : low ≤ high) : clamp low high v = max low (min high v) := by
  unfold clamp
  omega

theorem setupField_byte (b : SetupBytes) (k : Fin 64) : setupField b k.val 1 = b[k].toNat := setupField_one b k.val k.isLt

theorem setupField_half (b : SetupBytes) (k : Fin 64) (h : k.val < 63) :
    setupField b k.val 2 = b[k].toNat + 256 * b[k + 1].toNat := by
  have hk : (k + 1).val = k.val + 1 := by simp [Fin.val_add]; omega
  have hget : b[k + 1] = b[k.val + 1] := by
    show b[(k + 1).val] = _
    simp only [hk]
  rw [setupField_two b k.val (by omega), hget]
  rfl

/-! ## The Report Unit (R165) -/

/-- A cause set changes CAUSE and the message count alone. -/
theorem ReportUnit.setCause_rest (c : Cause) (u : ReportUnit) :
    u.setCause c = { u with cause := (u.setCause c).cause, msi := (u.setCause c).msi } := by
  unfold ReportUnit.setCause
  split <;> rfl

theorem ReportUnit.crossMarks_rest (a b : Nat) (u : ReportUnit) :
    u.crossMarks a b = { u with cause := (u.crossMarks a b).cause, msi := (u.crossMarks a b).msi } := by
  have hset (c : Cause) (v : ReportUnit) (h : v = { u with cause := v.cause, msi := v.msi }) :
      v.setCause c = { u with cause := (v.setCause c).cause, msi := (v.setCause c).msi } :=
    (v.setCause_rest c).trans (by rw [h])
  unfold ReportUnit.crossMarks
  dsimp only
  split <;> split
  · exact hset _ _ (u.setCause_rest _)
  · exact hset _ _ rfl
  · exact u.setCause_rest _
  · rfl

/-- The pages, the bases and the page settings stand. -/
def ReportUnit.SamePages (u v : ReportUnit) : Prop := v = { u with fifo := v.fifo, cause := v.cause, msi := v.msi }

theorem ReportUnit.SamePages.trans {u v w : ReportUnit} (h : u.SamePages v) (k : v.SamePages w) : u.SamePages w := by
  unfold ReportUnit.SamePages at h k ⊢
  rw [k, h]

theorem ReportUnit.append_samePages (w : Word) (e : Report) (u : ReportUnit) : u.SamePages (u.append w e) := by
  unfold ReportUnit.append
  split
  · have h := u.setCause_rest .overflow
    unfold ReportUnit.SamePages
    rw [h]
  · have h := ReportUnit.crossMarks_rest u.occupancy (u.occupancy + e.places)
      { u with fifo := u.fifo ++ [{ second := w, report := e }] }
    unfold ReportUnit.SamePages
    rw [h]

theorem ReportUnit.Grows.samePages {u v : ReportUnit} (h : u.Grows v) : u.SamePages v := by
  obtain ⟨es, rfl⟩ := h
  induction es generalizing u with
  | nil => rfl
  | cons e es ih => exact (u.append_samePages e.1 e.2).trans ih

/-- A record of one place joins a FIFO with room (R162). -/
theorem ReportUnit.append_fifo {u : ReportUnit} {e : Report} (w : Word) (h : u.occupancy + e.places ≤ 1024) :
    (u.append w e).fifo = u.fifo ++ [{ second := w, report := e }] := by
  unfold ReportUnit.append
  rw [if_neg (by unfold Config.fifoPlaces; omega)]
  exact ReportUnit.crossMarks_fifo _ _ _

/-! ## Suspension (R80) -/

/-- The suspension of a SUSPENDED insertion ends its resync alone. -/
theorem State.suspend_resting (hi : s.insertion c = some i) (hs : i.state = .suspended) :
    s.suspend c = s.modInsertion c fun j => { j with resyncPending := false } := by
  unfold State.suspend
  rw [hi]
  exact if_pos hs

/-- The suspension of any other insertion (R80). -/
theorem State.suspend_active (hi : s.insertion c = some i) (hs : i.state ≠ .suspended) :
    s.suspend c =
      let v := (s.modInsertion c fun j => { j with
        before := some i.state, state := .suspended, sampleVoid := true, resyncPending := false }).report
          (.insertionEvent c i.lot (some i.state) (some .suspended) .suspend)
      if i.state.onHandler then v.asked c .haltNow else v := by
  have hins := State.insertion_modInsertion_same hi fun j => { j with
    before := some j.state, sampleVoid := true, resyncPending := false }
  have hmod := modInsertion_congr (s := s) (c := c) hi
    (f := fun j => { j with before := some j.state, state := .suspended, sampleVoid := true, resyncPending := false })
    (g := fun j => { j with before := some i.state, state := .suspended, sampleVoid := true, resyncPending := false }) rfl
  unfold State.suspend
  rw [hi]
  dsimp only
  rw [if_neg hs, setInsState_eq hins, request_plain rfl, modInsertion_modInsertion, ← hmod]

theorem State.suspend_de (s : State) (c : CellNo) : (s.suspend c).de = s.de := by
  cases hi : s.insertion c with
  | none => rw [State.suspend_vacant hi]
  | some i =>
    by_cases hs : i.state = .suspended
    · rw [State.suspend_resting hi hs]
      rfl
    · rw [State.suspend_active hi hs]
      dsimp only
      split <;> rfl

theorem State.reservationOf_nil (h : s.de.reservations = []) (c : CellNo) : s.reservationOf c = none := by
  unfold State.reservationOf
  rw [h]
  rfl

/-! ## Cells unheard (R25) -/

/-- No mapped cell is heard. -/
def State.Unheard (s : State) : Prop := ∀ c, (s.cell c).mapping ≠ none → (s.cell c).heard = false

theorem State.Unheard.unlinked (h : s.Unheard) (c : CellNo) : ¬ s.Linked c := by
  rintro ⟨hh, m, hm, -⟩
  simp [h c (by simp [hm])] at hh

theorem State.Unheard.of_sameReports (h : s.Unheard) (k : s.SameReports t) : t.Unheard := fun c hm => by
  rw [(k c).mapping] at hm
  exact (k c).heard.trans (h c hm)

/-- The state of a cell that is unheard if it is mapped (Table 2-4). -/
theorem State.Unheard.derivedState (h : s.Unheard) (c : CellNo) :
    s.derivedState c = match (s.cell c).mapping with
      | none => .detached
      | some m => if (s.port m.port).winStart ≤ m.tap ∧ m.tap ≤ (s.port m.port).winStop then .silent else .parked := by
  cases hm : (s.cell c).mapping with
  | none =>
    unfold State.derivedState
    dsimp only
    rw [hm]
  | some m => rw [State.derivedState_unheard (h c (by simp [hm])), hm]

theorem State.Unheard.detached_iff (h : s.Unheard) (c : CellNo) : s.derivedState c = .detached ↔ (s.cell c).mapping = none := by
  rw [h.derivedState]
  cases (s.cell c).mapping with
  | none => simp
  | some m =>
    dsimp only
    split <;> simp

/-- Without reservations, the derivation of such a cell leaves the dispatch state. -/
theorem State.deriveCell_de (hl : ¬ s.Linked c) (hr : s.de.reservations = []) (cause : CellCause) :
    (s.deriveCell c cause).de = s.de := by
  unfold State.deriveCell
  dsimp only
  split
  · rfl
  · rcases State.derivedState_unlinked hl with e | e | e <;> rw [e]
    · rfl
    · exact State.suspend_de _ c
    · have h := State.suspend_de ((s.modCell c fun x => { x with state := .silent }).report
        (.cellState c (s.cell c).state .silent cause)) c
      have hnone := State.reservationOf_nil (s := (((s.modCell c fun x => { x with state := .silent }).report
        (.cellState c (s.cell c).state .silent cause)).suspend c)) (by rw [h]; exact hr) c
      exact (congrArg State.de (State.cancelFor_none hnone _)).trans h

/-! ## The derivation of every cell at START (R155 step 2) -/

/-- What the derivation of cells leaves. -/
structure State.Rederives (s t : State) : Prop where
  core : Core s t
  keeps : Keeps s t
  reports : s.SameReports t

theorem State.Rederives.foldl (cause : CellCause) (cs : List CellNo) :
    ∀ s : State, s.Rederives (cs.foldl (fun s c => s.deriveCell c cause) s) := by
  induction cs with
  | nil => exact fun s => ⟨.refl s, .refl s, .refl s⟩
  | cons c cs ih =>
    intro s
    obtain ⟨hcore, hkeeps, -⟩ := s.core_deriveCell c cause
    obtain ⟨kcore, kkeeps, kreports⟩ := ih (s.deriveCell c cause)
    exact ⟨hcore.trans kcore, hkeeps.trans kkeeps, ((State.SameReports.refl s).deriveCell c cause).trans kreports⟩

theorem State.derived_foldl (cause : CellCause) (cs : List CellNo) :
    ∀ s : State, (s.SettledOutside fun d => d ∈ cs) → (cs.foldl (fun s c => s.deriveCell c cause) s).CellStatesDerived := by
  induction cs with
  | nil => exact fun s h d => (h d).resolve_left (by simp)
  | cons c cs ih =>
    intro s h
    refine ih _ (s.settled_deriveCell c cause fun d => (h d).imp (fun m => ?_) id)
    exact (List.mem_cons.mp m).symm

theorem State.de_foldl (cause : CellCause) (cs : List CellNo) :
    ∀ s : State, s.Unheard → s.de.reservations = [] → (cs.foldl (fun s c => s.deriveCell c cause) s).de = s.de := by
  induction cs with
  | nil => exact fun _ _ _ => rfl
  | cons c cs ih =>
    intro s h hr
    have hde := State.deriveCell_de (h.unlinked c) hr cause
    exact (ih _ (h.of_sameReports ((State.SameReports.refl s).deriveCell c cause)) (by rw [hde]; exact hr)).trans hde

end Sys2Proof.Machine
end

section
/-! SUPPORT. START on a floor whose insertions are SUSPENDED: each cell's state and its record (R32, R33, R155). -/

namespace Sys2Proof.Machine

variable {s t u : State} {c d : CellNo} {i : Insertion} {cs : List CellNo}

/-- No mapped cell is heard, every insertion is SUSPENDED, and no reservation stands. -/
structure State.Resting (s : State) : Prop where
  unheard : s.Unheard
  suspended : ∀ d i, s.insertion d = some i → i.state = .suspended
  free : s.de.reservations = []

/-- The suspension of a cell's insertion that is SUSPENDED already. -/
theorem State.suspend_insertion (h : ∀ i, s.insertion c = some i → i.state = .suspended) :
    s.suspend c = { s with insertions := (s.suspend c).insertions } ∧
      ∀ d, (s.suspend c).insertion d = (s.insertion d).map fun i => if d = c then { i with resyncPending := false } else i := by
  cases hi : s.insertion c with
  | none =>
    rw [State.suspend_vacant hi]
    refine ⟨rfl, fun d => ?_⟩
    by_cases e : d = c
    · rw [e, hi]
      rfl
    · simp [e]
  | some i =>
    rw [State.suspend_resting hi (h i hi)]
    refine ⟨rfl, fun d => ?_⟩
    rw [State.insertion_modInsertion]
    by_cases e : d = c <;> simp [e]

/-- What a cell in one of the states above MISMATCH enters on such a floor (Table 2-6). -/
theorem State.enterCellState_unlinked {new : CellState} (h : ∀ i, s.insertion c = some i → i.state = .suspended)
    (hr : s.de.reservations = []) (hn : new = .detached ∨ new = .parked ∨ new = .silent) :
    s.enterCellState c new = { s with
      cells := (s.enterCellState c new).cells, insertions := (s.enterCellState c new).insertions } ∧
    (∀ d, ∃ n, (s.enterCellState c new).cell d = { s.cell d with silence := n }) ∧
    ∀ d, (s.enterCellState c new).insertion d = (s.insertion d).map fun i =>
      if d = c ∧ new ≠ .detached then { i with resyncPending := false } else i := by
  rcases hn with rfl | rfl | rfl
  · exact ⟨rfl, fun d => ⟨(s.cell d).silence, rfl⟩, fun d => by simp [State.enterCellState]⟩
  · have hins : ∀ i, (s.modCell c fun x => { x with silence := 0 }).insertion c = some i → i.state = .suspended := h
    obtain ⟨h1, h2⟩ := State.suspend_insertion hins
    refine ⟨?_, fun d => ?_, fun d => (h2 d).trans (by simp)⟩
    · have henter : s.enterCellState c .parked = (s.modCell c fun x => { x with silence := 0 }).suspend c := rfl
      rw [henter, h1]
      rfl
    · have hcell : (s.enterCellState c .parked).cell d = (s.modCell c fun x => { x with silence := 0 }).cell d := by
        show ((s.modCell c fun x => { x with silence := 0 }).suspend c).cell d = _
        rw [h1]
        rfl
      rw [hcell, State.cell_modCell]
      by_cases e : d = c
      · exact ⟨0, by rw [if_pos e, e]⟩
      · exact ⟨(s.cell d).silence, by rw [if_neg e]⟩
  · obtain ⟨h1, h2⟩ := State.suspend_insertion h
    have hnone := State.reservationOf_nil (s := s.suspend c) (by rw [State.suspend_de]; exact hr) c
    have henter : s.enterCellState c .silent = s.suspend c := State.cancelFor_none hnone _
    rw [henter]
    exact ⟨by rw [h1], fun d => ⟨(s.cell d).silence, by rw [h1]; rfl⟩, fun d => (h2 d).trans (by simp)⟩

/-- The records of the cells whose state is another than the derived one (R33). -/
def State.startRecords (s : State) (cs : List CellNo) : List Record :=
  (cs.filter fun c => (s.cell c).state ≠ s.derivedState c).map fun c =>
    { second := s.ft.clock, report := .cellState c (s.cell c).state (s.derivedState c) .start }

/-- The cells `cs` have their derived state, with the resync of a cell's insertion ended by a change of a mapped cell's
state, and one record for each change. -/
structure State.StartedAt (s : State) (cs : List CellNo) (t : State) : Prop where
  rest : t = { s with cells := t.cells, insertions := t.insertions, ru := t.ru }
  cell : ∀ d, ∃ n, t.cell d = { s.cell d with
    silence := n, state := if d ∈ cs then s.derivedState d else (s.cell d).state }
  insertion : ∀ d, t.insertion d = (s.insertion d).map fun i =>
    if d ∈ cs ∧ (s.cell d).state ≠ s.derivedState d ∧ s.derivedState d ≠ .detached then { i with resyncPending := false }
    else i
  fifo : s.ru.occupancy + cs.length ≤ 1024 → t.ru.fifo = s.ru.fifo ++ s.startRecords cs

theorem State.StartedAt.nil (s : State) : s.StartedAt [] s :=
  ⟨rfl, fun d => ⟨(s.cell d).silence, by simp⟩, fun d => by simp, fun _ => by simp [State.startRecords]⟩

theorem State.StartedAt.one (h : s.Resting) (c : CellNo) : s.StartedAt [c] (s.deriveCell c .start) := by
  by_cases e : s.derivedState c = (s.cell c).state
  · rw [State.deriveCell_same e]
    refine ⟨rfl, fun d => ⟨(s.cell d).silence, ?_⟩, fun d => ?_, fun _ => ?_⟩
    · by_cases hd : d = c
      · rw [hd, if_pos (by simp), e]
      · rw [if_neg (by simpa using hd)]
    · by_cases hd : d = c
      · simp [hd, e]
      · simp [hd]
    · simp [State.startRecords, e]
  · let v := (s.modCell c fun x => { x with state := s.derivedState c }).report
      (.cellState c (s.cell c).state (s.derivedState c) .start)
    have hv : s.deriveCell c .start = v.enterCellState c (s.derivedState c) := if_neg e
    obtain ⟨h1, h2, h3⟩ := State.enterCellState_unlinked (s := v) (c := c) (h.suspended c) h.free
      (State.derivedState_unlinked (h.unheard.unlinked c))
    have hcell (d : CellNo) : v.cell d = { s.cell d with
        state := if d ∈ [c] then s.derivedState d else (s.cell d).state } := by
      refine (State.cell_modCell s c d fun x => { x with state := s.derivedState c }).trans ?_
      by_cases hd : d = c
      · subst hd
        rw [if_pos rfl, if_pos (by simp)]
      · rw [if_neg hd, if_neg (by simpa using hd)]
    rw [hv]
    refine ⟨?_, fun d => ?_, fun d => ?_, fun hroom => ?_⟩
    · rw [h1]
      rfl
    · obtain ⟨n, hn⟩ := h2 d
      exact ⟨n, by rw [hn, hcell]⟩
    · refine (h3 d).trans ?_
      by_cases hd : d = c
      · subst hd
        simp [Ne.symm e, v]
      · simp [hd, v]
    · have hfifo : (v.enterCellState c (s.derivedState c)).ru = v.ru := by rw [h1]
      rw [hfifo]
      refine (ReportUnit.append_fifo s.ft.clock ?_).trans ?_
      · exact hroom
      · simp [State.startRecords, Ne.symm e]

theorem State.StartedAt.derived (h : s.Resting) (k : s.StartedAt cs t) (d : CellNo) : t.derivedState d = s.derivedState d := by
  obtain ⟨n, hn⟩ := k.cell d
  exact State.derivedState_congr_unlinked (h.unheard.unlinked d) (by rw [hn]) (by rw [hn]) (by rw [k.rest])

theorem State.StartedAt.resting (h : s.Resting) (k : s.StartedAt cs t) : t.Resting := by
  refine ⟨fun d => ?_, fun d i hi => ?_, by rw [k.rest]; exact h.free⟩
  · obtain ⟨n, hn⟩ := k.cell d
    rw [hn]
    exact h.unheard d
  · rw [k.insertion] at hi
    obtain ⟨j, hj, e⟩ := Option.map_eq_some_iff.mp hi
    rw [← e]
    split <;> exact h.suspended d j hj

theorem State.StartedAt.cons (h : s.Resting) (hc : c ∉ cs) (h1 : s.StartedAt [c] u) (k : u.StartedAt cs t) :
    s.StartedAt (c :: cs) t := by
  have hder := State.StartedAt.derived h h1
  have hother (d : CellNo) (hd : d ∈ cs) : (u.cell d).state = (s.cell d).state := by
    obtain ⟨n, hn⟩ := h1.cell d
    have hne : d ≠ c := fun e => hc (e ▸ hd)
    rw [hn, if_neg (by simpa using hne)]
  refine ⟨k.rest.trans (by rw [h1.rest]), fun d => ?_, fun d => ?_, fun hroom => ?_⟩
  · obtain ⟨n, hn⟩ := h1.cell d
    obtain ⟨m, hm⟩ := k.cell d
    refine ⟨m, ?_⟩
    rw [hm, hder, hn]
    by_cases e : d = c
    · subst e
      simp [hc]
    · simp [e]
  · rw [k.insertion, h1.insertion, hder, Option.map_map]
    congr 1
    funext i
    by_cases e : d = c
    · subst e
      simp [hc]
    · by_cases hd : d ∈ cs
      · simp [e, hd, hother d hd]
      · simp [e, hd]
  · have hfirst := h1.fifo (by simp at hroom ⊢; omega)
    have hocc : u.ru.occupancy ≤ s.ru.occupancy + 1 := by
      unfold ReportUnit.occupancy
      rw [hfirst, State.startRecords, List.filter_singleton]
      cases decide ((s.cell c).state ≠ s.derivedState c) <;> simp [Report.places]
    have hrecords : u.startRecords cs = s.startRecords cs := by
      have hclock : u.ft = s.ft := by rw [h1.rest]
      have hfilter : (cs.filter fun d => (u.cell d).state ≠ u.derivedState d) =
          cs.filter fun d => (s.cell d).state ≠ s.derivedState d :=
        List.filter_congr fun d hd => by rw [hother d hd, hder]
      unfold State.startRecords
      rw [hfilter]
      refine List.map_congr_left fun d hd => ?_
      rw [hother d (List.mem_of_mem_filter hd), hder, hclock]
    have hsplit : s.startRecords (c :: cs) = s.startRecords [c] ++ s.startRecords cs := by
      unfold State.startRecords
      rw [← List.map_append, ← List.filter_append]
      rfl
    rw [k.fifo (by simp at hroom; omega), hfirst, hrecords, hsplit, List.append_assoc]

theorem State.StartedAt.foldl (cs : List CellNo) (hcs : cs.Nodup) :
    ∀ s : State, s.Resting → s.StartedAt cs (cs.foldl (fun s c => s.deriveCell c .start) s) := by
  induction cs with
  | nil => exact fun s _ => .nil s
  | cons c cs ih =>
    obtain ⟨hc, hcs⟩ := List.nodup_cons.mp hcs
    exact fun s h => .cons h hc (.one h c) (ih hcs _ ((State.StartedAt.one h c).resting h))

end Sys2Proof.Machine
end

section
/-! SUPPORT. START as one action (R155, R156, R165). -/

namespace Sys2Proof.Machine

variable {s t u : State} {c d : CellNo} {i : Insertion}

/-! ## The pages (R165) -/

/-- Page A opens where it is FREE and no page has been closed. -/
theorem State.pageToOpen_first (hf : s.ru.filling = none) (hl : s.ru.lastClosed = none) (ha : s.ru.pageA.state = .free)
    (hr : s.running = true) : s.pageToOpen = some .a := by
  have hpage : (s.ru.page .a).state = .free := ha
  unfold State.pageToOpen
  rw [hf, hl, hr]
  exact if_pos hpage

/-- With page A FREE and none closed before, page A opens after the FREE headers. -/
theorem State.startPages_eq (hf : s.ru.filling = none) (hl : s.ru.lastClosed = none) (ha : s.ru.pageA.state = .free)
    (hr : s.running = true) : s.startPages = ((s.writeHeader .a .none).writeHeader .b .none).openPage .a := by
  have hru : ((s.writeHeader .a .none).writeHeader .b .none).ru = s.ru := by simp [State.writeHeader]
  have hrun : ((s.writeHeader .a .none).writeHeader .b .none).running = true := by simpa [State.writeHeader] using hr
  unfold State.startPages State.openNext
  rw [State.pageToOpen_first (by rw [hru, hf]) (by rw [hru, hl]) (by rw [hru, ha]) hrun]

theorem headerBytes_head (x : Page) (reason : CloseReason) :
    ∃ h : 0 < (headerBytes x reason).length, (headerBytes x reason)[0] = BitVec.ofNat 8 x.state.code :=
  ⟨by simp [headerBytes, padTo, leBytes], by simp [headerBytes, padTo, leBytes]⟩

/-- The header of a page that is FILLING begins with the code of its state (Table 11-3). -/
theorem State.hostByte_openPage (s : State) (p : PageId) : (s.openPage p).hostByte ((s.openPage p).ru.base p).toNat = some 1 := by
  obtain ⟨hlen, hhead⟩ := headerBytes_head ((s.ru.fill p).page p) .none
  have hpage : ((s.ru.fill p).page p).state = .filling := by cases p <;> rfl
  refine (State.hostByte_hostWrite (s.modReports (ReportUnit.fill p)) _ _ 0 hlen).trans ?_
  show some ((headerBytes ((s.ru.fill p).page p) .none)[0]) = _
  rw [hhead, hpage]
  rfl

theorem State.writeHeader_host (s : State) (p : PageId) (reason : CloseReason) :
    ∃ m, s.writeHeader p reason = { s with host := m } := ⟨_, rfl⟩

theorem State.openPage_host (s : State) (p : PageId) :
    s.openPage p = { s with ru := s.ru.fill p, host := (s.openPage p).host } := by
  obtain ⟨m, hm⟩ := (s.modReports (ReportUnit.fill p)).writeHeader_host p .none
  have hopen : s.openPage p = { s with ru := s.ru.fill p, host := m } := hm
  rw [hopen]

/-- What the header writes of START leave. -/
theorem State.startPages_of (hf : s.ru.filling = none) (hl : s.ru.lastClosed = none) (ha : s.ru.pageA.state = .free)
    (hr : s.running = true) :
    s.startPages = { s with ru := s.ru.fill .a, host := s.startPages.host } ∧
      s.startPages.hostByte s.ru.baseA.toNat = some 1 := by
  obtain ⟨m, hm⟩ := s.writeHeader_host .a .none
  obtain ⟨n, hn⟩ := ({ s with host := m } : State).writeHeader_host .b .none
  rw [State.startPages_eq hf hl ha hr, hm, hn]
  have hbyte := ({ s with host := n } : State).hostByte_openPage .a
  exact ⟨({ s with host := n } : State).openPage_host .a, hbyte⟩

/-! ## The floor with the setup block's values (R155) -/

/-- The setup values taken, and every mapped cell unheard. -/
def State.setUp (q : Setup) (s : State) : State := { s.takeSetup q with cells := s.cells.map Cell.unhear }

/-- The state of an unheard cell by the windows of a setup block (Table 2-4). -/
def Setup.unheardState (q : Setup) : Option Mapping → CellState
  | none => .detached
  | some m => if q.windows[m.port].1 ≤ m.tap ∧ m.tap ≤ q.windows[m.port].2 then .silent else .parked

theorem State.cell_setUp (s : State) (q : Setup) (c : CellNo) : (s.setUp q).cell c = (s.cell c).unhear :=
  State.cell_map _ _ c

theorem Cell.unhear_mapping (x : Cell) : x.unhear.mapping = x.mapping := by
  unfold Cell.unhear
  split <;> rfl

theorem Cell.unhear_heard (x : Cell) : x.unhear.heard = (x.heard && x.mapping.isNone) := by
  unfold Cell.unhear
  cases h : x.mapping <;> simp

theorem Cell.unhear_mapped {x : Cell} (h : x.mapping ≠ none) : x.unhear.heard = false ∧ x.unhear.silence = 0 := by
  unfold Cell.unhear
  rw [if_pos (Option.isSome_iff_ne_none.mpr h)]
  exact ⟨rfl, rfl⟩

/-- A cell record unheard differs in its heard flag and its silence timer alone. -/
theorem Cell.unhear_rest (x : Cell) : x.unhear = { x with heard := x.unhear.heard, silence := x.unhear.silence } := by
  unfold Cell.unhear
  split <;> rfl

theorem State.setUp_unheard (s : State) (q : Setup) : (s.setUp q).Unheard := fun c h => by
  rw [State.cell_setUp] at h ⊢
  rw [Cell.unhear_mapping] at h
  exact (Cell.unhear_mapped h).1

theorem State.port_setUp (s : State) (q : Setup) (p : PortNo) :
    (s.setUp q).port p = { s.port p with winStart := q.windows[p].1, winStop := q.windows[p].2, arbiter := none } := by
  simp [State.port, State.setUp, State.takeSetup]

theorem State.derivedState_setUp (s : State) (q : Setup) (c : CellNo) :
    (s.setUp q).derivedState c = q.unheardState (s.cell c).mapping := by
  rw [(s.setUp_unheard q).derivedState, State.cell_setUp, Cell.unhear_mapping]
  cases (s.cell c).mapping with
  | none => rfl
  | some m =>
    dsimp only
    rw [State.port_setUp]
    rfl

/-- The floor after START's derivations. -/
def State.restarted (q : Setup) (s : State) : State := allCells.foldl (fun s c => s.deriveCell c .start) (s.setUp q)

theorem State.restarted_rederives (s : State) (q : Setup) : (s.setUp q).Rederives (s.restarted q) := .foldl .start allCells _

theorem State.restarted_cell (s : State) (q : Setup) (c : CellNo) :
    ((s.restarted q).cell c).heard = ((s.cell c).heard && (s.cell c).mapping.isNone) ∧
      ((s.restarted q).cell c).state = q.unheardState (s.cell c).mapping ∧
      ((s.cell c).mapping ≠ none → ((s.restarted q).cell c).silence = 0) := by
  obtain ⟨-, hkeeps, hreports⟩ := s.restarted_rederives q
  obtain ⟨hmapping, hheard, -, hsilence⟩ := hreports c
  have hderived : ((s.restarted q).cell c).state = (s.restarted q).derivedState c :=
    State.derived_foldl .start allCells (s.setUp q) (fun d => .inl (mem_allCells d)) c
  have hsame := State.derivedState_congr_unlinked ((s.setUp_unheard q).unlinked c) hheard hmapping hkeeps.ports
  rw [State.cell_setUp] at hheard hsilence
  refine ⟨hheard.trans (Cell.unhear_heard _), ?_, fun h => hsilence (Cell.unhear_mapped h).2⟩
  rw [hderived, hsame, State.derivedState_setUp]

theorem State.restarted_de (h : s.de.reservations = []) (q : Setup) :
    (s.restarted q).de = { s.de with params := q.params } := by
  unfold State.restarted
  exact State.de_foldl .start allCells (s.setUp q) (s.setUp_unheard q) h

theorem State.restarted_startedAt {q : Setup} (h : (s.setUp q).Resting) : (s.setUp q).StartedAt allCells (s.restarted q) := by
  have hall : allCells.Nodup := List.nodup_finRange 48
  unfold State.restarted
  exact State.StartedAt.foldl allCells hall (s.setUp q) h

/-- START's derivations on a floor whose insertions are SUSPENDED and that has no reservation: each cell's new state, and
one record for each change, in ascending cell order (R33, log entry 31). -/
theorem State.StartedAt.setUp {q : Setup} {v : State} (hex : (s.setUp q).StartedAt allCells v)
    (hroom : s.ru.occupancy + 48 ≤ 1024) :
    let new (c : CellNo) : CellState := q.unheardState (s.cell c).mapping
    v.ru.fifo = s.ru.fifo ++ ((List.finRange 48).filter fun c => (s.cell c).state ≠ new c).map (fun c =>
      { second := s.ft.clock, report := .cellState c (s.cell c).state (new c) .start }) ∧
    (∀ c, v.cell c = { s.cell c with heard := (v.cell c).heard, silence := (v.cell c).silence, state := new c }) ∧
    (∀ c, v.insertion c = (s.insertion c).map fun i =>
      if (s.cell c).state ≠ new c ∧ (s.cell c).mapping ≠ none then { i with resyncPending := false } else i) ∧
    v.lm = s.lm ∧ v.hm = s.hm ∧ v.ships = s.ships ∧ v.limitSets = s.limitSets := by
  intro new
  have hder (c : CellNo) : (s.setUp q).derivedState c = new c := s.derivedState_setUp q c
  have hstate (c : CellNo) : ((s.setUp q).cell c).state = (s.cell c).state := by
    rw [State.cell_setUp, Cell.unhear_rest]
  have hrecords : (s.setUp q).startRecords allCells =
      ((List.finRange 48).filter fun c => (s.cell c).state ≠ new c).map fun c =>
        { second := s.ft.clock, report := .cellState c (s.cell c).state (new c) .start } := by
    unfold State.startRecords
    simp only [hder, hstate]
    rfl
  have hfloor : v.lm = s.lm ∧ v.hm = s.hm ∧ v.ships = s.ships ∧ v.limitSets = s.limitSets := by
    rw [hex.rest]
    exact ⟨rfl, rfl, rfl, rfl⟩
  refine ⟨(hex.fifo hroom).trans (congrArg (s.ru.fifo ++ ·) hrecords), fun c => ?_, fun c => ?_, hfloor⟩
  · obtain ⟨n, hn⟩ := hex.cell c
    rw [hn, if_pos (mem_allCells c), hder, State.cell_setUp, Cell.unhear_rest]
  · have hmapped : new c = .detached ↔ (s.cell c).mapping = none := by
      rw [← hder, (s.setUp_unheard q).detached_iff, State.cell_setUp, Cell.unhear_mapping]
    have hiff : (c ∈ allCells ∧ (s.cell c).state ≠ new c ∧ new c ≠ .detached) ↔
        (s.cell c).state ≠ new c ∧ (s.cell c).mapping ≠ none := by
      simp [mem_allCells, hmapped]
    rw [hex.insertion c, hstate, hder]
    simp only [hiff]
    rfl

/-- START in HALTED (R155). -/
theorem State.start_of (h : s.os.part = .halted) (b : SetupBytes) :
    exec (.start (some b)) s = .next (((s.restarted (Setup.ofBytes b)).startTimers).startPages) := by
  have hup : s.startUp b = (s.restarted (Setup.ofBytes b)).startTimers := rfl
  have hstart : s.start (some b) = (s.startUp b).startPages := if_pos h
  rw [← hup, ← hstart]
  rfl

/-- What START's last steps leave of a floor with the setup block's page values (R155, R165). -/
theorem State.startPages_after {q : Setup} {r : ReportUnit} (hru : (r.takeSetup q).SamePages u.ru) :
    u.startTimers.startPages = { u.startTimers with ru := u.ru.fill .a, host := u.startTimers.startPages.host } ∧
      u.startTimers.startPages.hostByte q.baseA.toNat = some 1 := by
  have hbase : u.ru.baseA = q.baseA := congrArg ReportUnit.baseA hru
  have h := State.startPages_of (s := u.startTimers) (congrArg ReportUnit.filling hru) (congrArg ReportUnit.lastClosed hru)
    (congrArg (fun u => u.pageA.state) hru) rfl
  rw [← hbase]
  exact h

/-- The setup block's fields after clamping, each from its bytes (Table 10-3). -/
theorem Setup.windows_ofBytes (b : SetupBytes) :
    (Setup.ofBytes b).windows = #v[(max 1 (min 15 b[36].toNat), max 1 (min 15 b[37].toNat)),
      (max 1 (min 15 b[38].toNat), max 1 (min 15 b[39].toNat)), (max 1 (min 15 b[40].toNat), max 1 (min 15 b[41].toNat)),
      (max 1 (min 15 b[42].toNat), max 1 (min 15 b[43].toNat))] := by
  have hbyte (k : Nat) (h : k < 64) : clamp 1 15 (setupField b k 1) = max 1 (min 15 b[k].toNat) := by
    rw [setupField_one b k h, clamp_eq _ _ _ (by omega)]
  have hpair (k : Nat) (h : k + 1 < 64) : (clamp 1 15 (setupField b k 1), clamp 1 15 (setupField b (k + 1) 1)) =
      (max 1 (min 15 b[k].toNat), max 1 (min 15 b[k + 1].toNat)) := by
    rw [hbyte k (by omega), hbyte (k + 1) h]
  refine Vector.ext fun p hp => ?_
  have hp' : p = 0 ∨ p = 1 ∨ p = 2 ∨ p = 3 := by omega
  rcases hp' with rfl | rfl | rfl | rfl
  · exact hpair 36 (by omega)
  · exact hpair 38 (by omega)
  · exact hpair 40 (by omega)
  · exact hpair 42 (by omega)

/-- Settles O6. -/
theorem startTakesTheSetupBlock : Obligations.StartTakesTheSetupBlock := by
  unfold Obligations.StartTakesTheSetupBlock
  refine ⟨fun b => ?_, fun s b => ?_⟩
  · intro y byte half address within window
    have hbyte (k : Fin 64) : setupField b k.val 1 = byte k := setupField_byte b k
    have hhalf (k : Fin 64) (h : k.val < 63) : setupField b k.val 2 = half k := setupField_half b k h
    have hclamp (low high v : Nat) (h : low ≤ high) : clamp low high v = within low high v := clamp_eq low high v h
    have hslots : y.slotCount = within 16 256 (half 24) := by
      rw [← hhalf 24 (by decide), ← hclamp _ _ _ (by omega)]
      rfl
    refine ⟨setupAddr_toNat b 0 (by omega), setupAddr_toNat b 8 (by omega), setupAddr_toNat b 16 (by omega), hslots, ?_, ?_,
      ?_, ?_, ?_, ?_, Setup.windows_ofBytes b, ?_⟩
    · rw [← hhalf 26 (by decide), ← hclamp _ _ _ (by omega)]
      rfl
    · rw [← hhalf 28 (by decide), ← hclamp _ _ _ (by omega)]
      rfl
    · rw [← hhalf 30 (by decide), ← hclamp _ _ _ (by omega)]
      rfl
    · rw [← hbyte 32, ← hclamp _ _ _ (by omega)]
      rfl
    · rw [← hbyte 33, ← hclamp _ _ _ (by omega)]
      rfl
    · rw [← hbyte 34]
      rfl
    · rw [← hbyte 35, ← hbyte 44, ← hbyte 45, ← hbyte 46, ← hbyte 47, ← hhalf 48 (by decide), ← hbyte 50,
        ← hclamp _ _ _ (by omega), ← hclamp _ _ _ (by omega), ← hclamp _ _ _ (by omega), ← hclamp _ _ _ (by omega)]
      rfl
  · intro derived
    refine ⟨fun h => ?_, fun h => congrArg _ (if_pos h), fun h x => congrArg _ (if_neg h)⟩
    have hderived (c : CellNo) : derived c = (Setup.ofBytes b).unheardState (s.cell c).mapping := by
      show (match (s.cell c).mapping with
        | none => CellState.detached
        | some m => if (Setup.ofBytes b).windows[m.port].1 ≤ m.tap ∧ m.tap ≤ (Setup.ofBytes b).windows[m.port].2 then .silent
          else .parked) = _
      cases (s.cell c).mapping <;> rfl
    clear_value derived
    have hstart := State.start_of h b
    generalize Setup.ofBytes b = q at hstart hderived ⊢
    obtain ⟨hcore, hkeeps, -⟩ := s.restarted_rederives q
    have hcells := s.restarted_cell q
    have hru : (s.ru.takeSetup q).SamePages (s.restarted q).ru := hcore.records.samePages
    have hde (h : s.de.reservations = []) := s.restarted_de h q
    have hexact (h : (s.setUp q).Resting) := State.restarted_startedAt h
    generalize hv : s.restarted q = v at hstart hcore hkeeps hcells hru hde hexact
    obtain ⟨ht, hbyte⟩ := State.startPages_after hru
    generalize v.startTimers.startPages = t at hstart ht hbyte
    have hos : v.os = (s.setUp q).os := hcore.os
    have hft : v.ft = s.ft := hkeeps.ft
    have hports : v.ports = (s.setUp q).ports := hkeeps.ports
    have hparams : v.de.params = q.params := hkeeps.params
    have htru : t.ru = ({ s.ru.takeSetup q with fifo := v.ru.fifo, cause := v.ru.cause, msi := v.ru.msi } :
        ReportUnit).fill .a := by rw [← hru, ht]
    have hbase : t.ru.baseA = q.baseA := congrArg ReportUnit.baseA htru
    have htde : t.de = v.de := by rw [ht]; rfl
    have htcell (c : CellNo) : t.cell c = v.cell c := by rw [ht]; rfl
    refine ⟨t, hstart, ?_, hbase, congrArg ReportUnit.baseB htru, congrArg ReportUnit.pageLength htru,
      congrArg ReportUnit.closeOnUrgent htru, congrArg ReportUnit.idleClose htru, ?_, congrArg ReportUnit.filling htru,
      congrArg ReportUnit.lastClosed htru, ?_, congrArg ReportUnit.pageB htru, by rw [hbase, hbyte], by rw [htde, hparams],
      fun hr => by rw [htde, hde hr], fun p => ?_, ?_, fun c => ?_, fun hs hr hroom => ?_⟩
    · rw [ht]
      show ({ v.os with pacer := 0, scanPending := true, part := .running } : Scanner) = _
      rw [hos]
      rfl
    · rw [htru]
      rfl
    · rw [htru]
      rfl
    · have htports : t.ports = (s.setUp q).ports := by rw [← hports, ht]; rfl
      rw [← State.port_setUp, State.port, htports]
      rfl
    · rw [ht]
      show ({ v.ft with nextFiring := if v.de.params.pacer = 0 then none else some (v.minute + v.de.params.pacer) } :
        FloorTimer) = _
      rw [State.minute, hft]
      rfl
    · rw [htcell, hderived]
      exact hcells c
    · obtain ⟨hfifo, hcell, hins, hlm, hhm, hships, hsets⟩ := (hexact ⟨s.setUp_unheard q, hs, hr⟩).setUp hroom
      have hnew : derived = fun c => q.unheardState (s.cell c).mapping := funext hderived
      subst hnew
      refine ⟨by rw [htru]; exact hfifo, fun c => by rw [htcell]; exact hcell c, fun c => ?_, ?_, ?_, ?_, ?_⟩
      · refine Eq.trans ?_ (hins c)
        rw [ht]
        rfl
      all_goals rw [ht]; assumption

end Sys2Proof.Machine
end

section
/-! SUPPORT. The identity of a tap adopted, and the state of the cell that follows (R24, R27, R32, R33). -/

namespace Sys2Proof.Machine

variable {s t u : State} {p : PortNo} {address : Byte} {c d : CellNo} {i j : Insertion} {f : IdentFrame} {id : Identity}
variable {new : CellState}

/-! ## The frame -/

/-- Every field of an IDENT frame lies in its range (Table 2-2). -/
def IdentInRange (f : IdentFrame) : Prop :=
  (1 ≤ f.testerClass.toNat ∧ f.testerClass.toNat ≤ 15) ∧ (1 ≤ f.handlerClass.toNat ∧ f.handlerClass.toNat ≤ 15) ∧
    (1 ≤ f.siteCount.toNat ∧ f.siteCount.toNat ≤ 8) ∧ (1 ≤ f.temps.toNat ∧ f.temps.toNat ≤ 7) ∧
    (1 ≤ f.kitCode.toNat ∧ f.kitCode.toNat ≤ 4095)

/-- The identity that an IDENT frame reports. -/
def reportedBy (f : IdentFrame) : Identity :=
  { serial := f.serial, testerClass := f.testerClass.toNat, handlerClass := f.handlerClass.toNat,
    siteCount := f.siteCount.toNat, temps := f.temps.setWidth 3, kitCode := f.kitCode.toNat }

theorem State.ident_hears (h : s.Hears p address c) (f : IdentFrame) :
    exec (.ident p address f) s = .next ((s.heardIn p c).takeIdent c f) :=
  congrArg _ (receive_hears h fun c s => s.takeIdent c f)

theorem State.takeIdent_outside (h : ¬ IdentInRange f) (c : CellNo) (s : State) : s.takeIdent c f = s.protocolError c := by
  have hnone : identityOf f = none := if_neg h
  unfold State.takeIdent
  rw [hnone]

theorem State.takeIdent_inRange (h : IdentInRange f) (c : CellNo) (s : State) :
    s.takeIdent c f = ((s.modCell c (Cell.adopt (reportedBy f))).deriveCell c .ident).deliverIdent c f.fresh := by
  have hsome : identityOf f = some (reportedBy f) := if_pos h
  unfold State.takeIdent
  rw [hsome]

/-! ## The cell record -/

/-- A reported identity of another tester is replaced. -/
def Cell.reportsOther (x : Cell) (id : Identity) : Bool := x.reported.any fun old => old.serial ≠ id.serial

theorem Cell.adopt_eq (id : Identity) (x : Cell) :
    x.adopt id = { x with
      reported := some id, heard := true, measured := if x.reportsOther id then 0 else x.measured
      lastRecipe := if x.reportsOther id then none else x.lastRecipe
      lastTemp := if x.reportsOther id then none else x.lastTemp } := by
  show (let x := if x.reportsOther id = true then { x with measured := 0, lastRecipe := none, lastTemp := none } else x
    ({ x with reported := some id, heard := true } : Cell)) = _
  cases x.reportsOther id <;> rfl

/-- The identity differs from the frozen identity of a frozen cell (R27). -/
def Cell.Differs (x : Cell) (id : Identity) : Prop :=
  x.freeze = true ∧ x.frozen ≠ some
    { serial := id.serial, testerClass := id.testerClass, handlerClass := id.handlerClass, siteCount := id.siteCount,
      temps := id.temps }

theorem Cell.mismatched_adopt (x : Cell) (id : Identity) : (x.adopt id).mismatched = true ↔ x.Differs id := by
  rw [Cell.adopt_eq]
  unfold Cell.mismatched Cell.Differs
  simp only [Bool.and_eq_true, decide_eq_true_eq, Option.map_some]
  exact and_congr_right fun _ => ⟨Ne.symm, Ne.symm⟩

/-! ## The cell's state -/

theorem State.Hears.mapping (h : s.Hears p address c) : (s.cell c).mapping = some { port := p, tap := address.toNat } := by
  obtain ⟨t, -, rfl, -, hgood⟩ := h
  unfold State.addressGood at hgood
  rw [Bool.and_eq_true, decide_eq_true_eq, decide_eq_true_eq] at hgood
  exact hgood.2

theorem State.heardIn_inWindow (s : State) (p : PortNo) (c : CellNo) (tap : Nat) :
    ((s.heardIn p c).port p).inWindow tap = (s.port p).inWindow tap := by
  have hport : (s.heardIn p c).port p = _ := State.port_modPort s p p fun x =>
    { x with turn := x.turn.map fun t => { t with frames := t.frames + 1, wait := 0 } }
  rw [hport, if_pos rfl]
  rfl

/-- A cell whose tap is inside the window is linked once its identity is adopted. -/
theorem State.linked_adopt (h : s.Hears p address c) (hw : (s.port p).inWindow address.toNat = true) (id : Identity) :
    ((s.heardIn p c).modCell c (Cell.adopt id)).Linked c := by
  have hcell := (s.heardIn p c).cell_modCell_same c (Cell.adopt id)
  rw [Cell.adopt_eq, s.heardIn_cell] at hcell
  refine ⟨by rw [hcell], { port := p, tap := address.toNat }, by rw [hcell]; exact h.mapping, ?_⟩
  exact (s.heardIn_inWindow p c _).trans hw

/-- The state derived from the adopted identity (Table 2-4). -/
theorem State.derivedState_adopt (h : s.Hears p address c) (hw : (s.port p).inWindow address.toNat = true) (id : Identity) :
    ((s.cell c).Differs id → ((s.heardIn p c).modCell c (Cell.adopt id)).derivedState c = .mismatch) ∧
    (¬ (s.cell c).Differs id → ((s.heardIn p c).modCell c (Cell.adopt id)).derivedState c = s.standing c) := by
  have hcell : ((s.heardIn p c).modCell c (Cell.adopt id)).cell c = Cell.adopt id { s.cell c with silence := 0 } := by
    rw [State.cell_modCell_same, State.heardIn_cell]
  have hmis : (({ s.cell c with silence := 0 } : Cell).adopt id).mismatched = true ↔ (s.cell c).Differs id :=
    Cell.mismatched_adopt _ id
  have hstand : ((s.heardIn p c).modCell c (Cell.adopt id)).standing c = s.standing c := by
    unfold State.standing
    rw [hcell, Cell.adopt_eq]
    rfl
  rw [State.derivedState_linked (State.linked_adopt h hw id), hcell, hstand]
  exact ⟨fun e => if_pos (hmis.mpr e), fun e => if_neg (mt hmis.mp e)⟩

/-- The cell with the adopted identity and its state, recorded when it is another (R24, R33). -/
def State.adopted (c : CellNo) (id : Identity) (new : CellState) (s : State) : State :=
  let x := s.cell c
  let u := s.modCell c fun y => { y with
    reported := some id, heard := true, state := new, measured := if x.reportsOther id then 0 else y.measured
    lastRecipe := if x.reportsOther id then none else y.lastRecipe
    lastTemp := if x.reportsOther id then none else y.lastTemp }
  if new = x.state then u else u.report (.cellState c x.state new .ident)

theorem State.writeCell_adopt (s : State) (c : CellNo) (id : Identity) (new : CellState) :
    s.writeCell c (Cell.adopt id) new .ident = s.adopted c id new := by
  have hmod : (s.modCell c fun x => { x.adopt id with state := new }) = s.modCell c fun y => { y with
      reported := some id, heard := true, state := new, measured := if (s.cell c).reportsOther id then 0 else y.measured
      lastRecipe := if (s.cell c).reportsOther id then none else y.lastRecipe
      lastTemp := if (s.cell c).reportsOther id then none else y.lastTemp } :=
    State.modCell_congr (by rw [Cell.adopt_eq])
  unfold State.writeCell State.adopted
  rw [hmod]

@[simp] theorem State.adopted_insertion (s : State) (c : CellNo) (id : Identity) (new : CellState) (d : CellNo) :
    (s.adopted c id new).insertion d = s.insertion d := by
  unfold State.adopted
  dsimp only
  split <;> rfl

@[simp] theorem State.adopted_lot (s : State) (c : CellNo) (id : Identity) (new : CellState) (l : LotSlot) :
    (s.adopted c id new).lot l = s.lot l := by
  unfold State.adopted
  dsimp only
  split <;> rfl

theorem State.adopted_cell (s : State) (c : CellNo) (id : Identity) (new : CellState) :
    (s.adopted c id new).cell c = { (s.cell c).adopt id with state := new } := by
  rw [← State.writeCell_adopt]
  unfold State.writeCell
  dsimp only
  split <;> exact s.cell_modCell_same c fun x => { x.adopt id with state := new }

theorem State.adopted_stands (s : State) (c : CellNo) (id : Identity) (new : CellState) :
    (s.adopted c id new).de = s.de ∧ (s.adopted c id new).hm = s.hm ∧ (s.adopted c id new).lm = s.lm ∧
      (s.adopted c id new).ft = s.ft ∧ (s.adopted c id new).ports = s.ports := by
  unfold State.adopted
  dsimp only
  split <;> exact ⟨rfl, rfl, rfl, rfl, rfl⟩

/-! ## The derivation after an adoption -/

/-- The derivation to a state that concerns neither insertion nor reservation, other than IDLE. -/
theorem State.deriveCell_adopt_calm (hd : (s.modCell c (Cell.adopt id)).derivedState c = new) (hn : new ≠ .idle)
    (he : new ≠ .parked ∧ new ≠ .silent ∧ new ≠ .mismatch) :
    (s.modCell c (Cell.adopt id)).deriveCell c .ident = s.adopted c id new := by
  rw [State.deriveCell_calm (by rw [Cell.adopt_eq]) hd (.inr he), ← State.writeCell_adopt]
  exact if_neg fun h => hn h.1

/-- The derivation to MISMATCH: what the cell enters, when it was in another state. -/
theorem State.deriveCell_adopt_mismatch (hd : (s.modCell c (Cell.adopt id)).derivedState c = .mismatch) :
    (s.modCell c (Cell.adopt id)).deriveCell c .ident =
      if (s.cell c).state = .mismatch then s.adopted c id .mismatch
      else ((s.adopted c id .mismatch).suspend c).cancelFor c .mismatch := by
  rw [State.deriveCell_modCell (by rw [Cell.adopt_eq]) hd, State.writeCell_adopt]
  by_cases e : (s.cell c).state = .mismatch
  · rw [if_pos e, if_pos e.symm]
  · rw [if_neg e, if_neg (Ne.symm e)]
    rfl

end Sys2Proof.Machine
end

section
/-! SUPPORT. An IDENT at the Insertion Engine (R64, R82, R83): what each case does, and what the tap has reported stays. -/

namespace Sys2Proof.Machine

variable {s t u : State} {c d : CellNo} {i j : Insertion} {y : Lot} {fresh : Bool}

/-! ## The cases of R64 and R82 -/

theorem State.deliverIdent_vacant (h : s.insertion c = none) (fresh : Bool) : s.deliverIdent c fresh = s := by
  unfold State.deliverIdent
  rw [h]

theorem State.deliverIdent_fresh (hi : s.insertion c = some i) (hf : fresh = true) (hr : i.takenBy.hasRun = true) :
    s.deliverIdent c fresh = s.freshAbort c i := by
  unfold State.deliverIdent
  rw [hi]
  exact if_pos (by rw [hf, hr]; rfl)

/-- Without a fresh tap, or without a run, the insertion state decides. -/
theorem State.deliverIdent_going (hi : s.insertion c = some i) (h : fresh = false ∨ i.takenBy.hasRun = false) :
    s.deliverIdent c fresh =
      if i.state = .suspended then
        if (s.cell c).state = .mismatch then s else s.modInsertion c fun j => { j with resyncPending := true }
      else if i.state = .kitWait ∧ (s.cell c).kitCode = some (s.recipe i.recipe).kitCode then
        (s.setInsState c .loading .kitReady).requestLoad c
      else s := by
  unfold State.deliverIdent
  rw [hi]
  refine if_neg ?_
  rcases h with h | h <;> simp [h]

/-- The kit is reported: LOADING with LOAD (R64). -/
theorem State.requestLoad_kitReady (hi : s.insertion c = some i) (hs : i.state = .kitWait) (hy : s.lot i.lot = some y) :
    (s.setInsState c .loading .kitReady).requestLoad c =
      let r := s.recipe i.recipe
      let tag := nextTag (s.cell c).slot.tag
      ((s.modInsertion c fun j => { j with state := .loading, loadTimer := 30, loadTag := tag }).modCell c
        fun z => { z with slot := { z.slot with
          desired := some (.load r.programId r.temp i.siteMask i.expected y.lotNumber), tag := tag } }).report
            (.insertionEvent c i.lot (some .kitWait) (some .loading) .kitReady) := by
  let w := (s.modInsertion c fun j => { j with state := .loading }).report
    (.insertionEvent c i.lot (some i.state) (some .loading) .kitReady)
  have hset : s.setInsState c .loading .kitReady = w := setInsState_eq hi _ _
  have hins : w.insertion c = some { i with state := .loading } := State.insertion_modInsertion_same hi _
  have hlot : w.lot i.lot = some y := hy
  have hload : w.loadCommand { i with state := .loading } =
      .load (s.recipe i.recipe).programId (s.recipe i.recipe).temp i.siteMask i.expected y.lotNumber := by
    unfold State.loadCommand
    dsimp only
    rw [hlot]
    rfl
  dsimp only
  have hmod (tag : Half) : (s.modInsertion c fun j => { j with state := .loading, loadTimer := 30, loadTag := tag }) =
      ((s.modInsertion c fun j => { j with state := .loading }).modInsertion c fun j => { j with
        loadTimer := 30 }).modInsertion c fun j => { j with loadTag := tag } := by
    rw [modInsertion_modInsertion, modInsertion_modInsertion]
  rw [hset, State.requestLoad, hins, hmod, ← hs]
  dsimp only
  rw [hload]
  rfl

/-! ## What the tap has reported stays -/

theorem State.SameReports.requestLoad (h : s.SameReports t) (c : CellNo) : s.SameReports (t.requestLoad c) := by
  unfold State.requestLoad
  split
  · exact h
  · exact (h.insertions c _).request c _

theorem State.SameReports.returnLot (h : s.SameReports t) (l : LotSlot) : s.SameReports (t.returnLot l) := by
  unfold State.returnLot
  split
  · exact h
  · split
    · exact h
    · exact h.setLotState l _

theorem State.SameReports.quarantineExhausted (h : s.SameReports t) (l : LotSlot) :
    s.SameReports (t.quarantineExhausted l) := by
  unfold State.quarantineExhausted
  split
  · exact h
  · split
    · exact h.quarantine l _
    · exact h

theorem State.SameReports.setHistory (h : s.SameReports t) (c : CellNo) (i : Insertion) : s.SameReports (t.setHistory c i) :=
  h.modCell c fun _ => ⟨rfl, rfl, rfl, id⟩

theorem State.SameReports.clearInsertion (h : s.SameReports t) (c : CellNo) : s.SameReports (t.clearInsertion c) := by
  have k : s.SameReports (t.setInsertion c none) := h.next rfl
  exact k.modCell c fun _ => ⟨rfl, rfl, rfl, id⟩

theorem State.SameReports.finishClose (h : s.SameReports t) (c : CellNo) (i : Insertion) (outcome : RunOutcome) :
    s.SameReports (t.finishClose c i outcome) := by
  unfold State.finishClose
  exact (((h.clearInsertion c).deriveCell c _).report _).next (State.notice_moves _ _).1.cells

theorem State.SameReports.freshAbort (h : s.SameReports t) (c : CellNo) (i : Insertion) :
    s.SameReports (t.freshAbort c i) := by
  have k : s.SameReports (t.closeRun i .aborted) := h.next rfl
  unfold State.freshAbort
  dsimp only
  refine State.SameReports.finishClose (State.SameReports.setHistory ?_ c i) c i _
  split
  · exact k
  · exact ((k.holdRequest i.lot _).returnLot i.lot).quarantineExhausted i.lot

theorem State.SameReports.deliverIdent (h : s.SameReports t) (c : CellNo) (fresh : Bool) :
    s.SameReports (t.deliverIdent c fresh) := by
  unfold State.deliverIdent
  split
  · exact h
  · split
    · exact h.freshAbort c _
    · split
      · split
        · exact h
        · exact h.insertions c _
      · split
        · exact (h.setInsState c _ _).requestLoad c
        · exact h

/-- After an IDENT in range the cell is heard with the frame's identity (R24). -/
theorem State.takeIdent_reports {f : IdentFrame} (h : IdentInRange f) (s : State) (c : CellNo) :
    ((s.takeIdent c f).cell c).reported = some (reportedBy f) ∧ ((s.takeIdent c f).cell c).heard = true := by
  have k := (((State.SameReports.refl (s.modCell c (Cell.adopt (reportedBy f)))).deriveCell c .ident).deliverIdent c
    f.fresh) c
  rw [State.cell_modCell_same, Cell.adopt_eq] at k
  rw [State.takeIdent_inRange h]
  exact ⟨k.reported, k.heard⟩

end Sys2Proof.Machine
end

section
/-! SUPPORT. A run aborted by a fresh tap (R83). -/

namespace Sys2Proof.Machine

variable {s t u v w : State} {c d : CellNo} {i j : Insertion} {x y z : Lot} {l : LotSlot} {r : HoldRequest}

/-! ## The cell at the end of the abort (R78) -/

theorem State.writeCell_stands (s : State) (c : CellNo) (f : Cell → Cell) (new : CellState) (cause : CellCause) :
    (∀ d, (s.writeCell c f new cause).insertion d = s.insertion d) ∧
      (s.writeCell c f new cause).cell c = { f (s.cell c) with state := new } ∧
      (∀ m, (s.writeCell c f new cause).lot m = s.lot m) ∧ (s.writeCell c f new cause).hm = s.hm ∧
      (s.writeCell c f new cause).de = s.de := by
  have hcell := s.cell_modCell_same c fun x => { f x with state := new }
  unfold State.writeCell
  dsimp only
  split <;> exact ⟨fun _ => rfl, hcell, fun _ => rfl, rfl, rfl⟩

/-- A cell record changed and recorded leaves the insertions, the lots and the holds; a pass called for stays called for. -/
theorem State.recordCell_stands (s : State) (c : CellNo) (f : Cell → Cell) (new : CellState) (cause : CellCause) :
    (∀ d, (s.recordCell c f new cause).insertion d = s.insertion d) ∧
      (s.recordCell c f new cause).cell c = { f (s.cell c) with state := new } ∧
      (∀ m, (s.recordCell c f new cause).lot m = s.lot m) ∧ (s.recordCell c f new cause).hm = s.hm ∧
      (s.de.passPending = true → (s.recordCell c f new cause).de.passPending = true) := by
  obtain ⟨h1, h2, h3, h4, h5⟩ := s.writeCell_stands c f new cause
  unfold State.recordCell
  dsimp only
  split
  · exact ⟨h1, h2, h3, h4, fun _ => rfl⟩
  · exact ⟨h1, h2, h3, h4, fun e => by rw [h5, e]⟩

/-- The end of a run's close at a linked cell that no reservation names: the record cleared, the history kept, the lots and
the holds as they stand. -/
theorem State.finishClose_vacates (hl : s.Linked c) (hr : s.reservationOf c = none) (hy : s.lot i.lot = some y)
    (hship : y.ship = none) (outcome : RunOutcome) :
    let t := (s.setHistory c i).finishClose c i outcome
    t.insertion c = none ∧ (t.cell c).slot.desired = none ∧ (t.cell c).lastRecipe = some i.recipe ∧
      (t.cell c).lastTemp = some (s.recipe i.recipe).temp ∧ (∀ m, t.lot m = s.lot m) ∧ t.hm = s.hm ∧
      (s.de.passPending = true → t.de.passPending = true) := by
  -- the record cleared, before the cell's state is derived
  let g : Cell → Cell := Cell.left i.recipe (s.recipe i.recipe).temp
  let v := s.setInsertion c none
  have hclear : (s.setHistory c i).clearInsertion c = v.modCell c g := modCell_modCell v c
    (fun z => { z with lastRecipe := some i.recipe, lastTemp := some (s.recipe i.recipe).temp })
    (fun z => { z with slot := { z.slot with desired := none } })
  have hins : v.insertion c = none := (State.insertion_setInsertion s c c none).trans (if_pos rfl)
  have hlinked : (v.modCell c g).Linked c := (State.linked_modCell (f := g) rfl rfl).mpr hl
  have hnew : (v.modCell c g).derivedState c ≠ .parked := by
    rw [State.derivedState_linked hlinked]
    split
    · simp
    · exact (State.standing_calm _ c).1
  have hderive := State.deriveCell_vacant (s := v) (f := g) (c := c) rfl rfl hins hr (fun e => absurd e hnew) .insertion
  let w := v.recordCell c g ((v.modCell c g).derivedState c) .insertion
  obtain ⟨h1, h2, h3, h4, h5⟩ := v.recordCell_stands c g ((v.modCell c g).derivedState c) .insertion
  have hend : ∃ e, (s.setHistory c i).finishClose c i outcome = w.report e := by
    have hnotice (e : Report) : (w.report e).notice i.lot = w.report e :=
      State.notice_none (y := y) ((h3 i.lot).trans hy) hship
    unfold State.finishClose
    dsimp only
    rw [hclear, hderive]
    exact ⟨_, hnotice _⟩
  obtain ⟨e, he⟩ := hend
  intro t
  have ht : t = w.report e := he
  rw [ht]
  refine ⟨(h1 c).trans hins, ?_, ?_, ?_, h3, h4, h5⟩
  · exact congrArg (fun x => x.slot.desired) h2
  · exact congrArg Cell.lastRecipe h2
  · exact congrArg Cell.lastTemp h2

/-! ## The lot of an aborted run -/

theorem State.pauseRequest_de (s : State) (c : CellNo) (f : PauseSet → PauseSet) : (s.pauseRequest c f).de = s.de := by
  rw [State.pauseRequest_rest]

theorem State.quarantine_de (hr : s.reservationOfLot l = none) (m : QuarantineMatter) : (s.quarantine l m).de = s.de := by
  have hsync (v : State) : (v.syncHold l).de = v.de := by
    unfold State.syncHold
    split
    · exact State.pauseRequest_de _ _ _
    · rfl
  have hcancel (v : State) (hv : v.de = s.de) : ((v.syncHold l).cancelOfLot l .quarantine).de = s.de := by
    have hde : (v.syncHold l).de = s.de := (hsync v).trans hv
    have hnone : (v.syncHold l).reservationOfLot l = none := by
      unfold State.reservationOfLot at hr ⊢
      rw [hde, hr]
    rw [State.cancelOfLot_none hnone, hde]
  unfold State.quarantine
  split
  · rfl
  · split
    · rfl
    · exact hcancel _ rfl

/-- The quarantine of an exhausted step leaves a QUEUED lot but for its flag, the holds and the dispatch state (R7, R107). -/
theorem State.quarantineExhausted_queued (hy : s.lot l = some y) (hs : y.state = .queued)
    (hr : s.reservationOfLot l = none) :
    s.Near (s.quarantineExhausted l) ∧ (s.quarantineExhausted l).de = s.de ∧ (s.quarantineExhausted l).hm = s.hm ∧
      ∃ q, (s.quarantineExhausted l).lot l = some { y with quarantined := q } := by
  rw [State.quarantineExhausted_of hy]
  split
  · have hbeside := (State.Beside.refl l s).quarantine hr (.exhausted 4)
    obtain ⟨hm, y', hy', hbody⟩ := State.lot_quarantine hy (by simp [hs]) (by simp [hs]) (.exhausted 4)
    obtain ⟨hs', q, hz⟩ := hbeside.lot y hy
    have hholds : hs' = y.holds := by
      rw [hz] at hy'
      cases hy'
      exact congrArg Lot.holds hbody
    exact ⟨hbeside.toNear, State.quarantine_de hr _, hm, q, by rw [hz, hholds]⟩
  · exact ⟨.refl s, rfl, rfl, y.quarantined, hy⟩

/-- A SOFT hold of origin RECONCILE asked for, and the lot QUEUED, with the quarantine of an exhausted step (R83, R7). -/
theorem State.abort_lot (hy : s.lot l = some y) (hs : y.state = .inTest) (hr : s.reservationOfLot l = none) (c : CellNo) :
    let t := ((s.engineHold l c .reconcile .soft).returnLot l).quarantineExhausted l
    s.Near t ∧ t.de.passPending = true ∧ ∃ z, t.lot l = some z ∧ z.state = .queued ∧ z.current = y.current ∧
      z.steps = y.steps ∧ z.ship = y.ship ∧
      (y.holds.length < 4 → s.hm.holds.length < 256 → ∃ h, t.hm.holds = s.hm.holds ++ [h] ∧ h.lot = l ∧
        h.origin = .reconcile ∧ h.holdClass = .soft ∧ h.cell = some c ∧ h.state = .opened ∧
        z.holds = y.holds ++ [h.id]) := by
  let r : HoldRequest := { origin := .reconcile, limit := none, reason := none, holdClass := .soft, cell := some c }
  -- the hold, the lot's return, and the quarantine
  let v := (s.holdRequest l r).1
  have hv : s.Beside l v := (State.Beside.refl l s).holdRequest hr r
  obtain ⟨hs', q, hvy⟩ := hv.lot y hy
  have hroom := (holdRequest_cases s l y r hy (by simp [r])).2.1 (by simp [hs]) (by simp [hs])
  have hvr : v.reservationOfLot l = none := (hv.toNear.reservationOfLot l).trans hr
  let w := v.setLotState l .queued
  have hreturn : v.returnLot l = w := State.returnLot_of hvy (by simp [hs])
  have hw := (State.CellsStand.refl v).setLotState l .queued
  have hwy := State.lot_setLotState hvy .queued
  have hwr : w.reservationOfLot l = none := (hw.near.reservationOfLot l).trans hvr
  have hwhm : w.hm = v.hm := ((State.LotsStand.refl v).setLotState l .queued).hm
  obtain ⟨hnear, hde, hhm, q', hz⟩ := State.quarantineExhausted_queued hwy rfl hwr
  intro t
  have ht : t = w.quarantineExhausted l := congrArg (State.quarantineExhausted l) hreturn
  rw [ht]
  refine ⟨hv.toNear.trans (hw.near.trans hnear), ?_, _, hz, rfl, rfl, rfl, rfl, fun h1 h2 => ?_⟩
  · rw [hde]
    exact State.setLotState_queued_passPending hvy (by simp [hs])
  · obtain ⟨h, y', hhold, hlot, -, horigin, hclass, hcell, hstate, -, hy', hholds⟩ := hroom h1 h2
    have hsame : hs' = y'.holds := by
      rw [show v.lot l = some y' from hy'] at hvy
      cases hvy
      rfl
    refine ⟨h, ?_, hlot, horigin, hclass, hcell, hstate, ?_⟩
    · rw [hhm, hwhm, show v.hm = _ from hhold]
    · exact hsame.trans hholds

end Sys2Proof.Machine
end

section
/-! SUPPORT. An IDENT as one action (R24, R64, R82, R83, R130). -/

namespace Sys2Proof.Machine

variable {s t u v w : State} {p : PortNo} {address : Byte} {c d : CellNo} {i j : Insertion} {f : IdentFrame} {id : Identity}
variable {x y z : Lot} {l : LotSlot} {r : Reservation}

theorem State.Near.linked (h : s.Near t) (k : s.Linked c) : t.Linked c := by
  obtain ⟨o, ho⟩ := h.cell c
  exact k.congr (by rw [ho]) (by rw [ho]) h.ports

theorem State.Near.reservationOf (h : s.Near t) (c : CellNo) : t.reservationOf c = s.reservationOf c := by
  unfold State.reservationOf
  rw [h.reservations]

theorem State.Near.recipe (h : s.Near t) (n : RecipeNo) : t.recipe n = s.recipe n := by
  unfold State.recipe State.recipe?
  rw [h.recipes]

/-! ## The whole abort (R83) -/

/-- What an aborted run leaves of its lot `y` in the step `k`: the run entry closed ABORTED, the lot QUEUED with the hold
unless it is SCRAPPED (R83). -/
structure State.Aborted (s t : State) (c : CellNo) (l : LotSlot) (k : Nat) (y z : Lot) : Prop where
  lot : t.lot l = some z
  step : z.step k = { y.step k with runs := (z.step k).runs }
  last : (z.step k).runs.getLast? = (y.step k).runs.getLast?.map fun r => { r with
    endSecond := some s.ft.clock, outcome := some .aborted }
  scrapped : y.state = .scrapped → z.state = .scrapped ∧ z.holds = y.holds ∧ t.hm = s.hm
  queued : y.state = .inTest → z.state = .queued ∧ z.current = y.current ∧ t.de.passPending = true ∧
    (y.holds.length < 4 → s.hm.holds.length < 256 → ∃ h, t.hm.holds = s.hm.holds ++ [h] ∧ h.lot = l ∧
      h.origin = .reconcile ∧ h.holdClass = .soft ∧ h.cell = some c ∧ h.state = .opened ∧ z.holds = y.holds ++ [h.id])

/-- The lot and the holds of an aborted run, before the cell is vacated. -/
theorem State.closeRun_aborted (hy : s.lot i.lot = some y) (hs : y.state = .inTest ∨ y.state = .scrapped) (h1 : 1 ≤ i.step)
    (h2 : i.step ≤ y.steps.length) (hr : s.reservationOfLot i.lot = none) (c : CellNo) :
    let v := s.closeRun i .aborted
    let t := if v.scrappedAt i.lot then v else ((v.engineHold i.lot c .reconcile .soft).returnLot i.lot).quarantineExhausted i.lot
    s.Near t ∧ ∃ z, s.Aborted t c i.lot i.step y z ∧ z.ship = y.ship := by
  intro v t
  let y' := y.changeStep s.lm.recipes i.step (LotStep.closeLast s.ft.clock .aborted)
  have hv : v.lot i.lot = some y' := State.lot_changeStep hy
  have hnear : s.Near v := ((State.CellsStand.refl s).changeStep _ _ _).near
  have hstep : y'.step i.step = (y.step i.step).closeLast s.ft.clock .aborted := Lot.step_changeStep h1 h2
  have hrec : y'.step i.step = { y.step i.step with runs := (y'.step i.step).runs } := by rw [hstep]; rfl
  have hlast : (y'.step i.step).runs.getLast? = (y.step i.step).runs.getLast?.map fun r => { r with
      endSecond := some s.ft.clock, outcome := some .aborted } := by
    rw [hstep]
    exact modLastRun_getLast _ _
  have hscrapped : v.scrappedAt i.lot = decide (y.state = .scrapped) := by
    unfold State.scrappedAt
    rw [hv]
    rfl
  by_cases hsc : y.state = .scrapped
  · have ht : t = v := if_pos (by rw [hscrapped, hsc]; rfl)
    rw [ht]
    exact ⟨hnear, y', ⟨hv, hrec, hlast, fun _ => ⟨hsc, rfl, rfl⟩, fun e => by simp [hsc] at e⟩, rfl⟩
  · have hin := hs.resolve_right hsc
    have ht : t = ((v.engineHold i.lot c .reconcile .soft).returnLot i.lot).quarantineExhausted i.lot :=
      if_neg (by rw [hscrapped]; simp [hsc])
    have hin' : y'.state = .inTest := hin
    obtain ⟨hnear', hpass, z, hz, hstate, hcurrent, hsteps, hship, hroom⟩ := State.abort_lot hv hin'
      ((hnear.reservationOfLot _).trans hr) c
    have hzstep : z.step i.step = y'.step i.step := by
      unfold Lot.step
      rw [hsteps]
    rw [ht]
    refine ⟨hnear.trans hnear', z, ⟨hz, ?_, ?_, fun e => absurd e hsc, fun _ => ⟨hstate, hcurrent, hpass, hroom⟩⟩, hship⟩
    · rw [hzstep]
      exact hrec
    · rw [hzstep]
      exact hlast

/-- A run aborted by a fresh tap, at a linked cell that no reservation names (R83). -/
theorem State.freshAbort_of (hl : s.Linked c) (hr : s.reservationOf c = none) (hrl : s.reservationOfLot i.lot = none)
    (hy : s.lot i.lot = some y) (hs : y.state = .inTest ∨ y.state = .scrapped) (h1 : 1 ≤ i.step)
    (h2 : i.step ≤ y.steps.length) (hship : y.ship = none) :
    let t := s.freshAbort c i
    t.insertion c = none ∧ (t.cell c).slot.desired = none ∧ (t.cell c).lastRecipe = some i.recipe ∧
      (t.cell c).lastTemp = some (s.recipe i.recipe).temp ∧ ∃ z, s.Aborted t c i.lot i.step y z := by
  obtain ⟨hnear, z, hz, hzship⟩ := State.closeRun_aborted hy hs h1 h2 hrl c
  obtain ⟨k1, k2, k3, k4, k5, k6, k7⟩ := State.finishClose_vacates (hnear.linked hl) ((hnear.reservationOf c).trans hr)
    hz.lot (hzship.trans hship) .aborted
  rw [hnear.recipe] at k4
  exact ⟨k1, k2, k3, k4, z, (k5 i.lot).trans hz.lot, hz.step, hz.last,
    fun e => (hz.scrapped e).imp_right (·.imp_right k6.trans), fun e => by
      obtain ⟨m1, m2, m3, m4⟩ := hz.queued e
      refine ⟨m1, m2, k7 m3, fun n1 n2 => ?_⟩
      obtain ⟨h, hh, hrest⟩ := m4 n1 n2
      exact ⟨h, (congrArg HoldManager.holds k6).trans hh, hrest⟩⟩

/-! ## The insertion after the derivation (R27, R80) -/

theorem State.FloorMoves.suspend (h : s.FloorMoves t) (c : CellNo) : s.FloorMoves (t.suspend c) := by
  cases hi : t.insertion c with
  | none =>
    rw [State.suspend_vacant hi]
    exact h
  | some i =>
    by_cases hs : i.state = .suspended
    · rw [State.suspend_resting hi hs]
      exact h.modInsertion c _
    · rw [State.suspend_active hi hs]
      have k := (h.modInsertion c fun j => { j with
        before := some i.state, state := .suspended, sampleVoid := true, resyncPending := false }).report
          (.insertionEvent c i.lot (some i.state) (some .suspended) .suspend)
      dsimp only
      split
      · exact k.modCell c _
      · exact k

/-- Suspension leaves an insertion's run record and the state it is taken by. -/
theorem State.suspend_run (hi : s.insertion c = some i) :
    ∃ j, (s.suspend c).insertion c = some j ∧ j.run = i.run ∧ j.takenBy = i.takenBy := by
  by_cases hs : i.state = .suspended
  · rw [State.suspend_resting hi hs]
    exact ⟨_, State.insertion_modInsertion_same hi _, rfl, rfl⟩
  · let j : Insertion := { i with before := some i.state, state := .suspended, sampleVoid := true, resyncPending := false }
    have hj : (s.suspend c).insertion c = some j := by
      rw [State.suspend_active hi hs]
      dsimp only
      split <;> exact State.insertion_modInsertion_same hi _
    exact ⟨j, hj, rfl, (if_pos rfl).trans (if_neg hs).symm⟩

theorem State.suspend_suspends (hi : s.insertion c = some i) (hj : (s.suspend c).insertion c = some j) :
    j.state = .suspended := by
  by_cases hs : i.state = .suspended
  · rw [State.suspend_resting hi hs, State.insertion_modInsertion_same hi] at hj
    cases hj
    exact hs
  · rw [State.suspend_active hi hs] at hj
    have hins := State.insertion_modInsertion_same hi fun j => { j with
      before := some i.state, state := .suspended, sampleVoid := true, resyncPending := false }
    dsimp only at hj
    split at hj
    · cases hins.symm.trans hj
      rfl
    · cases hins.symm.trans hj
      rfl

/-- A cell with an insertion that adopts an identity: lots, holds and dispatch state as they stand, the run record kept, and
the cell linked. -/
theorem State.deriveCell_adopt_occupied (h : s.Hears p address c) (hw : (s.port p).inWindow address.toNat = true)
    (hi : s.insertion c = some i) (hr : s.reservationOf c = none) (id : Identity) :
    let w := ((s.heardIn p c).modCell c (Cell.adopt id)).deriveCell c .ident
    s.FloorMoves w ∧ w.de = s.de ∧ w.ft = s.ft ∧ w.Linked c ∧
      ∃ j, w.insertion c = some j ∧ j.run = i.run ∧ j.takenBy = i.takenBy := by
  intro w
  obtain ⟨hdiffers, hsame⟩ := State.derivedState_adopt h hw id
  have hfloor (new : CellState) : s.FloorMoves ((s.heardIn p c).adopted c id new) := by
    unfold State.adopted
    dsimp only
    split <;> exact ⟨rfl, rfl, rfl⟩
  have hde (new : CellState) : ((s.heardIn p c).adopted c id new).de = s.de := (State.adopted_stands _ c id new).1
  have hins (new : CellState) : ((s.heardIn p c).adopted c id new).insertion c = some i := by
    rw [State.adopted_insertion]
    exact hi
  obtain ⟨-, hkeeps, -⟩ := ((s.heardIn p c).modCell c (Cell.adopt id)).core_deriveCell c .ident
  have hreports := ((State.SameReports.refl ((s.heardIn p c).modCell c (Cell.adopt id))).deriveCell c .ident) c
  have hlinked : w.Linked c := (State.linked_adopt h hw id).congr hreports.heard hreports.mapping hkeeps.ports
  have hcases : (∃ new, w = (s.heardIn p c).adopted c id new) ∨ ∃ new, w = ((s.heardIn p c).adopted c id new).suspend c := by
    by_cases hd : (s.cell c).Differs id
    · have hderive := State.deriveCell_adopt_mismatch (hdiffers hd)
      by_cases e : ((s.heardIn p c).cell c).state = .mismatch
      · exact .inl ⟨_, hderive.trans (if_pos e)⟩
      · have hnone : (((s.heardIn p c).adopted c id .mismatch).suspend c).reservationOf c = none := by
          unfold State.reservationOf at hr ⊢
          rw [State.suspend_de, hde, hr]
        exact .inr ⟨_, hderive.trans ((if_neg e).trans (State.cancelFor_none hnone _))⟩
    · have hbusy : s.standing c = .busy := by
        unfold State.standing
        rw [hi]
        rfl
      exact .inl ⟨_, State.deriveCell_adopt_calm ((hsame hd).trans hbusy) (by simp) (by simp)⟩
  have hft : w.ft = s.ft := hkeeps.ft
  rcases hcases with ⟨new, e⟩ | ⟨new, e⟩
  · exact ⟨by rw [e]; exact hfloor new, by rw [e, hde], hft, hlinked, i, by rw [e, hins], rfl, rfl⟩
  · obtain ⟨j, hj, hrun⟩ := State.suspend_run (hins new)
    exact ⟨by rw [e]; exact (hfloor new).suspend c, by rw [e, State.suspend_de, hde], hft, hlinked, j, by rw [e, hj], hrun⟩

/-! ## The reservation of a cell that enters MISMATCH (R130) -/

theorem State.reservationOf_cell (h : s.reservationOf c = some r) : r.cell = c := by
  have hfound := List.find?_some h
  simpa using hfound

/-- The cancellation of an entry whose lot is not QUEUED yet (R130). -/
theorem State.cancelEntry_of (hy : s.lot r.lot = some y) (hs : y.state ≠ .queued) (cause : CancelCause) :
    s.cancelEntry cause r =
      (((((s.deleteReservation r.cell).report (.reservationCancelled r.lot r.cell cause r.score)).setLot r.lot
        (some { y with state := .queued, ready := s.minute })).joinQueue r.lot).triggerPass).report
          (.lotState r.lot (some y.state) (some .queued) y.current) := by
  let w := (s.deleteReservation r.cell).report (.reservationCancelled r.lot r.cell cause r.score)
  have hw : w.lot r.lot = some y := hy
  have hmod := State.modLot_of hw fun x => { x with state := .queued, ready := w.minute }
  show w.setLotState r.lot .queued = _
  rw [State.setLotState_enter hw hs, State.requeue, hmod]
  rfl

end Sys2Proof.Machine
end

section
/-! SUPPORT. The cases of an IDENT in range, and the obligation on it (R24, R27, R64, R80, R82, R83, R130). -/

namespace Sys2Proof.Machine

variable {s t : State} {p : PortNo} {address : Byte} {c : CellNo} {i : Insertion} {f : IdentFrame} {id : Identity}
variable {y : Lot} {r : Reservation} {new : CellState}

/-- The cell whose good frame has been adopted, with its new state, recorded when it is another (R24, R33, R44). -/
def State.identified (s : State) (p : PortNo) (c : CellNo) (id : Identity) (new : CellState) : State :=
  let x := s.cell c
  let u := (s.heardIn p c).modCell c fun y => { y with
    reported := some id, heard := true, state := new, measured := if x.reportsOther id then 0 else y.measured
    lastRecipe := if x.reportsOther id then none else y.lastRecipe
    lastTemp := if x.reportsOther id then none else y.lastTemp }
  if new = x.state then u else u.report (.cellState c x.state new .ident)

theorem State.adopted_heardIn (s : State) (p : PortNo) (c : CellNo) (id : Identity) (new : CellState) :
    (s.heardIn p c).adopted c id new = s.identified p c id new := by
  unfold State.adopted State.identified
  rw [State.heardIn_cell]
  rfl

theorem State.identified_cell (s : State) (p : PortNo) (c : CellNo) (id : Identity) (new : CellState) :
    ((s.identified p c id new).cell c).state = new ∧ ((s.identified p c id new).cell c).kitCode = some id.kitCode ∧
      ((s.identified p c id new).cell c).slot = (s.cell c).slot := by
  rw [← State.adopted_heardIn, State.adopted_cell, Cell.adopt_eq, State.heardIn_cell]
  exact ⟨rfl, rfl, rfl⟩

theorem State.identified_stands (s : State) (p : PortNo) (c : CellNo) (id : Identity) (new : CellState) :
    (s.identified p c id new).insertions = s.insertions ∧ (s.identified p c id new).de = s.de ∧
      (s.identified p c id new).lm = s.lm ∧ (s.identified p c id new).ft = s.ft := by
  unfold State.identified
  dsimp only
  split <;> exact ⟨rfl, rfl, rfl, rfl⟩

theorem State.identified_insertion (s : State) (p : PortNo) (c : CellNo) (id : Identity) (new : CellState) (d : CellNo) :
    (s.identified p c id new).insertion d = s.insertion d := by
  rw [State.insertion, (s.identified_stands p c id new).1]
  rfl

theorem State.ident_inRange (h : s.Hears p address c) (hf : IdentInRange f) :
    exec (.ident p address f) s = .next
      ((((s.heardIn p c).modCell c (Cell.adopt (reportedBy f))).deriveCell c .ident).deliverIdent c f.fresh) := by
  rw [State.ident_hears h, State.takeIdent_inRange hf]

/-! ## Without an insertion -/

/-- A cell without insertion and reservation takes its state by the identity and the service flag. -/
theorem State.ident_vacant (h : s.Hears p address c) (hf : IdentInRange f) (hi : s.insertion c = none)
    (hr : s.reservationOf c = none) (hw : (s.port p).inWindow address.toNat = true)
    (hd : ((s.cell c).Differs (reportedBy f) → new = .mismatch) ∧
      (¬ (s.cell c).Differs (reportedBy f) → new = if (s.cell c).service then .idle else .outOfService)) :
    exec (.ident p address f) s = .next (if new = .idle ∧ (s.cell c).state ≠ .idle
      then (s.identified p c (reportedBy f) new).triggerPass else s.identified p c (reportedBy f) new) := by
  have hi' : (s.heardIn p c).insertion c = none := hi
  have hr' : (s.heardIn p c).reservationOf c = none := hr
  obtain ⟨hdiffers, hsame⟩ := State.derivedState_adopt h hw (reportedBy f)
  have hstand : s.standing c = if (s.cell c).service then .idle else .outOfService := by
    unfold State.standing
    rw [hi, hr]
    rfl
  have hnew : ((s.heardIn p c).modCell c (Cell.adopt (reportedBy f))).derivedState c = new := by
    by_cases e : (s.cell c).Differs (reportedBy f)
    · rw [hdiffers e, hd.1 e]
    · rw [hsame e, hstand, hd.2 e]
  have hpark : new ≠ .parked := by
    by_cases e : (s.cell c).Differs (reportedBy f)
    · simp [hd.1 e]
    · rw [hd.2 e]
      split <;> simp
  have hderive := State.deriveCell_vacant (by rw [Cell.adopt_eq]) hnew hi' hr' (fun e => absurd e hpark) .ident
  have hins : ((s.heardIn p c).recordCell c (Cell.adopt (reportedBy f)) new .ident).insertion c = none :=
    (State.recordCell_stands _ c _ new .ident).1 c |>.trans hi'
  rw [State.ident_inRange h hf, hderive, State.deliverIdent_vacant hins, State.recordCell, State.writeCell_adopt,
    State.adopted_heardIn, heardIn_state]

/-- Entry into MISMATCH cancels the reservation of a cell without insertion (R130). -/
theorem State.ident_reserved (h : s.Hears p address c) (hf : IdentInRange f)
    (hw : (s.port p).inWindow address.toNat = true) (hi : s.insertion c = none) (hr : s.reservationOf c = some r)
    (hy : s.lot r.lot = some y) (hs : y.state ≠ .queued) (hd : (s.cell c).Differs (reportedBy f))
    (hm : (s.cell c).state ≠ .mismatch) :
    exec (.ident p address f) s = .next ((s.identified p c (reportedBy f) .mismatch).cancelEntry .mismatch r) := by
  have hins : ((s.heardIn p c).adopted c (reportedBy f) .mismatch).insertion c = none := by
    rw [State.adopted_insertion]
    exact hi
  have hres : ((s.heardIn p c).adopted c (reportedBy f) .mismatch).reservationOf c = some r := by
    unfold State.reservationOf
    rw [(State.adopted_stands _ c _ .mismatch).1]
    exact hr
  have hlot : ((s.heardIn p c).adopted c (reportedBy f) .mismatch).lot r.lot = some y := by
    rw [State.adopted_lot]
    exact hy
  have hcancel : ((s.heardIn p c).adopted c (reportedBy f) .mismatch).cancelFor c .mismatch =
      ((s.heardIn p c).adopted c (reportedBy f) .mismatch).cancelEntry .mismatch r := by
    unfold State.cancelFor
    rw [hres]
  have hderive := State.deriveCell_adopt_mismatch ((State.derivedState_adopt h hw (reportedBy f)).1 hd)
  rw [heardIn_state, if_neg hm, State.suspend_vacant hins, hcancel] at hderive
  have hafter : (((s.heardIn p c).adopted c (reportedBy f) .mismatch).cancelEntry .mismatch r).insertion c = none := by
    rw [State.cancelEntry_of hlot hs]
    exact hins
  rw [State.ident_inRange h hf, hderive, State.deliverIdent_vacant hafter, State.adopted_heardIn]

/-! ## With an insertion -/

/-- With an insertion, an identity that agrees makes the cell BUSY before the insertion takes the frame. -/
theorem State.ident_agrees (h : s.Hears p address c) (hf : IdentInRange f)
    (hw : (s.port p).inWindow address.toNat = true) (hi : s.insertion c = some i)
    (hd : ¬ (s.cell c).Differs (reportedBy f)) :
    exec (.ident p address f) s = .next ((s.identified p c (reportedBy f) .busy).deliverIdent c f.fresh) := by
  have hbusy : s.standing c = .busy := by
    unfold State.standing
    rw [hi]
    rfl
  rw [State.ident_inRange h hf, State.deriveCell_adopt_calm
    (((State.derivedState_adopt h hw (reportedBy f)).2 hd).trans hbusy) (by simp) (by simp), State.adopted_heardIn]

/-- With an insertion and no reservation, one that differs makes it MISMATCH, which suspends the insertion on entry. -/
theorem State.ident_differs (h : s.Hears p address c) (hf : IdentInRange f)
    (hw : (s.port p).inWindow address.toNat = true) (hd : (s.cell c).Differs (reportedBy f)) :
    ((s.cell c).state = .mismatch → exec (.ident p address f) s = .next
      ((s.identified p c (reportedBy f) .mismatch).deliverIdent c f.fresh)) ∧
    ((s.cell c).state ≠ .mismatch → s.reservationOf c = none → exec (.ident p address f) s = .next
      (((s.identified p c (reportedBy f) .mismatch).suspend c).deliverIdent c f.fresh)) := by
  have hderive := State.deriveCell_adopt_mismatch ((State.derivedState_adopt h hw (reportedBy f)).1 hd)
  rw [heardIn_state, State.adopted_heardIn] at hderive
  rw [State.ident_inRange h hf, hderive]
  refine ⟨fun e => by rw [if_pos e], fun e hr => ?_⟩
  have hnone : ((s.identified p c (reportedBy f) .mismatch).suspend c).reservationOf c = none := by
    unfold State.reservationOf at hr ⊢
    rw [State.suspend_de, (s.identified_stands p c (reportedBy f) .mismatch).2.1, hr]
  rw [if_neg e, State.cancelFor_none hnone]

end Sys2Proof.Machine
end

section
/-! OBLIGATION O26. A good IDENT becomes the reported identity (R24, R27, R64, R82, R83, R130). -/

namespace Sys2Proof.Machine

variable {s t : State} {p : PortNo} {address : Byte} {c : CellNo} {i : Insertion} {f : IdentFrame} {y : Lot}
variable {r : Reservation}

/-- An insertion in KIT_WAIT has no run to abort. -/
theorem Insertion.takenBy_kitWait (h : i.state = .kitWait) : i.takenBy.hasRun = false := by
  unfold Insertion.takenBy
  rw [h]
  rfl

/-- The insertion of a BUSY cell takes an IDENT by its state (R64, R82). -/
theorem State.ident_busy (h : s.Hears p address c) (hf : IdentInRange f) (hw : (s.port p).inWindow address.toNat = true)
    (hi : s.insertion c = some i) (hd : ¬ (s.cell c).Differs (reportedBy f)) :
    let v := s.identified p c (reportedBy f) .busy
    let r := s.recipe i.recipe
    let tag := nextTag (s.cell c).slot.tag
    (∀ y, i.state = .kitWait → (reportedBy f).kitCode = r.kitCode → s.lot i.lot = some y →
      exec (.ident p address f) s = .next
        (((v.modInsertion c fun j => { j with state := .loading, loadTimer := 30, loadTag := tag }).modCell c
          fun z => { z with slot := { z.slot with
            desired := some (.load r.programId r.temp i.siteMask i.expected y.lotNumber), tag := tag } }).report
              (.insertionEvent c i.lot (some .kitWait) (some .loading) .kitReady))) ∧
    (i.state = .kitWait → (reportedBy f).kitCode ≠ r.kitCode → exec (.ident p address f) s = .next v) ∧
    (i.state = .suspended → f.fresh = false ∨ i.takenBy.hasRun = false →
      exec (.ident p address f) s = .next (v.modInsertion c fun j => { j with resyncPending := true })) ∧
    (i.state ≠ .suspended → i.state ≠ .kitWait → f.fresh = false ∨ i.takenBy.hasRun = false →
      exec (.ident p address f) s = .next v) := by
  intro v r tag
  have hexec := State.ident_agrees h hf hw hi hd
  have hv : v.insertion c = some i := (s.identified_insertion p c _ .busy c).trans hi
  obtain ⟨hstate, hkit, hslot⟩ := s.identified_cell p c (reportedBy f) .busy
  obtain ⟨-, -, hlm, -⟩ := s.identified_stands p c (reportedBy f) .busy
  have hrecipe : v.recipe i.recipe = r := by
    unfold State.recipe State.recipe?
    rw [hlm]
    rfl
  have hlot (l : LotSlot) : v.lot l = s.lot l := by
    unfold State.lot
    rw [hlm]
  refine ⟨fun y hs hk hy => ?_, fun hs hk => ?_, fun hs hg => ?_, fun h1 h2 hg => ?_⟩
  · rw [hexec, State.deliverIdent_going hv (.inr (Insertion.takenBy_kitWait hs)), if_neg (by simp [hs]),
      if_pos ⟨hs, by rw [hkit, hk, hrecipe]⟩, State.requestLoad_kitReady hv hs ((hlot _).trans hy), hrecipe, hslot]
  · rw [hexec, State.deliverIdent_going hv (.inr (Insertion.takenBy_kitWait hs)), if_neg (by simp [hs]),
      if_neg (fun k => hk (by rw [hkit, hrecipe] at k; exact Option.some.inj k.2))]
  · rw [hexec, State.deliverIdent_going hv hg, if_pos hs, if_neg (by rw [hstate]; simp)]
  · rw [hexec, State.deliverIdent_going hv hg, if_neg h1, if_neg (fun k => h2 k.1)]

/-- The insertion of a MISMATCH cell is SUSPENDED and stays so (R27, R80). -/
theorem State.ident_mismatch (h : s.Hears p address c) (hf : IdentInRange f)
    (hw : (s.port p).inWindow address.toNat = true) (hi : s.insertion c = some i) (hd : (s.cell c).Differs (reportedBy f))
    (hg : f.fresh = false ∨ i.takenBy.hasRun = false) :
    ((s.cell c).state = .mismatch → i.state = .suspended →
      exec (.ident p address f) s = .next (s.identified p c (reportedBy f) .mismatch)) ∧
    ((s.cell c).state ≠ .mismatch → s.reservationOf c = none →
      exec (.ident p address f) s = .next ((s.identified p c (reportedBy f) .mismatch).suspend c)) := by
  obtain ⟨hstays, henters⟩ := State.ident_differs h hf hw hd
  have hv : (s.identified p c (reportedBy f) .mismatch).insertion c = some i :=
    (s.identified_insertion p c _ .mismatch c).trans hi
  have hstate := (s.identified_cell p c (reportedBy f) .mismatch).1
  refine ⟨fun e hs => ?_, fun e hr => ?_⟩
  · rw [hstays e, State.deliverIdent_going hv hg, if_pos hs, if_pos hstate]
  · obtain ⟨j, hj, -, htaken⟩ := State.suspend_run hv
    have hj' : j.state = .suspended := State.suspend_suspends hv hj
    have hcell : (((s.identified p c (reportedBy f) .mismatch).suspend c).cell c).state = .mismatch :=
      ((Still.suspend c).state c).trans hstate
    rw [henters e hr, State.deliverIdent_going hj (by rw [htaken]; exact hg), if_pos hj', if_pos hcell]

/-- A fresh tap aborts the run of the cell's insertion (R83). -/
theorem State.ident_fresh (h : s.Hears p address c) (hf : IdentInRange f) (hw : (s.port p).inWindow address.toNat = true)
    (hi : s.insertion c = some i) (hfresh : f.fresh = true) (hrun : i.takenBy.hasRun = true) (hy : s.lot i.lot = some y)
    (hs : y.state = .inTest ∨ y.state = .scrapped) (h1 : 1 ≤ i.step) (h2 : i.step ≤ y.steps.length)
    (hr : s.reservationOf c = none) (hrl : s.reservationOfLot i.lot = none) (hship : y.ship = none) :
    ∃ t z, exec (.ident p address f) s = .next t ∧ t.insertion c = none ∧ (t.cell c).slot.desired = none ∧
      (t.cell c).lastRecipe = some i.recipe ∧ (t.cell c).lastTemp = some (s.recipe i.recipe).temp ∧
      s.Aborted t c i.lot i.step y z := by
  obtain ⟨hfloor, hde, hft, hlinked, j, hj, hsame, htaken⟩ := State.deriveCell_adopt_occupied h hw hi hr (reportedBy f)
  generalize hv : ((s.heardIn p c).modCell c (Cell.adopt (reportedBy f))).deriveCell c .ident = v at *
  have hlot : j.lot = i.lot := congrArg RunRecord.lot hsame
  have hstep : j.step = i.step := congrArg RunRecord.step hsame
  have hrecipe : j.recipe = i.recipe := congrArg RunRecord.recipe hsame
  have hvy : v.lot j.lot = some y := by rw [hlot, hfloor.lot, hy]
  have hvr : v.reservationOf c = none := by
    unfold State.reservationOf at hr ⊢
    rw [hde, hr]
  have hvrl : v.reservationOfLot j.lot = none := by
    unfold State.reservationOfLot at hrl ⊢
    rw [hde, hlot, hrl]
  obtain ⟨k1, k2, k3, k4, z, hz⟩ := State.freshAbort_of hlinked hvr hvrl hvy hs (by rw [hstep]; exact h1)
    (by rw [hstep]; exact h2) hship
  have hrecord : v.recipe i.recipe = s.recipe i.recipe := by
    unfold State.recipe State.recipe?
    rw [hfloor.lm]
  rw [hrecipe] at k3 k4
  rw [hlot, hstep] at hz
  refine ⟨v.freshAbort c j, z, ?_, k1, k2, k3, by rw [k4, hrecord], hz.lot, hz.step, by rw [hz.last, hft], ?_, ?_⟩
  · rw [State.ident_inRange h hf, hv, State.deliverIdent_fresh hj hfresh (by rw [htaken, hrun])]
  · rw [← hfloor.hm]
    exact hz.scrapped
  · rw [← hfloor.hm]
    exact hz.queued

theorem State.setLot_lm (h : t.lm = s.lm) (l : LotSlot) (x : Option Lot) : (t.setLot l x).lm = (s.setLot l x).lm := by
  unfold State.setLot
  rw [h]

/-- The queue that a lot joins depends on the lots alone. -/
theorem State.joinQueue_lm (h : t.lm = s.lm) (l : LotSlot) : (t.joinQueue l).lm = (s.joinQueue l).lm := by
  have hbefore : t.queueBefore = s.queueBefore := by
    funext a b
    unfold State.queueBefore State.lot
    rw [h]
  unfold State.joinQueue
  rw [hbefore, h]

/-- What the cancellation leaves of a cell that has entered MISMATCH, and of the lot of its reservation (R130). -/
theorem State.ident_cancels {id : Identity} (hr : s.reservationOf c = some r) (hy : s.lot r.lot = some y)
    (hs : y.state ≠ .queued) (hm : (s.cell c).state ≠ .mismatch) :
    let t := (s.identified p c id .mismatch).cancelEntry .mismatch r
    let back := (s.setLot r.lot (some { y with state := .queued, ready := s.minute })).joinQueue r.lot
    (t.cell c).state = .mismatch ∧
      t.de = { s.de with passPending := true, reservations := s.de.reservations.filter fun e => e.cell ≠ c } ∧
      t.lot r.lot = some { y with state := .queued, ready := s.minute } ∧ t.lm.queue = back.lm.queue ∧
      t.ru = ((s.ru.append s.ft.clock (.cellState c (s.cell c).state .mismatch .ident)).append s.ft.clock
        (.reservationCancelled r.lot c .mismatch r.score)).append s.ft.clock
          (.lotState r.lot (some y.state) (some .queued) y.current) := by
  intro t back
  obtain ⟨-, hde, hlm, hft⟩ := s.identified_stands p c id .mismatch
  have hcell := (s.identified_cell p c id .mismatch).1
  have hru : (s.identified p c id .mismatch).ru =
      s.ru.append s.ft.clock (.cellState c (s.cell c).state .mismatch .ident) :=
    congrArg State.ru (if_neg (Ne.symm hm))
  have hrc : r.cell = c := State.reservationOf_cell hr
  have hvy : (s.identified p c id .mismatch).lot r.lot = some y := by
    rw [State.lot, hlm]
    exact hy
  have ht : t = _ := State.cancelEntry_of hvy hs .mismatch
  clear_value t
  generalize s.identified p c id .mismatch = v at *
  have hminute : v.minute = s.minute := by rw [State.minute, hft]; rfl
  have hset : (((v.deleteReservation r.cell).report (.reservationCancelled r.lot r.cell .mismatch r.score)).setLot r.lot
      (some { y with state := .queued, ready := v.minute })).lm =
        (s.setLot r.lot (some { y with state := .queued, ready := s.minute })).lm := by
    rw [hminute]
    exact State.setLot_lm (t := (v.deleteReservation r.cell).report _) hlm r.lot _
  have htlm : t.lm = back.lm := by
    refine (congrArg State.lm ht).trans ?_
    exact State.joinQueue_lm hset r.lot
  refine ⟨?_, ?_, ?_, congrArg _ htlm, ?_⟩
  · rw [ht]
    exact hcell
  · rw [ht, ← hde, ← hrc]
    rfl
  · rw [State.lot, htlm]
    exact (State.lot_setLot s r.lot r.lot _).trans (if_pos rfl)
  · rw [ht, ← hru, ← hft, ← hrc]
    rfl

/-- Settles O26. -/
theorem identIsAdopted : Obligations.IdentIsAdopted := by
  unfold Obligations.IdentIsAdopted
  intro s p c address f h inRange d
  refine ⟨fun hf => ?_, fun hf hi hr hw => ?_, fun hf => ?_, fun hf hw => ?_⟩
  · rw [State.ident_hears h, State.takeIdent_outside hf]
    rfl
  · refine State.ident_vacant h hf hi hr hw ⟨fun e => ?_, fun e => ?_⟩
    · exact if_pos e
    · exact if_neg e
  · obtain ⟨hreported, hheard⟩ := State.takeIdent_reports hf (s.heardIn p c) c
    exact ⟨_, State.ident_hears h f, hreported, hheard⟩
  · intro x other differs adopted
    refine ⟨fun i hi hd => State.ident_busy h hf hw hi hd, fun i hi hd hg => ?_,
      fun i y hi hfresh hrun hy hs hc h1 h2 hr hrl hship => ?_, fun r y hi hr hy hs hd hm => ?_⟩
    · obtain ⟨hstays, henters⟩ := State.ident_mismatch h hf hw hi hd hg
      have hv : (s.identified p c (reportedBy f) .mismatch).insertion c = some i :=
        (s.identified_insertion p c _ .mismatch c).trans hi
      refine ⟨hstays, fun hm hr => ⟨fun hs => ?_, fun hs => ?_⟩⟩
      · rw [henters hm hr, State.suspend_resting hv hs]
        rfl
      · rw [henters hm hr, State.suspend_active hv hs]
        rfl
    · obtain ⟨t, z, hexec, k1, k2, k3, k4, hz⟩ := State.ident_fresh h hf hw hi hfresh hrun hy hs h1 h2 hr hrl hship
      exact ⟨t, z, hexec, k1, k2, k3, k4, hz.lot, hz.step, hz.last, hz.scrapped, hz.queued⟩
    · have hexec := State.ident_reserved h hf hw hi hr hy (by simp [hs]) hd hm
      exact ⟨_, hexec, State.ident_cancels hr hy (by simp [hs]) hm |>.imp_right fun k => by rw [hs] at k; exact k⟩

end Sys2Proof.Machine
end

section
/-! SUPPORT. The turns of the CellLink ports: the bytes of the frames sent (R45, R46), the cell whose turn it is (R41), and how
frames and silence end a turn or take a place in it (R44, R46, R47). -/

namespace Sys2Proof.Machine

variable {s : State} {p : PortNo} {c : CellNo} {t : Turn} {address : Byte}

/-! ## Places of a turn (R44, R46, R47) -/

theorem State.modPort_congr {f g : Port → Port} (h : f (s.port p) = g (s.port p)) : s.modPort p f = s.modPort p g := by
  unfold State.modPort
  rw [h]

/-- The turn that a frame leaves which takes a place of it: the turn ends after the fourth (R44). -/
def Turn.next (t : Turn) : Option Turn := if t.frames < 4 then some { t with frames := t.frames + 1, wait := 0 } else none

theorem Port.takePlace_of {x : Port} (h : x.turn = some t) : x.takePlace = { x with turn := t.next } := by
  unfold Port.takePlace Turn.next Config.turnFrames
  rw [h]
  by_cases hf : t.frames < 4
  · simp [hf]
  · simp [hf, Nat.le_of_not_lt hf]

/-- A stray frame that is no TURN_END takes a place and is counted (R47). -/
theorem State.takeStray_place (h : (s.port p).turn = some t) :
    s.modPort p (Port.takeStray false) =
      s.modPort p fun x => { x with turn := t.next, strayFrames := min (x.strayFrames + 1) 65535 } :=
  State.modPort_congr (Port.takePlace_of (x := (s.port p).countStray) h)

/-- A stray TURN_END ends the turn and is counted (log entry 16). -/
theorem State.takeStray_ends (s : State) (p : PortNo) :
    s.modPort p (Port.takeStray true) =
      s.modPort p fun x => { x with turn := none, strayFrames := min (x.strayFrames + 1) 65535 } := rfl

/-- A frame of the six kinds that fails the address or mapping test, or comes after the fourth, is stray (R47). -/
theorem State.receive_stray (h : (s.port p).turn = some t) (hg : s.addressGood p t address = false ∨ 4 ≤ t.frames)
    (act : CellNo → State → State) : s.receive p address act = s.modPort p (Port.takeStray false) := by
  have hno : ¬ (s.addressGood p t address = true ∧ t.frames < Config.turnFrames) := by
    rintro ⟨h1, h2⟩
    rcases hg with hg | hg
    · simp [hg] at h1
    · exact absurd h2 (Nat.not_lt.mpr hg)
  unfold State.receive
  rw [h]
  exact if_neg hno

theorem State.receiveBad_of (h : (s.port p).turn = some t) :
    s.receiveBad p = (s.modPort p fun x => { x with
        turn := t.next, crcErrors := min (x.crcErrors + 1) 65535 }).modCell t.cell fun x => { x with
        crcErrors := min (x.crcErrors + 1) 65535 } := by
  unfold State.receiveBad
  rw [h]
  exact congrArg (State.modCell t.cell _) (State.modPort_congr
    (Port.takePlace_of (x := { s.port p with crcErrors := satInc (s.port p).crcErrors }) h))

/-- The kinds and body lengths that Table 3-2 gives. -/
def formed (kind length : Byte) : Prop :=
  (kind, length) ∈ [((1 : Byte), (7 : Byte)), (2, 11), (3, 5), (4, 5), (5, 36), (6, 0)]

theorem formed_iff (kind length : Byte) : formed kind length ↔ tapBodyLength kind.toNat = some length.toNat := by
  have hbyte (a b : Byte) : a = b ↔ a.toNat = b.toNat := BitVec.toNat_inj.symm
  unfold formed tapBodyLength
  simp only [List.mem_cons, List.not_mem_nil, or_false, Prod.mk.injEq, hbyte]
  split <;> simp_all <;> omega

theorem State.receiveStray_of {kind length : Byte} (h : (s.port p).turn = some t)
    (hg : ¬ (formed kind length ∧ s.addressGood p t address = true)) :
    s.receiveStray p address kind length =
      s.modPort p (Port.takeStray (decide (tapBodyLength kind.toNat = some length.toNat) && kind = 6)) := by
  rw [formed_iff] at hg
  unfold State.receiveStray
  rw [h]
  exact if_neg (by simpa using hg)

theorem State.receiveTurnEnd_of (h : (s.port p).turn = some t) (address : Byte) :
    s.receiveTurnEnd p address =
      if s.addressGood p t address then (s.modPort p Port.endTurn).modCell t.cell fun x => { x with silence := 0 }
      else s.modPort p (Port.takeStray true) := by
  unfold State.receiveTurnEnd
  rw [h]

/-- Settles O28. -/
theorem turnsEnd : Obligations.TurnsEnd := by
  unfold Obligations.TurnsEnd
  intro s p t ht
  refine ⟨congrArg Host.Outcome.next ?_, fun address hg =>
    congrArg Host.Outcome.next ((State.receiveTurnEnd_of ht address).trans (if_pos hg))⟩
  unfold State.listenExpired
  rw [ht]
  rfl

/-- Settles O29. -/
theorem discardedFramesAreCounted : Obligations.DiscardedFramesAreCounted := by
  unfold Obligations.DiscardedFramesAreCounted
  intro s p t ht place
  refine ⟨congrArg Host.Outcome.next (State.receiveBad_of ht), ?_⟩
  intro address kind length isFormed
  refine ⟨fun hn => congrArg Host.Outcome.next ?_, fun hg i hi => ?_, fun hg => congrArg Host.Outcome.next ?_⟩
  · rw [State.receiveStray_of ht hn]
    by_cases hend : isFormed ∧ kind = 6
    · have hform := (formed_iff kind length).mp hend.1
      have hflag : (decide (tapBodyLength kind.toNat = some length.toNat) && decide (kind = 6)) = true :=
        Bool.and_eq_true_iff.mpr ⟨decide_eq_true hform, decide_eq_true hend.2⟩
      rw [hflag, State.takeStray_ends, if_pos hend]
    · have hflag : (decide (tapBodyLength kind.toNat = some length.toNat) && decide (kind = 6)) = false := by
        rw [← Bool.not_eq_true, Bool.and_eq_true, decide_eq_true_eq, decide_eq_true_eq, ← formed_iff]
        exact hend
      rw [hflag, State.takeStray_place ht, if_neg hend]
      rfl
  · have stray (act : CellNo → State → State) := (State.receive_stray ht hg act).trans (State.takeStray_place ht)
    rcases hi with ⟨f, rfl⟩ | ⟨f, rfl⟩ | ⟨n, mask, rfl⟩ | ⟨site, bin, k, n, rfl⟩ | ⟨site, bin, n, rfl⟩ | ⟨f, rfl⟩ <;>
      exact congrArg Host.Outcome.next (stray _)
  · rw [State.receiveTurnEnd_of ht, hg]
    exact State.takeStray_ends s p

/-! ## The cell whose turn it is (R40, R41) -/

theorem State.mem_polled {tap : Nat} : (tap, c) ∈ s.polled p ↔ s.polledTap p c = some tap := by
  simp [State.polled, mem_allCells]

theorem lowestTap_none {xs : List (Nat × CellNo)} : lowestTap xs = none ↔ xs = [] := by
  cases xs with
  | nil => simp [lowestTap]
  | cons x xs =>
    unfold lowestTap
    split
    · simp
    · split <;> simp

/-- The pair of lowest tap address is one of the list, and none stands below it (R41). -/
theorem lowestTap_le {xs : List (Nat × CellNo)} {y : Nat × CellNo} (h : lowestTap xs = some y) :
    y ∈ xs ∧ ∀ z ∈ xs, y.1 ≤ z.1 := by
  induction xs generalizing y with
  | nil => cases h
  | cons x xs ih =>
    unfold lowestTap at h
    split at h
    · next hnone =>
      cases h
      simp [lowestTap_none.mp hnone]
    · next w hw =>
      obtain ⟨hmem, hle⟩ := ih hw
      split at h <;> cases h
      · next hlt => exact ⟨by simp [hmem], fun z hz => (List.mem_cons.mp hz).elim (fun e => e ▸ hlt.le) (hle z)⟩
      · next hlt =>
        refine ⟨by simp, fun z hz => (List.mem_cons.mp hz).elim (fun e => e ▸ le_rfl) fun hz => ?_⟩
        exact (Nat.le_of_not_lt hlt).trans (hle z hz)

/-- The only pair of the lowest tap address is the lowest. -/
theorem lowestTap_of {tap : Nat} {xs : List (Nat × CellNo)} (hmem : (tap, c) ∈ xs) (hle : ∀ y ∈ xs, tap ≤ y.1)
    (huniq : ∀ d, (tap, d) ∈ xs → d = c) : lowestTap xs = some (tap, c) := by
  cases h : lowestTap xs with
  | none => simp [lowestTap_none.mp h] at hmem
  | some y =>
    obtain ⟨k, d⟩ := y
    obtain ⟨hin, hlow⟩ := lowestTap_le h
    have hk : k = tap := le_antisymm (hlow _ hmem) (hle _ hin)
    subst hk
    rw [huniq d hin]

/-- The next turn is that of the lowest polled tap address above the arbiter position, or of the lowest of all (R41). -/
theorem State.nextTurn_of {tap : Nat} (hc : s.polledTap p c = some tap) (huniq : ∀ d, s.polledTap p d = some tap → d = c)
    (h : (∃ a, (s.port p).arbiter = some a ∧ a < tap ∧ ∀ d k, s.polledTap p d = some k → a < k → tap ≤ k) ∨
      ((∀ a, (s.port p).arbiter = some a → ∀ d k, s.polledTap p d = some k → k ≤ a) ∧
        ∀ d k, s.polledTap p d = some k → tap ≤ k)) : s.nextTurn p = some (tap, c) := by
  have hmem := State.mem_polled.mpr hc
  unfold State.nextTurn
  rcases h with ⟨a, ha, hlt, habove⟩ | ⟨hnone, hall⟩
  · have hfirst : lowestTap ((s.polled p).filter fun x => decide (a < x.1)) = some (tap, c) := by
      refine lowestTap_of (List.mem_filter.mpr ⟨hmem, decide_eq_true hlt⟩) (fun y hy => ?_) fun d hd => ?_
      · obtain ⟨hin, hy⟩ := List.mem_filter.mp hy
        exact habove y.2 y.1 (State.mem_polled.mp hin) (of_decide_eq_true hy)
      · exact huniq d (State.mem_polled.mp (List.mem_filter.mp hd).1)
    rw [ha]
    dsimp only
    rw [hfirst]
    rfl
  · have hlow : lowestTap (s.polled p) = some (tap, c) :=
      lowestTap_of hmem (fun y hy => hall y.2 y.1 (State.mem_polled.mp hy)) fun d hd => huniq d (State.mem_polled.mp hd)
    cases ha : (s.port p).arbiter with
    | none =>
      dsimp only
      rw [List.filter_true, hlow]
      rfl
    | some a =>
      have hempty : ((s.polled p).filter fun x => decide (a < x.1)) = [] :=
        List.filter_eq_nil_iff.mpr fun y hy => by
          simpa using hnone a ha y.2 y.1 (State.mem_polled.mp hy)
      dsimp only
      rw [hempty, hlow]
      rfl

theorem State.backpressure_iff : s.backpressure = true ↔ 800 ≤ s.ru.occupancy := decide_eq_true_iff

theorem State.room_iff : s.backpressure = false ↔ s.ru.occupancy < 800 := by
  rw [← Bool.not_eq_true, State.backpressure_iff, Nat.not_le]

/-- The port of a polled cell takes turns while the part works and the FIFO has room (R40). -/
theorem State.takesTurns_iff :
    s.takesTurns p = true ↔ s.working = true ∧ s.ru.occupancy < 800 ∧ ∃ c tap, s.polledTap p c = some tap := by
  have hpolled : (s.polled p).isEmpty = false ↔ ∃ c tap, s.polledTap p c = some tap := by
    rw [List.isEmpty_eq_false_iff_exists_mem]
    exact ⟨fun ⟨⟨tap, c⟩, h⟩ => ⟨c, tap, State.mem_polled.mp h⟩, fun ⟨c, tap, h⟩ => ⟨(tap, c), State.mem_polled.mpr h⟩⟩
  unfold State.takesTurns
  rw [Bool.and_eq_true, Bool.and_eq_true, Bool.not_eq_true', Bool.not_eq_true', hpolled, State.room_iff, and_assoc]

/-- The frames of a turn: the desired command of a heard cell whose tap has not applied it, then the POLL (R42, R43). -/
theorem turnFrames_eq (tap : Nat) (x : Cell) :
    turnFrames tap x = match x.slot.desired with
      | none => [pollFrame tap !x.heard]
      | some cmd =>
        if x.heard = true ∧ ¬ (x.slot.lastKind = some cmd.kind ∧ x.slot.lastTag = x.slot.tag) then
          [commandFrame tap x.slot.tag cmd, pollFrame tap !x.heard]
        else [pollFrame tap !x.heard] := by
  unfold turnFrames CommandSlot.differs
  cases x.slot.desired with
  | none => rfl
  | some cmd =>
    dsimp only
    congr 1
    simp [imp_iff_not_or]

/-! ## The bytes of the frames sent (R45, R46) -/

/-- The CRC takes a byte in from its most significant bit (R46). -/
theorem crc16_concat (bs : List Byte) (b : Byte) :
    crc16 (bs ++ [b]) = [7, 6, 5, 4, 3, 2, 1, 0].foldl
      (fun (r : Half) k => (r <<< 1) ^^^ (if r.getLsbD 15 != b.getLsbD k then 0x1021#16 else 0#16)) (crc16 bs) := by
  unfold crc16
  rw [List.foldl_append]
  simp only [List.foldl_cons, List.foldl_nil, crcByte, crcBit_eq]

/-- Settles O27. -/
theorem turnsGoRoundThePolledCells : Obligations.TurnsGoRoundThePolledCells := by
  unfold Obligations.TurnsGoRoundThePolledCells
  refine ⟨?_, fun s p c tap hwork hroom hturn hc huniq harbiter => congrArg Host.Outcome.next ?_⟩
  · intro low two framed
    refine ⟨rfl, crc16_concat, fun tap => ⟨rfl, rfl⟩, fun tap tag => ⟨fun kit => rfl, fun program temp sites expected lot => ?_,
      rfl, rfl, rfl, rfl, rfl⟩⟩
    have hprogram : wordBytes program = two program.toNat ++ two (program.toNat / 65536) := by
      simp [wordBytes_eq, two, low, Nat.div_div_eq_div_mul]
    have hargs : (Command.load program temp sites expected lot).args =
        two program.toNat ++ two (program.toNat / 65536) ++ (leBytes 1 temp.code ++ [sites]) ++ two expected ++ lot.toList := by
      have hsites : leBytes 1 sites.toNat = [sites] := by simp [leBytes]
      rw [← hprogram, ← hsites, ← List.append_assoc]
      rfl
    unfold commandFrame
    rw [hargs]
    cases temp <;> simp only [List.append_assoc] <;> rfl
  · have htakes : s.takesTurns p = true := State.takesTurns_iff.mpr ⟨hwork, hroom, c, tap, hc⟩
    unfold State.beginTurn
    rw [if_pos ⟨htakes, hturn⟩, State.nextTurn_of hc huniq harbiter]
    exact State.modPort_congr (congrArg (fun frames => { s.port p with
      arbiter := some tap, turn := some { cell := c, frames := 0, wait := 0 }, sent := frames }) (turnFrames_eq tap (s.cell c)))

end Sys2Proof.Machine
end

section
/-! SUPPORT. CLEAR_LINK_COUNTS (R57), and frames that change nothing but that they were heard (R48, R69, R70). -/

namespace Sys2Proof.Machine

variable {s : State} {p : PortNo} {c : CellNo} {address : Byte} {i : Insertion}

/-! ## CLEAR_LINK_COUNTS (R57) -/

/-- The state after CLEAR_LINK_COUNTS of a port (R57). -/
def State.clearLinkCounts (p : PortNo) (s : State) : State :=
  { s.modPort p fun x => { x with crcErrors := 0, missedTurns := 0, strayFrames := 0 } with
    cells := s.cells.map (Cell.clearLinkCounts p) }

theorem actClearLinkCounts_of {port : Byte} (h : port.toNat = p.val) (s : State) :
    actClearLinkCounts port s = (s.clearLinkCounts p, Answer.withFields (leBytes 2 (s.port p).crcErrors ++
      leBytes 2 (s.port p).missedTurns ++ leBytes 2 (s.port p).strayFrames)) := by
  unfold actClearLinkCounts
  rw [ofIndex_val p h]
  rfl

theorem State.SameFloor.clearLinkCounts {u t : State} (h : u.SameFloor t) (p : PortNo) :
    (u.clearLinkCounts p).SameFloor (t.clearLinkCounts p) := by
  rw [h.eq]
  exact ⟨rfl, rfl, rfl, rfl, rfl, rfl, rfl, rfl, rfl, rfl⟩

theorem State.port_clearLinkCounts (s : State) (p q : PortNo) : (s.clearLinkCounts p).port q =
    if q = p then { s.port p with crcErrors := 0, missedTurns := 0, strayFrames := 0 } else s.port q :=
  State.port_modPort s p q fun x => { x with crcErrors := 0, missedTurns := 0, strayFrames := 0 }

/-- Settles O31. -/
theorem clearLinkCountsReportsAndZeroes : Obligations.ClearLinkCountsReportsAndZeroes := by
  unfold Obligations.ClearLinkCountsReportsAndZeroes
  intro s slot port ht
  refine ⟨fun h => answers_refuse rfl ht (by unfold actClearLinkCounts; rw [ofIndex_outside h]), fun p hp => ?_⟩
  refine ⟨s.clearLinkCounts p, ?_, rfl, State.port_clearLinkCounts s p, fun c => State.cell_map s (Cell.clearLinkCounts p) c⟩
  have hact := actClearLinkCounts_of hp (s.takeSlot slot)
  have hcore := (Acts.clearLinkCounts port (s.takeSlot slot)).toCore
  rw [hact] at hcore
  rw [State.takeSlot_port] at hact
  have hlen : (leBytes 2 (s.port p).crcErrors ++ leBytes 2 (s.port p).missedTurns ++
      leBytes 2 (s.port p).strayFrames).length ≤ 48 := by
    simp only [List.length_append, leBytes_length]
    decide
  exact answers_acted rfl ht hact hcore ((State.SameFloor.takeSlot s slot).clearLinkCounts p) hlen

/-! ## Frames without an insertion to deliver to (R48) -/

/-- A frame of a cell that holds no insertion, or is SILENT or MISMATCH, is not delivered (R48). -/
theorem State.deliver_undelivered (h : s.insertion c = none ∨ (s.cell c).state = .silent ∨ (s.cell c).state = .mismatch)
    (act : CellNo → State → State) : s.deliver act c = s := by
  have hno : s.delivers c = false := by
    unfold State.delivers
    rcases h with h | h | h <;> simp [h]
  unfold State.deliver
  rw [hno]
  rfl

/-- An undelivered frame changes nothing but that it was heard (R44, R48). -/
theorem receive_undelivered (h : s.Hears p address c)
    (hno : s.insertion c = none ∨ (s.cell c).state = .silent ∨ (s.cell c).state = .mismatch) (act : CellNo → State → State) :
    s.receive p address (State.deliver act) = s.heardIn p c := by
  rw [receive_hears h]
  exact State.deliver_undelivered (by rwa [heardIn_insertion, heardIn_state]) act

/-- A delivered frame acts on the state in which it was heard (R48). -/
theorem receive_delivers (h : s.Delivers p address c i) (act : CellNo → State → State) :
    s.receive p address (State.deliver act) = act c (s.heardIn p c) :=
  (receive_hears h.1 _).trans (deliver_of h act)

/-! ## Units that are not counted (R69, R70) -/

theorem State.takeUnitFrame_noKind {kind : Nat} (h : 2 ≤ kind) (s : State) (c : CellNo) (site bin n : Nat) :
    s.takeUnitFrame c site bin kind n = s.protocolError c := by
  unfold State.takeUnitFrame
  split
  · omega
  · omega
  · rfl

/-- A unit that fails a check of R69 is a protocol error. -/
theorem State.takeUnit_errs {site bin n : Nat} (h : s.insertion c = some i)
    (hbad : i.takenBy.hasRun = false ∨ i.site? site = none ∨ ofNumber? 16 bin = none ∨ n ≤ i.unitsSeen) :
    s.takeUnit c site bin n = s.protocolError c := by
  unfold State.takeUnit
  rw [h]
  dsimp only
  by_cases hr : i.takenBy.hasRun = true
  · rw [if_neg (by simp [hr])]
    rcases hbad with hbad | hbad | hbad | hbad
    · rw [hr] at hbad
      cases hbad
    · rw [hbad]
    · rw [hbad]
      cases i.site? site <;> rfl
    · split
      · rw [if_pos hbad, ite_self]
      · rfl
  · exact if_pos (by simpa using hr)

/-- A unit number above the expected quantity is R70's case. -/
theorem State.takeUnit_exceeds {site bin n : Nat} {m : Site} {b : Bin} (h : s.insertion c = some i)
    (hr : i.takenBy.hasRun = true) (hm : i.site? site = some m) (hb : bin = number b) (h1 : i.unitsSeen < n)
    (h2 : i.expected < n) : s.takeUnit c site bin n = s.quantityExcess c := by
  unfold State.takeUnit
  rw [h]
  dsimp only
  rw [if_neg (by simp [hr]), hm, ofNumber_number b hb]
  dsimp only
  rw [if_neg (by omega), if_neg (by omega), if_pos h2]

/-- Settles O38. -/
theorem unitsOutOfPlaceAreNotCounted : Obligations.UnitsOutOfPlaceAreNotCounted := by
  unfold Obligations.UnitsOutOfPlaceAreNotCounted
  refine fun s p c address site bin n => ⟨fun hh hno => ?_, fun i hd => ?_⟩
  · have undelivered (act) : (.next (s.receive p address (State.deliver act)) : Host.Outcome State Fault Refusal) =
        .next (s.heardIn p c) := congrArg Host.Outcome.next (receive_undelivered hh hno act)
    exact ⟨fun kind => undelivered _, undelivered _, fun t mask => undelivered _, fun f => undelivered _⟩
  intro inMask
  have hunit (kind : Byte) : exec (.unit p address site bin kind n) s =
      .next ((s.heardIn p c).takeUnitFrame c site.toNat bin.toNat kind.toNat n.toNat) :=
    congrArg Host.Outcome.next (receive_delivers hd _)
  have hi : (s.heardIn p c).insertion c = some i := hd.2.1
  refine ⟨fun kind hk => ?_, fun hbad => ?_, fun hr hm hb0 hb16 hseen hexp => ?_⟩
  · rw [hunit, State.takeUnitFrame_noKind hk]
    rfl
  · refine (hunit 0).trans (congrArg Host.Outcome.next (State.takeUnit_errs hi ?_))
    rcases hbad with hr | hm | hb | hb | hn
    · exact .inl hr
    · exact .inr (.inl (site_outsideMask hm))
    · exact .inr (.inr (.inl (ofNumber_outside (.inl hb))))
    · exact .inr (.inr (.inl (ofNumber_outside (.inr hb))))
    · exact .inr (.inr (.inr hn))
  · obtain ⟨k, hk, hmask⟩ := hm
    have hpos : bin.toNat ≠ 0 := fun e => hb0 (BitVec.eq_of_toNat_eq e)
    have hbin : bin.toNat = number (⟨bin.toNat - 1, by omega⟩ : Bin) := by
      simp only [number]
      omega
    have hexcess : exec (.unit p address site bin 0 n) s = .next ((s.heardIn p c).quantityExcess c) :=
      (hunit 0).trans (congrArg Host.Outcome.next
        (State.takeUnit_exceeds hi hr (site_inMask hk hmask) hbin hseen hexp))
    have hexcess' : (s.heardIn p c).quantityExcess c = if i.quantityHold then s.heardIn p c else
        ((s.heardIn p c).modInsertion c fun j => { j with quantityHold := true }).engineHold i.lot c .quantity .stopNow := by
      unfold State.quantityExcess
      rw [hi]
    rw [hexcess, hexcess']
    exact ⟨fun h => by rw [if_pos h], fun h => by rw [if_neg (by simp [h])]; rfl⟩

end Sys2Proof.Machine
end

section
/-! SUPPORT. The loss of a cell's link (R52): SILENT, the insertion suspended (R80), the reservation cancelled (R130). -/

namespace Sys2Proof.Machine

variable {s t : State} {c : CellNo} {i : Insertion}

/-! ## Suspension and cancellation (R80, R130) -/

/-- Suspension changes a cell record in its desired command alone. -/
theorem State.suspend_cell (s : State) (c d : CellNo) :
    ∃ o, (s.suspend c).cell d = { s.cell d with slot := { (s.cell d).slot with desired := o } } := by
  cases hi : s.insertion c with
  | none => exact ⟨(s.cell d).slot.desired, by rw [State.suspend_vacant hi]⟩
  | some i =>
    by_cases hs : i.state = .suspended
    · exact ⟨(s.cell d).slot.desired, by rw [State.suspend_resting hi hs]; rfl⟩
    · rw [State.suspend_active hi hs]
      dsimp only
      split
      · refine ⟨if d = c then some .haltNow else (s.cell d).slot.desired, ?_⟩
        refine (State.cell_modCell _ c d _).trans ?_
        by_cases e : d = c
        · rw [if_pos e, if_pos e, e]
          rfl
        · rw [if_neg e, if_neg e]
          rfl
      · exact ⟨(s.cell d).slot.desired, rfl⟩

/-- The insertion after its suspension (R80). -/
theorem State.suspend_insertion_some (hi : s.insertion c = some i) :
    ∃ j, (s.suspend c).insertion c = some j ∧ j.state = .suspended ∧
      j.before = (if i.state = .suspended then i.before else some i.state) ∧ j.resyncPending = false ∧
      (i.state.onHandler = true → ((s.suspend c).cell c).slot.desired = some .haltNow) := by
  by_cases hs : i.state = .suspended
  · refine ⟨{ i with resyncPending := false }, ?_, hs, (if_pos hs).symm, rfl, fun h => ?_⟩
    · rw [State.suspend_resting hi hs, State.insertion_modInsertion_same hi]
    · rw [hs] at h
      cases h
  · refine ⟨{ i with before := some i.state, state := .suspended, sampleVoid := true, resyncPending := false }, ?_, rfl,
      (if_neg hs).symm, rfl, fun h => ?_⟩
    · rw [State.suspend_active hi hs]
      dsimp only
      split <;> exact State.insertion_modInsertion_same hi _
    · rw [State.suspend_active hi hs]
      dsimp only
      rw [if_pos h]
      exact congrArg (fun x => x.slot.desired) (State.cell_modCell_same _ c _)

theorem State.cancelFor_some {r : Reservation} (h : s.reservationOf c = some r) (cause : CancelCause) :
    s.cancelFor c cause = s.cancelEntry cause r := by
  unfold State.cancelFor
  rw [h]

/-- The cancellation of an entry deletes it and leaves the cells and the insertions (R130). -/
theorem State.cancelEntry_stand (s : State) (cause : CancelCause) (r : Reservation) :
    (s.deleteReservation r.cell).CellsStand (s.cancelEntry cause r) :=
  ((State.CellsStand.refl _).report _).setLotState r.lot .queued

theorem State.cancelFor_cells (s : State) (c : CellNo) (cause : CancelCause) :
    (s.cancelFor c cause).cells = s.cells ∧ (s.cancelFor c cause).insertions = s.insertions := by
  cases hr : s.reservationOf c with
  | none =>
    rw [State.cancelFor_none hr]
    exact ⟨rfl, rfl⟩
  | some r =>
    rw [State.cancelFor_some hr]
    exact ⟨(s.cancelEntry_stand cause r).cells, (s.cancelEntry_stand cause r).insertions⟩

theorem State.reservationOf_deleteReservation (s : State) (c : CellNo) : (s.deleteReservation c).reservationOf c = none := by
  simp [State.reservationOf, State.deleteReservation]

/-- After the cancellation no entry names the cell (R130). -/
theorem State.cancelFor_reservationOf (s : State) (c : CellNo) (cause : CancelCause) :
    (s.cancelFor c cause).reservationOf c = none := by
  cases hr : s.reservationOf c with
  | none => rwa [State.cancelFor_none hr]
  | some r =>
    have hentries := (s.cancelEntry_stand cause r).reservations
    rw [State.reservationOf_cell hr] at hentries
    rw [State.cancelFor_some hr, State.reservationOf, hentries]
    exact State.reservationOf_deleteReservation s c

/-! ## The silence timer (R52) -/

/-- A cell that has lost its link, before what it enters. -/
def State.silenced (c : CellNo) (m : Mapping) (s : State) : State :=
  ((s.report (.linkLost c m.port m.tap (s.cell c).state (s.cell c).crcErrors)).modCell c fun x => { x with
    silence := 0, heard := false, state := .silent }).report (.cellState c (s.cell c).state .silent .linkLoss)

theorem State.silenced_cell (s : State) (c : CellNo) (m : Mapping) :
    (s.silenced c m).cell c = { s.cell c with silence := 0, heard := false, state := .silent } :=
  State.cell_modCell_same (s.report (.linkLost c m.port m.tap (s.cell c).state (s.cell c).crcErrors)) c fun x => { x with
    silence := 0, heard := false, state := .silent }

theorem State.expireSilence_due (h : 5000 ≤ (s.cell c).silence) : s.expireSilence c = s.silenceExpired c := if_pos h

theorem State.expireSilence_unheard {m : Mapping} (h : 5000 ≤ (s.cell c).silence) (hm : (s.cell c).mapping = some m)
    (hheard : (s.cell c).heard = false) : s.expireSilence c = s.modCell c fun x => { x with silence := 0 } := by
  rw [State.expireSilence_due h, State.silenceExpired]
  rw [hm, hheard]
  rfl

/-- A heard cell inside its window that falls silent enters SILENT (R52). -/
theorem State.expireSilence_heard {m : Mapping} (h : 5000 ≤ (s.cell c).silence) (hm : (s.cell c).mapping = some m)
    (hheard : (s.cell c).heard = true) (hw : (s.port m.port).inWindow m.tap = true) (hs : (s.cell c).state ≠ .silent) :
    s.expireSilence c = ((s.silenced c m).suspend c).cancelFor c .silent := by
  let u := s.report (.linkLost c m.port m.tap (s.cell c).state (s.cell c).crcErrors)
  let lost : Cell → Cell := fun x => { x with silence := 0, heard := false }
  have hexpired : s.expireSilence c = (u.modCell c lost).deriveCell c .linkLoss := by
    have htwice : (u.modCell c fun x => { x with silence := 0 }).modCell c (fun x => { x with heard := false }) =
        u.modCell c lost := modCell_modCell u c _ _
    rw [← htwice, State.expireSilence_due h, State.silenceExpired]
    rw [hm, hheard]
    rfl
  have hderived : (u.modCell c lost).derivedState c = .silent := by
    have hcell : (u.modCell c lost).cell c = lost (s.cell c) := State.cell_modCell_same u c lost
    have hport : ((u.modCell c lost).port m.port).inWindow m.tap = true := hw
    unfold State.derivedState
    rw [hcell]
    dsimp only [lost]
    rw [hm]
    dsimp only
    rw [hport]
    rfl
  have hchanged : CellState.silent ≠ (u.cell c).state := Ne.symm hs
  have hwrite : u.writeCell c lost .silent .linkLoss = s.silenced c m := if_neg hchanged
  rw [hexpired, State.deriveCell_modCell rfl hderived, if_neg hchanged, hwrite]
  rfl

/-- Settles O32. -/
theorem silenceIsALinkLoss : Obligations.SilenceIsALinkLoss := by
  unfold Obligations.SilenceIsALinkLoss
  refine fun s c m h hm => ⟨fun hheard => congrArg Host.Outcome.next (State.expireSilence_unheard h hm hheard),
    fun hheard hw hs => ?_⟩
  have hexec : exec (.silenceExpiry c) s = .next (((s.silenced c m).suspend c).cancelFor c .silent) :=
    congrArg Host.Outcome.next (State.expireSilence_heard h hm hheard hw hs)
  refine ⟨fun hi hr => ?_, _, hexec, ?_⟩
  · rw [hexec, State.suspend_vacant (s := s.silenced c m) hi, State.cancelFor_none (s := s.silenced c m) hr]
    rfl
  obtain ⟨hcells, hinsertions⟩ := ((s.silenced c m).suspend c).cancelFor_cells c .silent
  have hcell : (((s.silenced c m).suspend c).cancelFor c .silent).cell c = ((s.silenced c m).suspend c).cell c :=
    congrArg (·[c]) hcells
  obtain ⟨o, hsuspended⟩ := (s.silenced c m).suspend_cell c c
  rw [State.silenced_cell] at hsuspended
  refine ⟨by rw [hcell, hsuspended], by rw [hcell, hsuspended], State.cancelFor_reservationOf _ c .silent, fun i hi => ?_⟩
  obtain ⟨j, hj, hrest⟩ := State.suspend_insertion_some (s := s.silenced c m) hi
  rw [hcell]
  exact ⟨j, (congrArg (·[c]) hinsertions).trans hj, hrest⟩

end Sys2Proof.Machine
end

section
/-! SUPPORT. What the work on insertions, lots, holds and reservations may change of a cell record, and the last applied
command that a good STATUS reports (R48, R49). -/

namespace Sys2Proof.Machine

variable {s t u : State} {c : CellNo} {l : LotSlot} {f : Cell → Cell}

/-! ## Cell records in the work of the engines -/

/-- A cell record but for its state, its desired command with the load tag, its load-failure count and its silence timer,
which stays at 0. -/
structure Cell.Worked (x y : Cell) : Prop where
  rest : y = { x with slot := { x.slot with desired := y.slot.desired, tag := y.slot.tag }, silence := y.silence,
                      state := y.state, loadFailures := y.loadFailures }
  silence : x.silence = 0 → y.silence = 0

theorem Cell.Worked.refl (x : Cell) : x.Worked x := ⟨rfl, id⟩

theorem Cell.Worked.trans {x y z : Cell} (h : x.Worked y) (k : y.Worked z) : x.Worked z :=
  ⟨by rw [k.rest, h.rest], fun e => k.silence (h.silence e)⟩

/-- The last applied command stands in such work. -/
theorem Cell.Worked.applied {x y : Cell} (h : x.Worked y) :
    y.slot.lastKind = x.slot.lastKind ∧ y.slot.lastTag = x.slot.lastTag := by
  rw [h.rest]
  exact ⟨rfl, rfl⟩

/-- Every cell record is changed by such work alone. -/
def State.CellsWorked (s t : State) : Prop := ∀ d, (s.cell d).Worked (t.cell d)

theorem State.CellsWorked.refl (s : State) : s.CellsWorked s := fun d => .refl (s.cell d)

theorem State.CellsWorked.trans (h : s.CellsWorked t) (k : t.CellsWorked u) : s.CellsWorked u :=
  fun d => (h d).trans (k d)

theorem State.CellsWorked.next (h : s.CellsWorked t) (hc : u.cells = t.cells) : s.CellsWorked u := fun d => by
  have hcell : u.cell d = t.cell d := congrArg (·[d]) hc
  rw [hcell]
  exact h d

theorem State.CellsWorked.report (h : s.CellsWorked t) (e : Report) : s.CellsWorked (t.report e) := h.next rfl

theorem State.CellsWorked.near (h : s.CellsWorked t) (k : t.Near u) : s.CellsWorked u := fun d => by
  obtain ⟨o, ho⟩ := k.cell d
  rw [ho]
  exact (h d).trans ⟨rfl, id⟩

theorem State.CellsWorked.modCell (h : s.CellsWorked t) (c : CellNo) (hf : ∀ x : Cell, x.Worked (f x)) :
    s.CellsWorked (t.modCell c f) := fun d => by
  rw [State.cell_modCell]
  by_cases e : d = c
  · rw [if_pos e, ← e]
    exact (h d).trans (hf _)
  · rw [if_neg e]
    exact h d

/-! ### Requests of the Insertion Engine -/

theorem State.CellsWorked.modInsertion (h : s.CellsWorked t) (c : CellNo) (g : Insertion → Insertion) :
    s.CellsWorked (t.modInsertion c g) := h.next rfl

theorem State.CellsWorked.request (h : s.CellsWorked t) (c : CellNo) (cmd : Command) :
    s.CellsWorked (t.request c cmd) := by
  unfold State.request
  split
  · refine State.CellsWorked.modInsertion (t := t.modCell c _) ?_ c _
    exact h.modCell c fun _ => ⟨rfl, id⟩
  · exact h.modCell c fun _ => ⟨rfl, id⟩

theorem State.CellsWorked.setInsState (h : s.CellsWorked t) (c : CellNo) (new : InsState) (cause : InsCause) :
    s.CellsWorked (t.setInsState c new cause) := by
  unfold State.setInsState
  split
  · exact h
  · exact h.next rfl

theorem State.CellsWorked.suspend (h : s.CellsWorked t) (c : CellNo) : s.CellsWorked (t.suspend c) := fun d => by
  obtain ⟨o, ho⟩ := t.suspend_cell c d
  rw [ho]
  exact (h d).trans ⟨rfl, id⟩

theorem State.CellsWorked.pauseRequest (h : s.CellsWorked t) (c : CellNo) (g : PauseSet → PauseSet) :
    s.CellsWorked (t.pauseRequest c g) := h.near ((State.Beside.refl 0 t).pauseRequest c g).toNear

/-! ### Cell states and reservations -/

theorem State.CellsWorked.cancelEntry (h : s.CellsWorked t) (cause : CancelCause) (r : Reservation) :
    s.CellsWorked (t.cancelEntry cause r) := h.next (t.cancelEntry_stand cause r).cells

theorem State.CellsWorked.cancelFor (h : s.CellsWorked t) (c : CellNo) (cause : CancelCause) :
    s.CellsWorked (t.cancelFor c cause) := h.next (t.cancelFor_cells c cause).1

theorem State.CellsWorked.enterCellState (h : s.CellsWorked t) (c : CellNo) (new : CellState) :
    s.CellsWorked (t.enterCellState c new) := by
  cases new with
  | parked => exact State.CellsWorked.suspend (h.modCell c fun _ => ⟨rfl, fun _ => rfl⟩) c
  | silent => exact (h.suspend c).cancelFor c _
  | mismatch => exact (h.suspend c).cancelFor c _
  | idle => exact h.next rfl
  | detached => exact h
  | busy => exact h
  | reserved => exact h
  | outOfService => exact h

theorem State.CellsWorked.deriveCell (h : s.CellsWorked t) (c : CellNo) (cause : CellCause) :
    s.CellsWorked (t.deriveCell c cause) := by
  unfold State.deriveCell
  dsimp only
  split
  · exact h
  · refine State.CellsWorked.enterCellState (State.CellsWorked.report ?_ _) c _
    exact h.modCell c fun _ => ⟨rfl, id⟩

theorem State.CellsWorked.cancelOfLot (h : s.CellsWorked t) (l : LotSlot) (cause : CancelCause) :
    s.CellsWorked (t.cancelOfLot l cause) := by
  unfold State.cancelOfLot
  split
  · exact h
  · exact (h.cancelEntry cause _).deriveCell _ _

/-! ### Holds and quarantine -/

theorem State.CellsWorked.syncHold (h : s.CellsWorked t) (l : LotSlot) : s.CellsWorked (t.syncHold l) := by
  unfold State.syncHold
  split
  · exact h.pauseRequest _ _
  · exact h

theorem State.CellsWorked.quarantine (h : s.CellsWorked t) (l : LotSlot) (m : QuarantineMatter) :
    s.CellsWorked (t.quarantine l m) := by
  unfold State.quarantine
  split
  · exact h
  · split
    · exact h
    · refine State.CellsWorked.cancelOfLot (State.CellsWorked.syncHold ?_ l) l _
      exact h.next rfl

theorem State.CellsWorked.holdRequest (h : s.CellsWorked t) (l : LotSlot) (r : HoldRequest) :
    s.CellsWorked (t.holdRequest l r).1 := by
  unfold State.holdRequest
  split
  · exact h
  · split
    · exact h
    · split
      · exact h.quarantine l _
      · split
        · exact h.quarantine l _
        · split
          · exact h.quarantine l _
          · refine State.CellsWorked.cancelOfLot (State.CellsWorked.syncHold ?_ l) l _
            exact h.next rfl

/-! ### A delivered STATUS (R64 to R68, R82) -/

theorem State.CellsWorked.beginRun (h : s.CellsWorked t) (c : CellNo) (i : Insertion) : s.CellsWorked (t.beginRun c i) :=
  State.CellsWorked.modCell (f := fun x => { x with loadFailures := 0 }) (h.next rfl) c fun _ => ⟨rfl, id⟩

theorem State.CellsWorked.readSoaking (h : s.CellsWorked t) (c : CellNo) (f : StatusFrame) :
    s.CellsWorked (t.readSoaking c f) := by
  unfold State.readSoaking
  split
  · exact h
  · split
    · exact h.modInsertion c _
    · exact h

theorem State.CellsWorked.readJam (h : s.CellsWorked t) (c : CellNo) (k : HandlerState) : s.CellsWorked (t.readJam c k) := by
  unfold State.readJam
  split
  · exact h.modInsertion c _
  · exact h

theorem State.CellsWorked.readPause (h : s.CellsWorked t) (c : CellNo) (k : HandlerState) (f : StatusFrame) :
    s.CellsWorked (t.readPause c k f) := by
  unfold State.readPause
  split
  · exact h
  · split
    · split
      · exact h.setInsState c _ _
      · exact h
    · split
      · exact h.setInsState c _ _
      · exact h

theorem State.CellsWorked.readStatus (h : s.CellsWorked t) (c : CellNo) (k : HandlerState) (f : StatusFrame) :
    s.CellsWorked (t.readStatus c k f) := by
  unfold State.readStatus
  split
  · exact h
  · next i _ =>
    cases i.state with
    | kitWait => exact h
    | loading =>
      dsimp only
      split
      · exact (((h.setInsState c _ _).beginRun c i).readSoaking c f).readJam c k
      · exact h
    | soaking => exact (h.readSoaking c f).readJam c k
    | running => exact h.readJam c k
    | pausing => exact (h.readPause c k f).readJam c k
    | paused => exact (h.readPause c k f).readJam c k
    | ending => exact h.readJam c k
    | suspended => exact h

theorem State.CellsWorked.quantityExcess (h : s.CellsWorked t) (c : CellNo) : s.CellsWorked (t.quantityExcess c) := by
  unfold State.quantityExcess
  split
  · exact h
  · split
    · exact h
    · exact (h.modInsertion c _).holdRequest _ _

theorem State.CellsWorked.catchUp (h : s.CellsWorked t) (c : CellNo) (n : Nat) : s.CellsWorked (t.catchUp c n) := by
  unfold State.catchUp
  split
  · exact h
  · next i _ =>
    dsimp only
    split
    · exact h
    · split
      · refine State.CellsWorked.quantityExcess ?_ c
        exact h.next rfl
      · exact h.next rfl

theorem State.CellsWorked.restoreTo (h : s.CellsWorked t) (c : CellNo) (new : InsState) :
    s.CellsWorked (t.restoreTo c new) := (h.modInsertion c _).setInsState c new _

theorem State.CellsWorked.requestLoad (h : s.CellsWorked t) (c : CellNo) : s.CellsWorked (t.requestLoad c) := by
  unfold State.requestLoad
  split
  · exact h
  · exact (h.modInsertion c _).request c _

theorem State.CellsWorked.restore (h : s.CellsWorked t) (c : CellNo) (f : StatusFrame) :
    s.CellsWorked (t.restore c f) := by
  unfold State.restore
  split
  · exact h
  · next i _ =>
    cases i.before.getD .suspended with
    | kitWait =>
      dsimp only
      split
      · exact (h.restoreTo c _).requestLoad c
      · exact (h.restoreTo c _).request c _
    | loading =>
      dsimp only
      split
      · exact (h.restoreTo c _).beginRun c i
      · exact (h.restoreTo c _).requestLoad c
    | soaking => exact h.restoreTo c _
    | running =>
      dsimp only
      split <;> exact (h.restoreTo c _).request c _
    | pausing => exact (h.restoreTo c _).request c _
    | paused => exact (h.restoreTo c _).request c _
    | ending => exact (h.restoreTo c _).request c _
    | suspended => exact h

theorem State.CellsWorked.deliverStatus (h : s.CellsWorked t) (c : CellNo) (k : HandlerState) (f : StatusFrame) :
    s.CellsWorked (t.deliverStatus c k f) := by
  unfold State.deliverStatus
  split
  · exact h
  · next i hi =>
    split
    · split
      · unfold State.resync
        rw [hi]
        dsimp only
        split
        · exact ((h.catchUp c _).restore c f).readStatus c k f
        · exact (h.restore c f).readStatus c k f
      · exact h
    · exact h.readStatus c k f

/-! ## The last applied command (R45, R48, R49) -/

theorem HandlerState.ofCode_outside {n : Nat} (h : 4 < n) : HandlerState.ofCode? n = none := by
  obtain ⟨k, rfl⟩ : ∃ k, n = k + 5 := ⟨n - 5, by omega⟩
  rfl

theorem HandlerState.ofCode_inside {n : Nat} (h : n ≤ 4) : ∃ k, HandlerState.ofCode? n = some k := by
  interval_cases n <;> exact ⟨_, rfl⟩

theorem CommandKind.ofStatus_outside {n : Nat} (h0 : n ≠ 0) (h : n < 8 ∨ 14 < n) : CommandKind.ofStatus? n = none := by
  rcases h with h | h
  · have hpos : 0 < n := Nat.pos_of_ne_zero h0
    interval_cases n <;> rfl
  · obtain ⟨k, rfl⟩ : ∃ k, n = k + 15 := ⟨n - 15, by omega⟩
    rfl

theorem CommandKind.ofStatus_code (k : CommandKind) : CommandKind.ofStatus? k.code = some (some k) := by
  cases k <;> rfl

/-- A handler state or a command kind outside its set is a protocol error (R45). -/
theorem State.takeStatus_outside {f : StatusFrame}
    (h : HandlerState.ofCode? f.handler.toNat = none ∨ CommandKind.ofStatus? f.lastKind.toNat = none) :
    State.takeStatus f c s = s.protocolError c := by
  unfold State.takeStatus
  rcases h with h | h
  · rw [h]
  · rw [h]
    cases HandlerState.ofCode? f.handler.toNat <;> rfl

/-- A STATUS replaces the last applied command and is then delivered (R49). -/
theorem State.takeStatus_of {f : StatusFrame} {h : HandlerState} {k : Option CommandKind}
    (hh : HandlerState.ofCode? f.handler.toNat = some h) (hk : CommandKind.ofStatus? f.lastKind.toNat = some k) :
    State.takeStatus f c s = (s.modCell c fun x => { x with slot := { x.slot with
      lastKind := k, lastTag := f.lastTag } }).deliver (fun c s => s.deliverStatus c h f) c := by
  unfold State.takeStatus
  rw [hh, hk]

/-- Settles O30. -/
theorem statusReplacesTheLastApplied : Obligations.StatusReplacesTheLastApplied := by
  unfold Obligations.StatusReplacesTheLastApplied
  intro s p c address f hh
  have hexec : exec (.status p address f) s = .next (State.takeStatus f c (s.heardIn p c)) :=
    congrArg Host.Outcome.next (receive_hears hh _)
  refine ⟨fun hout => ?_, fun k hhandler hkind => ?_⟩
  · refine hexec.trans (congrArg Host.Outcome.next (State.takeStatus_outside ?_))
    rcases hout with h | ⟨h0, h⟩
    · exact .inl (HandlerState.ofCode_outside h)
    · exact .inr (CommandKind.ofStatus_outside (fun e => h0 (BitVec.eq_of_toNat_eq e)) h)
  · obtain ⟨h, hcode⟩ := HandlerState.ofCode_inside hhandler
    have hstatus : CommandKind.ofStatus? f.lastKind.toNat = some k := by
      rcases hkind with ⟨rfl, h0⟩ | ⟨j, rfl, hj⟩
      · rw [h0]
        rfl
      · rw [hj, CommandKind.ofStatus_code]
    rw [hexec, State.takeStatus_of hcode hstatus]
    let u := (s.heardIn p c).modCell c fun x => { x with slot := { x.slot with lastKind := k, lastTag := f.lastTag } }
    have hcell : u.cell c = { s.cell c with
        silence := 0, slot := { (s.cell c).slot with lastKind := k, lastTag := f.lastTag } } := by
      refine (State.cell_modCell_same _ c _).trans ?_
      rw [State.heardIn_cell]
    have hworked : u.CellsWorked (u.deliver (fun c s => s.deliverStatus c h f) c) := by
      unfold State.deliver
      split
      · exact (State.CellsWorked.refl u).deliverStatus c h f
      · exact .refl u
    have hc := hworked c
    rw [hcell] at hc
    exact ⟨⟨_, rfl, hc.applied.1, hc.applied.2, hc.silence rfl⟩,
      fun hi => congrArg Host.Outcome.next (State.deliver_undelivered (s := u) (.inl hi) _)⟩

end Sys2Proof.Machine
end

section
/-! SUPPORT. The start of an insertion (R62, R125), CONFIRM (R127), and the dispatch passes (R122 to R125). -/

namespace Sys2Proof.Machine

variable {s t u : State} {c : CellNo} {l : LotSlot} {x : Lot} {d : Identity}

/-! ## The start of an insertion (R62) -/

/-- The record of a started insertion, under the load tag of its command. -/
def State.startedRecord (l : LotSlot) (c : CellNo) (x : Lot) (d : Identity) (s : State) : Insertion :=
  let r := s.recipe (x.step x.current).recipe
  let fits : Bool := d.kitCode = r.kitCode
  { freshInsertion l x r (s.cell c) (s.limitSet (x.step x.current).limitSet) with
    siteMask := sitesUpTo (min d.siteCount r.maxSites), loadTag := nextTag (s.cell c).slot.tag
    state := if fits then .loading else .kitWait }

/-- The command of a started insertion. -/
def State.startedCommand (x : Lot) (d : Identity) (s : State) : Command :=
  let r := s.recipe (x.step x.current).recipe
  let fits : Bool := d.kitCode = r.kitCode
  if fits then .load r.programId r.temp (sitesUpTo (min d.siteCount r.maxSites)) (x.step x.current).remainder x.lotNumber
  else .kitRequest r.kitCode

/-- The floor of a started insertion: the record, the lot IN_TEST and out of the queue, the cell BUSY with its command. -/
def State.started (l : LotSlot) (c : CellNo) (x : Lot) (d : Identity) (s : State) : State :=
  (((if x.state = .queued then s.leaveQueue l else s).setInsertion c (some (s.startedRecord l c x d))).setLot l
    (some { x with state := .inTest })).modCell c fun y => { y with
      state := .busy, slot := { y.slot with desired := some (s.startedCommand x d), tag := nextTag y.slot.tag } }

theorem State.SameFloor.started (h : u.SameFloor t) (l : LotSlot) (c : CellNo) (x : Lot) (d : Identity) :
    (u.started l c x d).SameFloor (t.started l c x d) := by
  rw [h.eq]
  unfold State.started
  split <;> exact ⟨rfl, rfl, rfl, rfl, rfl, rfl, rfl, rfl, rfl, rfl⟩

/-- A cell record with a desired command under the next load tag (R54). -/
def Cell.commanded (cmd : Command) (x : Cell) : Cell :=
  { x with slot := { x.slot with desired := some cmd, tag := nextTag x.slot.tag } }

/-- A request of LOAD or KIT_REQUEST takes the next load tag (R54). -/
theorem State.request_tagged {cmd : Command} (h : cmd.takesTag = true) (s : State) (c : CellNo) :
    s.request c cmd = (s.modCell c (Cell.commanded cmd)).modInsertion c fun i => { i with
      loadTag := nextTag (s.cell c).slot.tag } := by
  unfold State.request
  rw [if_pos h]
  exact congrArg (State.modInsertion c _) (State.modCell_congr rfl)

theorem State.startedCommand_takesTag (x : Lot) (d : Identity) (s : State) : (s.startedCommand x d).takesTag = true := by
  unfold State.startedCommand
  dsimp only
  split <;> rfl

/-- The record that R62 fills from the reported identity; the request of its command gives it the next load tag. -/
theorem State.freshInsertion_eq (l : LotSlot) (x : Lot) (hd : (s.cell c).reported = some d) :
    freshInsertion l x (s.recipe (x.step x.current).recipe) (s.cell c) (s.limitSet (x.step x.current).limitSet) =
      { s.startedRecord l c x d with loadTag := (s.cell c).slot.tag } := by
  have hkit (code : Nat) : (s.cell c).kitCode = some code ↔ d.kitCode = code := by
    unfold Cell.kitCode
    rw [hd, Option.map_some, Option.some.injEq]
  have hsites : (s.cell c).siteCount = d.siteCount := by
    unfold Cell.siteCount
    rw [hd]
    rfl
  unfold State.startedRecord freshInsertion
  simp only [hkit, hsites, decide_eq_true_eq]

/-- The command of the record is the LOAD of its lot, or the request for its kit (R61). -/
theorem State.startedCommand_eq (hx : s.lot l = some x) {i : Insertion}
    (hi : i = { s.startedRecord l c x d with loadTag := (s.cell c).slot.tag }) :
    (if i.state = .kitWait then .kitRequest (s.recipe (x.step x.current).recipe).kitCode else s.loadCommand i) =
      s.startedCommand x d := by
  subst hi
  unfold State.loadCommand
  have hlot : s.lot (s.startedRecord l c x d).lot = some x := hx
  rw [hlot]
  unfold State.startedRecord State.startedCommand
  by_cases hfits : d.kitCode = (s.recipe (x.step x.current).recipe).kitCode
  · simp [hfits, freshInsertion]
  · simp [hfits]

/-- The record that R62 fills and its command, requested (R54, R61). -/
theorem State.request_started (hx : s.lot l = some x) (hd : (s.cell c).reported = some d) :
    let r := s.recipe (x.step x.current).recipe
    let i := freshInsertion l x r (s.cell c) (s.limitSet (x.step x.current).limitSet)
    let v := s.setInsertion c (some i)
    i.state = (s.startedRecord l c x d).state ∧
    v.request c (if i.state = .kitWait then .kitRequest r.kitCode else v.loadCommand i) =
      (s.modCell c (Cell.commanded (s.startedCommand x d))).setInsertion c (some (s.startedRecord l c x d)) := by
  intro r i v
  have hi : i = { s.startedRecord l c x d with loadTag := (s.cell c).slot.tag } := State.freshInsertion_eq l x hd
  have hcmd : (if i.state = .kitWait then .kitRequest r.kitCode else v.loadCommand i) = s.startedCommand x d :=
    State.startedCommand_eq hx hi
  have htagged : { i with loadTag := nextTag (v.cell c).slot.tag } = s.startedRecord l c x d := by
    rw [hi]
    rfl
  have hins : (v.modCell c (Cell.commanded (s.startedCommand x d))).insertion c = some i :=
    (State.insertion_setInsertion s c c (some i)).trans (if_pos rfl)
  refine ⟨by rw [hi], ?_⟩
  rw [hcmd, State.request_tagged (State.startedCommand_takesTag x d s)]
  unfold State.modInsertion
  rw [hins, Option.map_some, htagged]
  exact setInsertion_setInsertion (s.modCell c (Cell.commanded (s.startedCommand x d))) c (some i) _

/-- A QUEUED or RESERVED lot that becomes IN_TEST (R8, R13). -/
theorem State.setLotState_inTest (hx : s.lot l = some x) (hs : x.state = .queued ∨ x.state = .reserved) :
    s.setLotState l .inTest =
      ((if x.state = .queued then s.leaveQueue l else s).setLot l (some { x with state := .inTest })).report
        (.lotState l (some x.state) (some .inTest) x.current) := by
  rcases hs with hs | hs
  · rw [State.setLotState_leave hx hs (by simp), if_pos hs]
    rfl
  · rw [State.setLotState_apart hx (by simp [hs]) (by simp [hs]) (by simp), if_neg (by simp [hs])]

/-- The insertion that starts on a linked cell of accepted identity, with its records in the order of R125. -/
theorem State.startInsertion_of (hx : s.lot l = some x) (hs : x.state = .queued ∨ x.state = .reserved)
    (hd : (s.cell c).reported = some d) (hl : s.Linked c) (hm : (s.cell c).mismatched = false)
    (hb : (s.cell c).state ≠ .busy) :
    s.startInsertion l c =
      (((s.started l c x d).report (.lotState l (some x.state) (some .inTest) x.current)).report
        (.cellState c (s.cell c).state .busy .insertion)).report
          (.insertionEvent c l none (some (s.startedRecord l c x d).state) .assigned) := by
  obtain ⟨hstate, hrequest⟩ := State.request_started hx hd
  let commanded := Cell.commanded (s.startedCommand x d)
  let w : State := (((if x.state = .queued then s.leaveQueue l else s).setInsertion c
    (some (s.startedRecord l c x d))).setLot l (some { x with state := .inTest })).report
      (.lotState l (some x.state) (some .inTest) x.current)
  have hleaves : ((s.modCell c commanded).setInsertion c (some (s.startedRecord l c x d))).setLotState l .inTest =
      w.modCell c commanded := by
    refine (State.setLotState_inTest (x := x) (by exact hx) hs).trans ?_
    dsimp only [w]
    split <;> rfl
  have hcell : w.cell c = s.cell c := by
    dsimp only [w]
    split <;> rfl
  have hports : w.ports = s.ports := by
    dsimp only [w]
    split <;> rfl
  have hins : (w.modCell c commanded).insertion c = some (s.startedRecord l c x d) :=
    (State.insertion_setInsertion _ c c _).trans (if_pos rfl)
  have hbusy : (w.modCell c commanded).derivedState c = .busy := by
    have hcommanded : (w.modCell c commanded).cell c = commanded (s.cell c) := by
      rw [State.cell_modCell_same, hcell]
    have hlinked : (w.modCell c commanded).Linked c :=
      hl.congr ((congrArg Cell.heard hcommanded).trans rfl) ((congrArg Cell.mapping hcommanded).trans rfl) hports
    have hmatch : ((w.modCell c commanded).cell c).mismatched = false := by
      rw [hcommanded]
      exact hm
    rw [State.derivedState_linked hlinked, hmatch, State.standing, hins]
    rfl
  have hderive : (w.modCell c commanded).deriveCell c .insertion = w.recordCell c commanded .busy .insertion :=
    State.deriveCell_calm rfl hbusy (.inr (by simp)) .insertion
  have hrecorded : w.recordCell c commanded .busy .insertion =
      ((s.started l c x d).report (.lotState l (some x.state) (some .inTest) x.current)).report
        (.cellState c (s.cell c).state .busy .insertion) := by
    rw [State.recordCell_changed (by rw [hcell]; exact Ne.symm hb), hcell]
    rfl
  unfold State.startInsertion
  rw [hx]
  dsimp only
  rw [hrequest, hleaves, hderive, hrecorded, hstate]

/-! ## Rows of Table 2-4 that call for a start -/

/-- A cell whose derived state is IDLE or RESERVED is linked, of accepted identity and without insertion. -/
theorem State.free_of_derived (h : s.derivedState c = .idle ∨ s.derivedState c = .reserved) :
    s.Linked c ∧ (s.cell c).mismatched = false ∧ s.insertion c = none := by
  have hl : s.Linked c := by
    rcases h with h | h <;> exact State.linked_of_derived (by simp [h]) (by simp [h]) (by simp [h])
  rw [State.derivedState_linked hl] at h
  cases hm : (s.cell c).mismatched with
  | true => simp [hm] at h
  | false =>
    refine ⟨hl, rfl, ?_⟩
    cases hi : s.insertion c with
    | none => rfl
    | some i => simp [hm, State.standing, hi] at h

/-! ## CONFIRM (R127) -/

theorem State.SameFloor.reservations (h : u.SameFloor t) : t.de.reservations = u.de.reservations :=
  congrArg DispatchEngine.reservations h.de

/-- A cell number and a lot slot in range (R127, R128). -/
theorem withReservation_of {cell : Byte} {lot : Half} (hc : cell.toNat = number c) (hl : lot.toNat = l.val)
    (act : CellNo → LotSlot → State → Acted) (s : State) :
    withReservation cell lot act s =
      if ∃ r ∈ s.de.reservations, r.cell = c ∧ r.lot = l then act c l s else refuse .wrongState s := by
  unfold withReservation
  rw [ofNumber_number c hc, ofIndex_val l hl]
  simp only [List.any_eq_true, Bool.and_eq_true, decide_eq_true_eq]

/-- A cell number or a lot slot out of range (R127, R128). -/
theorem withReservation_outside {cell : Byte} {lot : Half} (h : cell = 0 ∨ 48 < cell.toNat ∨ 512 ≤ lot.toNat)
    (act : CellNo → LotSlot → State → Acted) (s : State) : withReservation cell lot act s = refuse .badArg s := by
  unfold withReservation
  rcases h with h | h | h
  · rw [ofNumber_outside (.inl h)]
  · rw [ofNumber_outside (.inr h)]
  · rw [ofIndex_outside h]
    cases ofNumber? 48 cell.toNat <;> rfl

/-- Settles O51. -/
theorem confirmStartsTheInsertion : Obligations.ConfirmStartsTheInsertion := by
  unfold Obligations.ConfirmStartsTheInsertion
  refine fun s slot cell lot ht => ⟨fun h => answers_refuse rfl ht (withReservation_outside h _ _), fun c l hc hl => ⟨?_, ?_⟩⟩
  · intro hnone
    refine answers_refuse rfl ht ((withReservation_of hc hl _ _).trans (if_neg ?_))
    rw [State.takeSlot_de]
    rintro ⟨r, hr, hnames⟩
    exact hnone r hr hnames
  intro x d hentry hx hs hd hstate hderived st r fits tag mask i cmd v
  obtain ⟨hlinked, hmatch, -⟩ := State.free_of_derived (.inr hderived)
  have hact : actConfirm cell lot (s.takeSlot slot) =
      (((s.takeSlot slot).deleteReservation c).startInsertion l c, Answer.plain .accepted) :=
    (withReservation_of hc hl _ _).trans (if_pos (by rwa [State.takeSlot_de]))
  have hfloor := (State.SameFloor.takeSlot s slot).deleteReservation c
  have hcore := (Acts.confirm cell lot (s.takeSlot slot)).toCore
  rw [hact] at hcore
  refine answers_acted rfl ht hact hcore ?_ (Nat.zero_le _)
  clear hact hcore
  generalize (s.takeSlot slot).deleteReservation c = w at hfloor
  have hcell : w.cell c = s.cell c := hfloor.cell c
  have hwlinked : w.Linked c := hlinked.congr (congrArg Cell.heard hcell) (congrArg Cell.mapping hcell) hfloor.ports
  have hlot : w.lot l = some x := by
    rw [State.lot, hfloor.lm]
    exact hx
  have hv : v = (s.deleteReservation c).started l c x d := by
    unfold State.started
    rw [if_neg (by simp [hs])]
    rfl
  have hi : i.state = (w.startedRecord l c x d).state := by
    rw [hfloor.eq]
    rfl
  rw [State.startInsertion_of hlot (.inr hs) (by rw [hcell, hd]) hwlinked (by rw [hcell, hmatch])
    (by rw [hcell, hstate]; simp), hcell, hs, hstate, ← hi, hv]
  exact (((hfloor.started l c x d).report _).report _).report _

end Sys2Proof.Machine
end

section
/-! SUPPORT. The dispatch passes (R122 to R125, R132). -/

namespace Sys2Proof.Machine

variable {s t : State} {c : CellNo} {l : LotSlot} {x : Lot} {q : Pair} {cs : List Pair}

/-! ## The candidate taken next (R124 step 2) -/

theorem Pair.beats_iff {a b : Pair} :
    a.beats b = true ↔ b.score < a.score ∨ (a.score = b.score ∧ a.due < b.due) := by
  unfold Pair.beats
  simp only [Bool.or_eq_true, decide_eq_true_eq, Bool.and_eq_true]

theorem Pair.not_beats_iff {a b : Pair} :
    ¬ a.beats b = true ↔ a.score < b.score ∨ (a.score = b.score ∧ b.due ≤ a.due) := by
  rw [Pair.beats_iff]
  omega

theorem bestPair_none : bestPair cs = none ↔ cs = [] := by
  cases cs with
  | nil => simp [bestPair]
  | cons x xs =>
    unfold bestPair
    split
    · simp
    · split <;> simp

/-- The candidate taken beats those before it, and none after it beats it. -/
theorem bestPair_split (h : bestPair cs = some q) :
    ∃ before after, cs = before ++ q :: after ∧ (∀ o ∈ before, q.beats o = true) ∧ ∀ o ∈ after, ¬ o.beats q = true := by
  induction cs generalizing q with
  | nil => cases h
  | cons x xs ih =>
    unfold bestPair at h
    split at h
    · next hnone =>
      cases h
      exact ⟨[], [], by rw [bestPair_none.mp hnone]; rfl, by simp, by simp⟩
    · next y hy =>
      obtain ⟨before, after, hxs, hbefore, hafter⟩ := ih hy
      split at h
      · next hbeats =>
        cases h
        exact ⟨x :: before, after, by rw [hxs]; rfl,
          fun o ho => (List.mem_cons.mp ho).elim (fun e => e ▸ hbeats) (hbefore o), hafter⟩
      · next hbeats =>
        cases h
        refine ⟨[], xs, rfl, by simp, fun o ho => ?_⟩
        rw [hxs] at ho
        rw [Pair.not_beats_iff] at hbeats ⊢
        rcases List.mem_append.mp ho with ho | ho
        · have := Pair.beats_iff.mp (hbefore o ho)
          omega
        · rcases List.mem_cons.mp ho with rfl | ho
          · exact hbeats
          · have := Pair.not_beats_iff.mp (hafter o ho)
            omega

theorem bestPair_mem (h : bestPair cs = some q) : q ∈ cs := by
  obtain ⟨before, after, e, -⟩ := bestPair_split h
  simp [e]

/-! ## The candidates (R117, R124 step 1) -/

theorem State.pair_some (h : s.pair? l c = some q) :
    q.lot = l ∧ q.cell = c ∧ (s.cell c).state = .idle ∧ ∃ x, s.lot l = some x ∧ x.state = .queued := by
  unfold State.pair? at h
  split at h
  · next x d hx hd =>
    split at h
    · next hfits =>
      obtain ⟨-, hidle, hdispatchable, -⟩ := hfits
      cases h
      refine ⟨rfl, rfl, hidle, x, hx, ?_⟩
      unfold Lot.dispatchable at hdispatchable
      simp only [Bool.and_eq_true, decide_eq_true_eq] at hdispatchable
      exact hdispatchable.1.1.1
    · cases h
  · cases h

theorem State.mem_candidates : q ∈ s.candidates ↔ q.score ≠ 0 ∧ ∃ l ∈ s.lm.queue, ∃ c, s.pair? l c = some q := by
  unfold State.candidates
  simp only [List.mem_filter, List.mem_flatMap, List.mem_filterMap, decide_eq_true_eq, mem_allCells, true_and]
  exact and_comm

/-- In a list without repetition the earlier of two elements has the lower index. -/
theorem pairwise_idxOf {ls : List LotSlot} (h : ls.Nodup) : ls.Pairwise fun a b => ls.idxOf a < ls.idxOf b := by
  rw [List.pairwise_iff_getElem]
  intro i j hi hj hij
  rwa [h.idxOf_getElem, h.idxOf_getElem]

/-- The candidates stand by the queue place of their lot and then by cell number. -/
theorem State.candidates_pairwise (h : s.lm.queue.Nodup) : s.candidates.Pairwise fun a b =>
    s.lm.queue.idxOf a.lot < s.lm.queue.idxOf b.lot ∨ (a.lot = b.lot ∧ a.cell < b.cell) := by
  refine List.Pairwise.filter _ (List.pairwise_flatMap.mpr ⟨fun l _ => ?_, ?_⟩)
  · rw [List.pairwise_filterMap]
    refine (List.pairwise_lt_finRange 48).imp fun {c d} hcd a ha b hb => .inr ?_
    obtain ⟨hal, hac, -⟩ := State.pair_some ha
    obtain ⟨hbl, hbc, -⟩ := State.pair_some hb
    exact ⟨hal.trans hbl.symm, by rw [hac, hbc]; exact hcd⟩
  · refine (pairwise_idxOf h).imp fun {l m} hlm a ha b hb => .inl ?_
    obtain ⟨c, -, ha⟩ := List.mem_filterMap.mp ha
    obtain ⟨d, -, hb⟩ := List.mem_filterMap.mp hb
    rw [(State.pair_some ha).1, (State.pair_some hb).1]
    exact hlm

/-! ## The assignments of a pass (R124 steps 2 to 5) -/

theorem rest_length (h : q ∈ cs) :
    (cs.filter fun o => o.lot ≠ q.lot && o.cell ≠ q.cell).length < cs.length :=
  List.length_filter_lt_length_iff_exists.mpr ⟨q, h, by simp⟩

theorem State.assignAll_nil (fuel : Nat) (s : State) : State.assignAll fuel [] s = s := by
  cases fuel <;> rfl

/-- One assignment of a pass, or its end at backpressure. -/
theorem State.assignAll_succ (h : bestPair cs = some q) (fuel : Nat) (s : State) :
    State.assignAll (fuel + 1) cs s = if s.backpressure then s.triggerPass
      else State.assignAll fuel (cs.filter fun o => o.lot ≠ q.lot && o.cell ≠ q.cell) (s.assign q) := by
  rw [State.assignAll, h]

theorem State.assignAll_step {fuel : Nat} (h : cs.length ≤ fuel) (s : State) :
    State.assignAll (fuel + 1) cs s = State.assignAll fuel cs s := by
  induction fuel generalizing cs s with
  | zero => rw [List.length_eq_zero_iff.mp (Nat.le_zero.mp h), State.assignAll_nil, State.assignAll_nil]
  | succ fuel ih =>
    cases hbest : bestPair cs with
    | none => rw [bestPair_none.mp hbest, State.assignAll_nil, State.assignAll_nil]
    | some q =>
      have hlt := rest_length (bestPair_mem hbest)
      rw [State.assignAll_succ hbest, State.assignAll_succ hbest, ih (by omega)]

/-- As many assignments as candidates are always enough. -/
theorem State.assignAll_enough {fuel : Nat} (h : cs.length ≤ fuel) (s : State) :
    State.assignAll fuel cs s = State.assignAll cs.length cs s := by
  induction fuel, h using Nat.le_induction with
  | base => rfl
  | succ fuel h ih => rw [State.assignAll_step h, ih]

/-- An assignment of a pass below 800 records, and the rest of the pass. -/
theorem State.assignAll_of {fuel : Nat} (hq : bestPair cs = some q) (h : cs.length ≤ fuel) (ho : s.ru.occupancy < 800) :
    let rest := cs.filter fun o => o.lot ≠ q.lot && o.cell ≠ q.cell
    State.assignAll fuel cs s = State.assignAll rest.length rest (s.assign q) := by
  intro rest
  have hlt : rest.length < cs.length := rest_length (bestPair_mem hq)
  obtain ⟨n, rfl⟩ : ∃ n, fuel = n + 1 := ⟨fuel - 1, by omega⟩
  rw [State.assignAll_succ hq, State.room_iff.mpr ho]
  exact State.assignAll_enough (Nat.lt_succ_iff.mp (hlt.trans_le h)) _

/-- A pass that meets 800 records ends and calls for another (R124). -/
theorem State.assignAll_full {fuel : Nat} (hq : bestPair cs = some q) (h : cs.length ≤ fuel) (ho : 800 ≤ s.ru.occupancy) :
    State.assignAll fuel cs s = s.triggerPass := by
  have hlt := List.length_pos_of_mem (bestPair_mem hq)
  obtain ⟨n, rfl⟩ : ∃ n, fuel = n + 1 := ⟨fuel - 1, by omega⟩
  rw [State.assignAll_succ hq, State.backpressure_iff.mpr ho]
  rfl

theorem State.assignAll_single (ho : s.ru.occupancy < 800) (q : Pair) : State.assignAll 1 [q] s = s.assign q := by
  rw [State.assignAll_succ (q := q) rfl, State.room_iff.mpr ho]
  rfl

/-! ## One assignment (R125) -/

theorem State.assign_auto (hm : s.de.params.mode = .auto) (hx : s.lot q.lot = some x) :
    s.assign q = (s.report (.proposal q.lot q.cell x.current q.score q.slack q.setup q.run .auto 0)).startInsertion
      q.lot q.cell := by
  unfold State.assign
  rw [hm, hx]
  rfl

/-- The floor of a reservation: the entry, the lot RESERVED and out of the queue, the cell RESERVED. -/
def State.reserved (q : Pair) (x : Lot) (s : State) : State :=
  let e : Reservation := { cell := q.cell, lot := q.lot, expiry := s.minute + s.de.params.window, score := q.score }
  ({ s with
      de := { s.de with reservations := s.de.reservations ++ [e] }
      lm := { s.lm with queue := s.lm.queue.erase q.lot } }.setLot q.lot (some { x with state := .reserved })).modCell
    q.cell fun y => { y with state := .reserved }

/-- An assignment in CONFIRM mode to an IDLE cell makes the reservation (R125). -/
theorem State.assign_confirm (hm : s.de.params.mode = .confirm) (hx : s.lot q.lot = some x) (hs : x.state = .queued)
    (hc : (s.cell q.cell).state = .idle) (hd : s.derivedState q.cell = .idle) :
    s.assign q = (((s.reserved q x).report (.proposal q.lot q.cell x.current q.score q.slack q.setup q.run .confirm
      (s.minute + s.de.params.window))).report (.lotState q.lot (some .queued) (some .reserved) x.current)).report
        (.cellState q.cell .idle .reserved .reservation) := by
  obtain ⟨hlinked, hmatch, hins⟩ := State.free_of_derived (.inl hd)
  let e : Reservation := { cell := q.cell, lot := q.lot, expiry := s.minute + s.de.params.window, score := q.score }
  let u : State := s.report (.proposal q.lot q.cell x.current q.score q.slack q.setup q.run .confirm
    (s.minute + s.de.params.window))
  let v : State := { u with de := { u.de with reservations := u.de.reservations ++ [e] } }
  let w : State := ((v.setLot q.lot (some { x with state := .reserved })).leaveQueue q.lot).report
    (.lotState q.lot (some .queued) (some .reserved) x.current)
  have hassign : s.assign q = w.deriveCell q.cell .reservation := by
    have hleave : v.setLotState q.lot .reserved = w := by
      rw [State.setLotState_leave (s := v) (x := x) hx hs (by simp), hs]
    unfold State.assign
    rw [hm, hx]
    exact congrArg (State.deriveCell q.cell .reservation) hleave
  have hentry : (w.reservationOf q.cell).isSome = true := by
    have hmem : e ∈ w.de.reservations := List.mem_append_right _ (List.mem_singleton_self e)
    exact List.find?_isSome.mpr ⟨e, hmem, decide_eq_true rfl⟩
  have hderived : w.derivedState q.cell = .reserved := by
    have hwins : w.insertion q.cell = none := hins
    have hwmatch : (w.cell q.cell).mismatched = false := hmatch
    have hwlinked : w.Linked q.cell := hlinked.congr rfl rfl rfl
    rw [State.derivedState_linked hwlinked, hwmatch, State.standing, hwins, hentry]
    rfl
  have hidle : (w.cell q.cell).state = .idle := hc
  rw [hassign, State.deriveCell, hderived, hidle]
  rfl

/-! ## The pass (R123, R124) -/

theorem State.startsPass_iff : s.startsPass = true ↔
    s.de.passPending = true ∧ s.running = true ∧ s.ft.mode = .run ∧ s.ru.occupancy < 800 := by
  unfold State.startsPass
  simp only [Bool.and_eq_true, decide_eq_true_eq, Bool.not_eq_true', State.room_iff, and_assoc]

/-- DISPATCH_NOW is answered DONE and calls for a pass (R132). -/
theorem answers_dispatchNow {slot : BoardSlot} (ht : s.Takes slot) :
    Answers (.dispatchNow slot) slot s .done (some (if s.ft.mode = .run then 1 else 0)) []
      { s with de := { s.de with passPending := true } } := by
  have hact : actDispatchNow (s.takeSlot slot) =
      ((s.takeSlot slot).triggerPass, Answer.withDetail .done (if s.ft.mode = .run then 1 else 0)) := by
    unfold actDispatchNow
    rw [State.takeSlot_ft]
  exact answers_acted rfl ht hact (Acts.dispatchNow (s.takeSlot slot)).toCore (State.SameFloor.takeSlot s slot).triggerPass
    (Nat.zero_le _)

/-- Settles O50. -/
theorem passesAssignTheBestPair : Obligations.PassesAssignTheBestPair := by
  unfold Obligations.PassesAssignTheBestPair
  intro s
  refine ⟨fun slot ht => answers_dispatchNow ht, fun cs => ⟨bestPair_none, fun q hq => ?_⟩, State.candidates_pairwise, ?_, ?_,
    fun hno => ?_, ?_⟩
  · obtain ⟨before, after, hsplit, hbefore, hafter⟩ := bestPair_split hq
    refine ⟨before, after, hsplit, fun o ho => ?_, fun o ho => Pair.not_beats_iff.mp (hafter o ho)⟩
    exact (Pair.beats_iff.mp (hbefore o ho)).imp_right fun ⟨h1, h2⟩ => ⟨h1.symm, h2⟩
  · intro q x hx expiry e
    refine ⟨fun hm => State.assign_auto hm hx, ?_, fun hm hs hc hd => State.assign_confirm hm hx hs hc hd⟩
    intro d hm hs hc hd hreported st r fits tag mask i cmd w
    obtain ⟨hlinked, hmatch, -⟩ := State.free_of_derived (.inl hd)
    let u : State := s.report (.proposal q.lot q.cell x.current q.score q.slack q.setup q.run .auto 0)
    have hidle : (u.cell q.cell).state = .idle := hc
    rw [State.assign_auto hm hx, State.startInsertion_of (s := u) hx (.inl hs) hreported (hlinked.congr rfl rfl rfl) hmatch
      (by rw [hidle]; simp), hidle, hs, State.started, if_pos hs]
    rfl
  · intro fuel cs q hq hfuel
    exact ⟨State.assignAll_full hq hfuel, State.assignAll_of hq hfuel⟩
  · have hstarts : ¬ s.startsPass = true := by
      rw [State.startsPass_iff]
      rintro ⟨h1, h2, h3, h4⟩
      rcases hno with h | h | h | h
      · simp [h] at h1
      · simp [h] at h2
      · exact h h3
      · omega
    exact congrArg Host.Outcome.next (if_neg hstarts)
  · intro hpending hrunning hmode hroom v
    have hpass : exec .dispatchPass s = .next (State.assignAll s.candidates.length s.candidates v) :=
      congrArg Host.Outcome.next (if_pos (State.startsPass_iff.mpr ⟨hpending, hrunning, hmode, hroom⟩))
    have hsingle (q : Pair) (h : s.candidates = [q]) : exec .dispatchPass s = .next (v.assign q) := by
      rw [hpass, h]
      exact congrArg Host.Outcome.next (State.assignAll_single (s := v) hroom q)
    refine ⟨fun q => State.mem_candidates, hpass, fun h => ?_, fun q x h hx => ⟨fun hm => ?_, fun hm hderived => ?_⟩⟩
    · rw [hpass, h]
      rfl
    · rw [hsingle q h]
      exact congrArg Host.Outcome.next (State.assign_auto (s := v) hm hx)
    · obtain ⟨-, l, -, c, hpair⟩ := State.mem_candidates.mp (h ▸ List.mem_singleton_self q : q ∈ s.candidates)
      obtain ⟨hl, hc, hidle, y, hy, hs⟩ := State.pair_some hpair
      rw [← hl, hx] at hy
      cases hy
      rw [← hc] at hidle
      rw [hsingle q h]
      exact congrArg Host.Outcome.next (State.assign_confirm (s := v) hm hx hs hidle (hderived.symm.trans hidle))

end Sys2Proof.Machine
end

section
/-! SUPPORT. The events that are due, and a step on an empty queue (log entries 2, 3). -/

namespace Sys2Proof.Machine

variable {s : State} {c : CellNo} {p : PortNo} {i j : Instr}

/-! ## Conditions of the part's own events -/

theorem State.expires_iff {r : Reservation} :
    s.expires r = true ↔ s.working = true ∧ s.ru.occupancy < 800 ∧ r.expiry ≤ s.minute := by
  unfold State.expires
  rw [Bool.and_eq_true, Bool.and_eq_true, Bool.not_eq_true', State.room_iff, decide_eq_true_eq, and_assoc]

theorem State.pacerDue_iff : s.pacerDue = true ↔ s.working = true ∧ s.ft.firing = true := by
  unfold State.pacerDue
  rw [Bool.and_eq_true]

theorem State.scanPacerDue_iff : s.scanPacerDue = true ↔ s.running = true ∧ s.os.pacerInterval ≤ s.os.pacer := by
  unfold State.scanPacerDue
  rw [Bool.and_eq_true, decide_eq_true_eq]

theorem State.startsScan_iff :
    s.startsScan = true ↔ s.os.scanPending = true ∧ s.running = true ∧ s.ru.occupancy < 800 := by
  unfold State.startsScan
  rw [Bool.and_eq_true, Bool.and_eq_true, Bool.not_eq_true', State.room_iff, and_assoc]

theorem State.idleClose_iff : s.idleClose.isSome = true ↔
    s.running = true ∧ ∃ p, s.ru.filling = some p ∧ 1 ≤ (s.ru.page p).used ∧ s.ru.idleClose ≤ s.ru.idle := by
  unfold State.idleClose
  cases s.ru.filling with
  | none => simp
  | some p =>
    dsimp only
    split
    · next h => simpa [and_assoc] using h
    · next h => simpa [and_assoc] using h

theorem State.moveCase_iff : s.moveCase ≠ .nothing ↔ s.running = true ∧ s.ru.filling ≠ none ∧ s.ru.fifo ≠ [] := by
  unfold State.moveCase
  cases s.ru.filling with
  | none => simp
  | some p =>
    cases s.ru.fifo with
    | nil => simp
    | cons r rest =>
      cases s.running with
      | false => simp
      | true =>
        dsimp only
        split
        · simp at *
        · split <;> simp

/-! ## The events due (log entry 3) -/

theorem mem_eventIf {b : Bool} : i ∈ eventIf b j ↔ b = true ∧ i = j := by
  unfold eventIf
  cases b <;> simp

theorem State.mem_dueOfCell : i ∈ s.dueOfCell c ↔ (5000 ≤ (s.cell c).silence ∧ i = .silenceExpiry c) ∨
    ∃ x, s.insertion c = some x ∧ ((x.state = .kitWait ∧ x.kitTimer = 0 ∧ i = .kitTimerExpiry c) ∨
      (x.state = .loading ∧ x.loadTimer = 0 ∧ i = .loadTimerExpiry c) ∨
      (x.state = .soaking ∧ x.soakStarted = true ∧ x.soakTimer = 0 ∧ i = .soakTimerExpiry c)) := by
  unfold State.dueOfCell
  rw [List.mem_append, mem_eventIf, decide_eq_true_eq]
  refine or_congr Iff.rfl ?_
  cases s.insertion c with
  | none => simp
  | some x => simp [mem_eventIf, and_assoc]

theorem State.mem_dueOfPort : i ∈ s.dueOfPort p ↔
    (∃ t, (s.port p).turn = some t ∧ 2 ≤ t.wait ∧ i = .listenTimeout p) ∨
      ((s.port p).turn = none ∧ s.takesTurns p = true ∧ i = .turnStart p) := by
  unfold State.dueOfPort
  cases (s.port p).turn with
  | none => simp [mem_eventIf]
  | some t =>
    have hwait : decide (Config.listenMs ≤ t.wait) = true ↔ 2 ≤ t.wait := decide_eq_true_iff
    simp [mem_eventIf, hwait]

theorem State.mem_due : i ∈ s.due ↔
    (1000 ≤ s.ft.ms ∧ i = .minuteNotice) ∨ (∃ r ∈ s.de.reservations, s.expires r = true ∧ i = .reservationExpiry r.cell) ∨
    (s.pacerDue = true ∧ i = .dispatchPacerFire) ∨ (∃ c, i ∈ s.dueOfCell c) ∨
    (s.scanPacerDue = true ∧ i = .scanPacerExpiry) ∨ (s.idleClose.isSome = true ∧ i = .idleTimerExpiry) ∨
    (s.moveCase ≠ .nothing ∧ i = .recordMove) ∨ (s.startsScan = true ∧ i = .scanPass) ∨
    (s.startsPass = true ∧ i = .dispatchPass) ∨ ∃ p, i ∈ s.dueOfPort p := by
  unfold State.due
  simp only [List.mem_append, mem_eventIf, decide_eq_true_eq, List.mem_map, List.mem_filter, List.mem_flatMap,
    mem_allCells, List.mem_finRange, true_and, and_assoc, or_assoc, @eq_comm _ _ i]

/-- The events due are those whose conditions stand. -/
theorem State.mem_due_iff (s : State) (i : Instr) : i ∈ s.due ↔ s.IsDue i := by
  rw [State.mem_due]
  constructor
  · rintro (⟨h, rfl⟩ | ⟨r, hr, h, rfl⟩ | ⟨h, rfl⟩ | ⟨c, h⟩ | ⟨h, rfl⟩ | ⟨h, rfl⟩ | ⟨h, rfl⟩ | ⟨h, rfl⟩ | ⟨h, rfl⟩ | ⟨p, h⟩)
    · exact h
    · obtain ⟨hwork, hroom, hexpiry⟩ := State.expires_iff.mp h
      exact ⟨hwork, hroom, r, hr, rfl, hexpiry⟩
    · exact State.pacerDue_iff.mp h
    · rcases State.mem_dueOfCell.mp h with
        ⟨hsilent, rfl⟩ | ⟨x, hx, ⟨h1, h2, rfl⟩ | ⟨h1, h2, rfl⟩ | ⟨h1, h2, h3, rfl⟩⟩
      · exact hsilent
      · exact ⟨x, hx, h1, h2⟩
      · exact ⟨x, hx, h1, h2⟩
      · exact ⟨x, hx, h1, h2, h3⟩
    · exact State.scanPacerDue_iff.mp h
    · exact State.idleClose_iff.mp h
    · exact State.moveCase_iff.mp h
    · exact State.startsScan_iff.mp h
    · exact State.startsPass_iff.mp h
    · rcases State.mem_dueOfPort.mp h with ⟨t, ht, hwait, rfl⟩ | ⟨ht, htakes, rfl⟩
      · exact ⟨t, ht, hwait⟩
      · exact ⟨ht, State.takesTurns_iff.mp htakes⟩
  · intro h
    cases i with
    | minuteNotice => exact .inl ⟨h, rfl⟩
    | reservationExpiry c =>
      obtain ⟨hwork, hroom, r, hr, rfl, hexpiry⟩ := h
      exact .inr (.inl ⟨r, hr, State.expires_iff.mpr ⟨hwork, hroom, hexpiry⟩, rfl⟩)
    | dispatchPacerFire => exact .inr (.inr (.inl ⟨State.pacerDue_iff.mpr h, rfl⟩))
    | silenceExpiry c =>
      exact .inr (.inr (.inr (.inl ⟨c, State.mem_dueOfCell.mpr (.inl ⟨h, rfl⟩)⟩)))
    | kitTimerExpiry c =>
      obtain ⟨x, hx, h1, h2⟩ := h
      exact .inr (.inr (.inr (.inl ⟨c, State.mem_dueOfCell.mpr (.inr ⟨x, hx, .inl ⟨h1, h2, rfl⟩⟩)⟩)))
    | loadTimerExpiry c =>
      obtain ⟨x, hx, h1, h2⟩ := h
      exact .inr (.inr (.inr (.inl ⟨c, State.mem_dueOfCell.mpr (.inr ⟨x, hx, .inr (.inl ⟨h1, h2, rfl⟩)⟩)⟩)))
    | soakTimerExpiry c =>
      obtain ⟨x, hx, h1, h2, h3⟩ := h
      exact .inr (.inr (.inr (.inl ⟨c, State.mem_dueOfCell.mpr (.inr ⟨x, hx, .inr (.inr ⟨h1, h2, h3, rfl⟩)⟩)⟩)))
    | scanPacerExpiry => exact .inr (.inr (.inr (.inr (.inl ⟨State.scanPacerDue_iff.mpr h, rfl⟩))))
    | idleTimerExpiry => exact .inr (.inr (.inr (.inr (.inr (.inl ⟨State.idleClose_iff.mpr h, rfl⟩)))))
    | recordMove => exact .inr (.inr (.inr (.inr (.inr (.inr (.inl ⟨State.moveCase_iff.mpr h, rfl⟩))))))
    | scanPass => exact .inr (.inr (.inr (.inr (.inr (.inr (.inr (.inl ⟨State.startsScan_iff.mpr h, rfl⟩)))))))
    | dispatchPass => exact .inr (.inr (.inr (.inr (.inr (.inr (.inr (.inr (.inl ⟨State.startsPass_iff.mpr h, rfl⟩))))))))
    | listenTimeout p =>
      obtain ⟨t, ht, h⟩ := h
      exact .inr (.inr (.inr (.inr (.inr (.inr (.inr (.inr (.inr ⟨p, State.mem_dueOfPort.mpr (.inl ⟨t, ht, h, rfl⟩)⟩))))))))
    | turnStart p =>
      obtain ⟨ht, h⟩ := h
      exact .inr (.inr (.inr (.inr (.inr (.inr (.inr (.inr (.inr
        ⟨p, State.mem_dueOfPort.mpr (.inr ⟨ht, State.takesTurns_iff.mpr h, rfl⟩)⟩))))))))
    | _ => exact False.elim h

/-! ## A millisecond (R44, R51, R63, R147, R159, R166) -/

/-- The state after a millisecond that leaves these cells and ports, before the second it may end. -/
def State.millisecond (cells : Vector Cell 48) (ports : Vector Port 4) (s : State) : State :=
  { s with
    cells := cells, ports := ports
    os := { s.os with pacer := if s.running then s.os.pacer + 1 else s.os.pacer }
    ru := { s.ru with idle := if s.idleRuns then s.ru.idle + 1 else s.ru.idle }
    ft := { s.ft with ms := s.ft.ms + 1 } }

theorem State.passSilence_eq (s : State) : s.passSilence = { s with cells := s.passSilence.cells } := rfl

theorem State.tick_eq (s : State) :
    let t := s.millisecond s.passSilence.cells (s.ports.map Port.passWait)
    s.tick = if 1000 ≤ s.ft.ms + 1 then t.passSecond else t := by
  have htick (cells : Vector Cell 48) (h : s.passSilence = { s with cells := cells }) :
      s.tick = if 1000 ≤ s.ft.ms + 1 then (s.millisecond cells (s.ports.map Port.passWait)).passSecond
        else s.millisecond cells (s.ports.map Port.passWait) := by
    unfold State.tick
    rw [h]
    generalize s.ports.map Port.passWait = ports
    rfl
  exact htick _ s.passSilence_eq

theorem State.passSilence_cells (s : State) (c : CellNo) : s.passSilence.cells[c] = { s.cell c with
    silence := if s.silenceRuns c then (s.cell c).silence + 1 else (s.cell c).silence } := by
  have hcell : s.passSilence.cells[c] =
      if s.silenceRuns c then { s.cell c with silence := (s.cell c).silence + 1 } else s.cell c :=
    Vector.getElem_ofFn c.isLt
  rw [hcell]
  split <;> rfl

theorem State.passWait_ports (s : State) (p : PortNo) : (s.ports.map Port.passWait)[p] = { s.port p with
    turn := (s.port p).turn.map fun x => { x with wait := x.wait + 1 } } :=
  Vector.getElem_map _ _

/-- The second of the floor clock that does not end its minute does not wrap (R147). -/
theorem State.countSecond_of (h : s.minuteEnds = false) :
    s.countSecond = { s with ft := { s.ft with clock := s.ft.clock + 1 } } := by
  have hwrap : s.ft.clock ≠ BitVec.allOnes 32 := by
    intro e
    unfold State.minuteEnds State.minute at h
    rw [e] at h
    simp at h
  unfold State.countSecond
  dsimp only
  rw [decide_eq_false hwrap]
  rfl

/-- An insertion's timers after a second (R63). -/
theorem Insertion.second_eq (runs : Bool) (i : Insertion) : i.second runs = { i with
    kitTimer := if runs = true ∧ i.state = .kitWait then i.kitTimer - 1 else i.kitTimer
    loadTimer := if runs = true ∧ i.state = .loading then i.loadTimer - 1 else i.loadTimer
    soakTimer := if i.state = .soaking ∧ i.soakStarted = true then i.soakTimer - 1 else i.soakTimer } := by
  unfold Insertion.second
  simp only [Bool.and_eq_true, decide_eq_true_eq]

/-- A second changes the insertions' timers and, within its minute, the floor clock (R63, R147). -/
theorem State.passSecond_eq (s : State) : s.passSecond = { s with
    insertions := s.insertions.map (Option.map (Insertion.second s.timersRun))
    ft := if s.minuteEnds = true then s.ft else { s.ft with clock := s.ft.clock + 1, ms := 0 } } := by
  let t : State := { s with insertions := s.insertions.map (Option.map (Insertion.second s.timersRun)) }
  have ht : s.passSecond = if t.minuteEnds = true then t else
      { t.countSecond with ft := { t.countSecond.ft with ms := 0 } } := rfl
  have hends : t.minuteEnds = s.minuteEnds := rfl
  rw [ht, hends]
  cases h : s.minuteEnds with
  | true => rfl
  | false =>
    rw [State.countSecond_of (s := t) (hends.trans h)]
    rfl

theorem State.passSecond_insertion (s : State) (c : CellNo) :
    s.passSecond.insertion c = (s.insertion c).map (Insertion.second s.timersRun) := by
  rw [State.passSecond_eq]
  exact Vector.getElem_map _ _

theorem step_empty (h : s.pending = []) : step s = .next s.idle := by
  unfold step
  rw [h]

/-- Settles O2. -/
theorem emptyQueuePassesTime : Obligations.EmptyQueuePassesTime := by
  unfold Obligations.EmptyQueuePassesTime
  refine fun s => ⟨s.mem_due_iff, fun hempty => ⟨fun hdue => ?_, fun hnone => ?_⟩⟩
  · rw [step_empty hempty]
    unfold State.idle
    cases hs : s.due with
    | nil => exact absurd hs hdue
    | cons i rest => rfl
  have hidle : s.idle = s.tick := by
    unfold State.idle
    rw [hnone]
  refine ⟨s.tick, by rw [step_empty hempty, hidle], ?_⟩
  have hcells := s.passSilence_cells
  have hports := s.passWait_ports
  rw [State.tick_eq]
  generalize s.passSilence.cells = cells at hcells ⊢
  generalize s.ports.map Port.passWait = ports at hports ⊢
  by_cases hsecond : 1000 ≤ s.ft.ms + 1
  · have hinsertion := (s.millisecond cells ports).passSecond_insertion
    rw [State.passSecond_eq] at hinsertion
    rw [if_pos hsecond, State.passSecond_eq]
    refine ⟨hcells, hports, rfl, rfl, fun h => absurd h (by omega), fun _ => ⟨fun c => (hinsertion c).trans ?_, fun h => ?_,
      fun h => ?_⟩, rfl, rfl, rfl, rfl, rfl, rfl, rfl, rfl⟩
    · exact congrArg (fun f => Option.map f (s.insertion c)) (funext fun i => i.second_eq s.timersRun)
    · exact if_neg (h ▸ Bool.false_ne_true)
    · exact if_pos h
  · rw [if_neg hsecond]
    exact ⟨hcells, hports, rfl, rfl, fun _ => ⟨rfl, rfl⟩, fun h => absurd h hsecond,
      rfl, rfl, rfl, rfl, rfl, rfl, rfl, rfl⟩

end Sys2Proof.Machine
end

section
/-! SUPPORT. Bytes read back: the orders of the work board (R158, Table 10-5), PUT_LIMIT_SET's buffer (R86, R160), and the
frames of the taps (R45 to R47, Table 3-2). -/

namespace Sys2Proof.Machine

/-! ## Fields at the front of bytes, and behind a field -/

section Fields

variable {b : Byte} {bs : List Byte} {i : Nat} {x : Half} {w : Word} {a : Addr}

@[simp] theorem byteAt_cons_zero : byteAt (b :: bs) 0 = b := rfl

@[simp] theorem byteAt_cons_succ : byteAt (b :: bs) (i + 1) = byteAt bs i := rfl

@[simp] theorem halfAt_cons_succ : halfAt (b :: bs) (i + 1) = halfAt bs i := rfl

@[simp] theorem wordAt_cons_succ : wordAt (b :: bs) (i + 1) = wordAt bs i := rfl

@[simp] theorem addrAt_cons_succ : addrAt (b :: bs) (i + 1) = addrAt bs i := rfl

@[simp] theorem halfAt_half : halfAt (halfBytes x ++ bs) 0 = x := halfAt_append [] bs x 0 rfl

@[simp] theorem halfAt_half_end : halfAt (halfBytes x) 0 = x := ofNat_halfBytes x

@[simp] theorem wordAt_word : wordAt (wordBytes w ++ bs) 0 = w := wordAt_append [] bs w 0 rfl

@[simp] theorem addrAt_addr : addrAt (addrBytes a ++ bs) 0 = a := addrAt_append [] bs a 0 rfl

@[simp] theorem byteAt_past_half : byteAt (halfBytes x ++ bs) (i + 2) = byteAt bs i := rfl

@[simp] theorem halfAt_past_half : halfAt (halfBytes x ++ bs) (i + 2) = halfAt bs i := rfl

@[simp] theorem wordAt_past_half : wordAt (halfBytes x ++ bs) (i + 2) = wordAt bs i := rfl

@[simp] theorem addrAt_past_half : addrAt (halfBytes x ++ bs) (i + 2) = addrAt bs i := rfl

@[simp] theorem byteAt_past_word : byteAt (wordBytes w ++ bs) (i + 4) = byteAt bs i := rfl

@[simp] theorem halfAt_past_word : halfAt (wordBytes w ++ bs) (i + 4) = halfAt bs i := rfl

end Fields

variable {rest : List Byte}

/-! ## The orders (R158, Table 10-5) -/

/-- A code of no order spells BAD_ORDER (R160). -/
theorem readOrder_bad {code : Byte} (h : (Order.bad code).wellFormed = true) (bs : List Byte) :
    readOrder code bs = .bad code := by
  have hcode : code.toNat = 0 ∨ ∃ k, code.toNat = k + 31 := by
    simp only [Order.wellFormed, Bool.or_eq_true, beq_iff_eq, decide_eq_true_eq] at h
    rcases h with rfl | h
    · exact .inl rfl
    · exact .inr ⟨code.toNat - 31, by omega⟩
  unfold readOrder
  generalize code.toNat = n at hcode
  rcases hcode with rfl | ⟨k, rfl⟩ <;> rfl

theorem lotNumber_read (v : LotNumber) (rest : List Byte) :
    (Vector.ofFn fun i => byteAt (v.toList ++ rest) i.val : LotNumber) = v := by
  ext k hk
  simp [byteAt, List.getElem?_append_left]

/-- The steps of ADMIT_LOT, four bytes each. -/
theorem stepArgs_read (v : Vector StepArgs 4) (rest : List Byte) :
    (Vector.ofFn fun k : Fin 4 => stepAt (stepArgBytes v[0] ++ (stepArgBytes v[1] ++ (stepArgBytes v[2] ++
      (stepArgBytes v[3] ++ rest)))) (4 * k.val)) = v := by
  ext k hk
  interval_cases k <;> simp [stepAt, stepArgBytes]

/-- ADMIT_LOT: the lot number takes 16 bytes, and the steps stand 8 bytes behind it. -/
theorem readOrder_admitLot (a : LotArgs) (rest : List Byte) :
    readOrder 3 (orderArgBytes (.admitLot a) ++ rest) = .admitLot a := by
  have hlength : a.lotNumber.toList.length = 16 := by simp
  let steps := stepArgBytes a.steps[0] ++ (stepArgBytes a.steps[1] ++ (stepArgBytes a.steps[2] ++
    (stepArgBytes a.steps[3] ++ rest)))
  let tail := halfBytes a.startQuantity ++ (wordBytes a.dueMinute ++ (a.priority :: a.stepCount :: steps))
  have hbytes : orderArgBytes (.admitLot a) ++ rest = a.lotNumber.toList ++ tail := by
    simp [orderArgBytes, tail, steps]
  have hsteps : (Vector.ofFn fun k : Fin 4 => stepAt (a.lotNumber.toList ++ tail) (24 + 4 * k.val)) = a.steps := by
    rw [← stepArgs_read a.steps rest]
    congr 1
    funext k
    have hk : 24 + 4 * k.val = 16 + (4 * k.val + 8) := by omega
    rw [hk, stepAt_past _ _ _ hlength]
    rfl
  have hquantity : halfAt (a.lotNumber.toList ++ tail) 16 = a.startQuantity :=
    (halfAt_past _ tail 0 hlength).trans halfAt_half
  have hdue : wordAt (a.lotNumber.toList ++ tail) 18 = a.dueMinute := (wordAt_past _ tail 2 hlength).trans wordAt_word
  have hpriority : byteAt (a.lotNumber.toList ++ tail) 22 = a.priority := byteAt_past _ tail 6 hlength
  have hcount : byteAt (a.lotNumber.toList ++ tail) 23 = a.stepCount := byteAt_past _ tail 7 hlength
  rw [hbytes]
  unfold readOrder
  simp [hsteps, hquantity, hdue, hpriority, hcount, lotNumber_read]

/-- PUT_LIMIT_SET: as many entries as the entry count says (R86). -/
theorem readOrder_putLimitSet {a : LimitSetArgs} (h : (Order.putLimitSet a).wellFormed = true) (rest : List Byte) :
    readOrder 14 (orderArgBytes (.putLimitSet a) ++ rest) = .putLimitSet a := by
  have hcount : a.entryCount.toNat = a.entries.length := (beq_iff_eq.mp h).symm
  have hentries : entriesAt a.entryCount.toNat ((orderArgBytes (.putLimitSet a) ++ rest).drop 8) = a.entries := by
    have hdrop : (orderArgBytes (.putLimitSet a) ++ rest).drop 8 = a.entries.flatMap entryArgBytes ++ rest := rfl
    rw [hdrop, hcount, entriesAt_eq]
  have hbyte : byteAt (orderArgBytes (.putLimitSet a) ++ rest) 7 = a.entryCount := rfl
  unfold readOrder
  simp [hbyte, hentries]
  simp [orderArgBytes]

/-- An order's bytes spell the order (R158). -/
theorem readOrder_orderArgBytes (o : Order) (rest : List Byte) (h : o.wellFormed = true) :
    readOrder (orderCode o) (orderArgBytes o ++ rest) = o := by
  cases o with
  | bad code => exact readOrder_bad h _
  | admitLot a => exact readOrder_admitLot a rest
  | putLimitSet a => exact readOrder_putLimitSet h rest
  | _ => simp [readOrder, orderCode, orderArgBytes]

/-! ## Host memory read (R154, R158, R160) -/

/-- Bytes that all stand in host memory are read. -/
theorem HostView.read_list {mem : HostView} {a n : Nat} {bs : List Byte} (hlen : bs.length = n)
    (h : ∀ k (hk : k < bs.length), mem (a + k) = some bs[k]) : ∃ v, mem.read a n = some v ∧ v.toList = bs := by
  subst hlen
  exact ⟨⟨bs.toArray, rfl⟩, HostView.read_some _ fun k => h k.val k.isLt, rfl⟩

/-- A part of the bytes stands behind the bytes before it. -/
theorem getElem_behind (head tail : List Byte) (k : Nat) (hk : k < tail.length) :
    (head ++ tail)[head.length + k]'(by rw [List.length_append]; omega) = tail[k] := by
  simp

/-- The buffer of PUT_LIMIT_SET: the eight bytes before the entries, and the entries (log entry 39). -/
structure LimitSetBuffer (a : LimitSetArgs) (front back : List Byte) : Prop where
  bytes : orderArgBytes (.putLimitSet a) = front ++ back
  frontLength : front.length = 8
  count : ∀ v : Vector Byte 8, v.toList = front → v[7] = a.entryCount
  backLength : back.length = 17 * min a.entryCount.toNat 8

theorem entryArgBytes_length (e : EntryArgs) : (entryArgBytes e).length = 17 := rfl

theorem limitSetBuffer {a : LimitSetArgs} (h : a.entries.length = a.entryCount.toNat) (hmax : a.entryCount.toNat ≤ 8) :
    ∃ front back, LimitSetBuffer a front back := by
  refine ⟨a.number :: (halfBytes a.minUnits ++ (halfBytes a.interval ++ (halfBytes a.siteMinUnits ++ [a.entryCount]))),
    a.entries.flatMap entryArgBytes, by simp [orderArgBytes], rfl, fun v hv => ?_, ?_⟩
  · have hget : v.toList[7]'(by simp) = a.entryCount := by
      simp only [hv]
      rfl
    exact hget
  · rw [List.length_flatMap, Nat.min_eq_left hmax, ← h]
    simp [entryArgBytes_length, Nat.mul_comm]

/-- The buffer read when all its bytes stand. -/
theorem HostView.readLimitSet_some {mem : HostView} {addr : Nat} {a : LimitSetArgs} {front back : List Byte}
    (h : LimitSetBuffer a front back) (hfront : ∀ k (hk : k < front.length), mem (addr + k) = some front[k])
    (hback : ∀ k (hk : k < back.length), mem (addr + 8 + k) = some back[k]) :
    mem.readLimitSet addr = some (orderArgBytes (.putLimitSet a)) := by
  obtain ⟨v, hv, hvl⟩ := HostView.read_list h.frontLength hfront
  have hcount := h.count v hvl
  obtain ⟨w, hw, hwl⟩ := HostView.read_list h.backLength hback
  unfold HostView.readLimitSet
  rw [hv, Option.bind_some, hcount, hw, Option.map_some, hvl, hwl, h.bytes]

/-- The read of the buffer fails with a byte of it. -/
theorem HostView.readLimitSet_none {mem : HostView} {addr : Nat} {a : LimitSetArgs} {front back : List Byte}
    (h : LimitSetBuffer a front back)
    (hbad : (∃ k, k < 8 ∧ mem (addr + k) = none) ∨
      ((∀ k (hk : k < front.length), mem (addr + k) = some front[k]) ∧ ∃ k, k < back.length ∧ mem (addr + 8 + k) = none)) :
    mem.readLimitSet addr = none := by
  unfold HostView.readLimitSet
  rcases hbad with ⟨k, hk, hnone⟩ | ⟨hfront, k, hk, hnone⟩
  · rw [HostView.read_none ⟨⟨k, hk⟩, hnone⟩]
    rfl
  · obtain ⟨v, hv, hvl⟩ := HostView.read_list h.frontLength hfront
    have hcount := h.count v hvl
    rw [hv, Option.bind_some, hcount, HostView.read_none ⟨⟨k, by rwa [← h.backLength]⟩, hnone⟩]
    rfl

/-- PUT_LIMIT_SET's buffer is read when every byte of it stands, and not when one of them fails (R160). -/
theorem HostView.readLimitSet_cases (mem : HostView) (addr : Nat) {a : LimitSetArgs}
    (hentries : a.entries.length = a.entryCount.toNat) (hmax : a.entryCount.toNat ≤ 8) :
    let bs := orderArgBytes (.putLimitSet a)
    ((∀ k (h : k < bs.length), mem (addr + k) = some bs[k]) → mem.readLimitSet addr = some bs) ∧
    ((∀ k (h : k < bs.length), mem (addr + k) = some bs[k] ∨ mem (addr + k) = none) →
      (∃ k, k < bs.length ∧ mem (addr + k) = none) → mem.readLimitSet addr = none) := by
  intro bs
  obtain ⟨front, back, hbuffer⟩ := limitSetBuffer hentries hmax
  have hbs : bs = front ++ back := hbuffer.bytes
  have hlen : bs.length = 8 + back.length := by rw [hbs, List.length_append, hbuffer.frontLength]
  have hfront (k : Nat) (hk : k < front.length) : bs[k]'(by rw [hlen, ← hbuffer.frontLength]; omega) = front[k] := by
    simp only [hbs, List.getElem_append_left hk]
  have hback (k : Nat) (hk : k < back.length) : bs[8 + k]'(by rw [hlen]; omega) = back[k] := by
    simp only [hbs, ← hbuffer.frontLength, getElem_behind front back k hk]
  refine ⟨fun hall => HostView.readLimitSet_some hbuffer (fun k hk => ?_) fun k hk => ?_, fun heach hbad => ?_⟩
  · rw [hall k (by rw [hlen, ← hbuffer.frontLength]; omega), hfront k hk]
  · rw [Nat.add_assoc, hall (8 + k) (by omega), hback k hk]
  · refine HostView.readLimitSet_none hbuffer ?_
    by_cases hfails : ∃ k, k < 8 ∧ mem (addr + k) = none
    · exact .inl hfails
    · obtain ⟨k, hk, hnone⟩ := hbad
      have hk8 : 8 ≤ k := Nat.le_of_not_lt fun h => hfails ⟨k, h, hnone⟩
      refine .inr ⟨fun j hj => ?_, k - 8, by omega, ?_⟩
      · rw [← hfront j hj]
        have hj8 : j < 8 := by rwa [← hbuffer.frontLength]
        exact (heach j (by omega)).resolve_right fun h => hfails ⟨j, hj8, h⟩
      · rw [Nat.add_assoc, Nat.add_sub_cancel' hk8]
        exact hnone

/-! ## The slots of the work board (R158, R159) -/

theorem orderCode_ne_putLimitSet {o : Order} (hw : o.wellFormed = true) (h : ∀ a, o ≠ .putLimitSet a) :
    orderCode o ≠ putLimitSetCode := by
  cases o with
  | bad code =>
    rintro rfl
    revert hw
    decide
  | putLimitSet a => exact absurd rfl (h a)
  | _ => simp [orderCode, putLimitSetCode]

theorem State.slotCommand_unread {s : State} {mem : HostView} {slot : BoardSlot}
    (h : ∃ k : Fin 64, mem (s.slotAddr slot + k.val) = none) :
    s.slotCommand mem slot = some (.hostAccessFail .slotRead) := by
  unfold State.slotCommand
  rw [HostView.read_none h]

theorem State.slotCommand_read {s : State} {mem : HostView} {slot : BoardSlot} {b : Vector Byte 64}
    (h : ∀ k : Fin 64, mem (s.slotAddr slot + k.val) = some b[k]) :
    s.slotCommand mem slot = if b[0] = 1 then some (postedCommand mem slot b) else none := by
  unfold State.slotCommand
  rw [HostView.read_some b h]
  rfl

/-- A POSTED slot with any order but PUT_LIMIT_SET. -/
theorem postedCommand_order {mem : HostView} {slot : BoardSlot} {b : Vector Byte 64} {o : Order}
    (hw : o.wellFormed = true) (ho : ∀ a, o ≠ .putLimitSet a) (hcode : b[1] = orderCode o)
    (hargs : b.toList.drop 16 = orderArgBytes o ++ rest) : postedCommand mem slot b = orderCommand slot o := by
  unfold postedCommand
  dsimp only
  rw [hcode, hargs, readOrder_orderArgBytes o rest hw]
  exact if_neg (orderCode_ne_putLimitSet hw ho)

/-- A POSTED slot with PUT_LIMIT_SET, by the read of its buffer. -/
theorem postedCommand_putLimitSet {mem : HostView} {slot : BoardSlot} {b : Vector Byte 64} {buffer : Addr}
    (hcode : b[1] = 14) (hargs : b.toList.drop 16 = leBytes 8 buffer.toNat ++ rest) :
    (∀ a : LimitSetArgs, a.entries.length = a.entryCount.toNat →
      mem.readLimitSet buffer.toNat = some (orderArgBytes (.putLimitSet a)) →
      postedCommand mem slot b = .putLimitSet slot a) ∧
    (mem.readLimitSet buffer.toNat = none → postedCommand mem slot b = .hostAccessFail (.limitBuffer slot)) := by
  have hbuffer : addrAt (b.toList.drop 16) 0 = buffer := by
    rw [hargs]
    exact addrAt_addr
  unfold postedCommand
  dsimp only
  rw [hcode, hbuffer]
  refine ⟨fun a hw hread => ?_, fun hread => ?_⟩
  · have horder := readOrder_orderArgBytes (.putLimitSet a) [] (beq_iff_eq.mpr hw)
    rw [List.append_nil] at horder
    rw [hread]
    exact congrArg (orderCommand slot) horder
  · rw [hread]
    rfl

/-! ## The frames of the taps (R44 to R47) -/

/-- A frame with the body of its kind makes the command of its kind (R45, Table 3-2). -/
theorem receivedCommand_body (p : PortNo) (address : Byte) {kind length : Nat} {body : List Byte}
    (hlen : body.length = length) (hk : kind < 256) (hb : tapBodyLength kind = some length) (hl : length < 256) :
    receivedCommand p (tapFrame address kind body) = kindCommand p address (BitVec.ofNat 8 kind) body := by
  subst hlen
  exact receivedCommand_tapFrame p address kind body hk hb hl

theorem leBytes_byte (b : Byte) : leBytes 1 b.toNat = [b] := by simp [leBytes]

theorem StatusFrame.ofBody_body (f : StatusFrame) : StatusFrame.ofBody (StatusFrame.body f) = f := by
  have hbody : StatusFrame.body f = f.handler :: (flagByte f.tempReached ++ (f.lastKind :: (halfBytes f.lastTag ++
      halfBytes f.highest))) := by
    unfold StatusFrame.body
    rw [leBytes_byte, leBytes_byte]
    simp [halfBytes]
  have hflag : flagAt (StatusFrame.body f) 1 = f.tempReached := by
    rw [hbody]
    cases f.tempReached <;> rfl
  unfold StatusFrame.ofBody
  rw [hflag, hbody]
  simp [flagByte]

theorem IdentFrame.ofBody_body (f : IdentFrame) : IdentFrame.ofBody (IdentFrame.body f) = f := by
  have hbody : IdentFrame.body f = wordBytes f.serial ++ (f.testerClass :: f.handlerClass :: f.siteCount :: f.temps ::
      (halfBytes f.kitCode ++ flagByte f.fresh)) := by
    simp [IdentFrame.body, halfBytes, wordBytes]
  have hflag : flagAt (IdentFrame.body f) 10 = f.fresh := by
    rw [hbody]
    cases f.fresh <;> rfl
  unfold IdentFrame.ofBody
  rw [hflag, hbody]
  simp

/-- The k-th of two-byte fields in a row. -/
theorem halfAt_flatMap (xs : List Half) (post : List Byte) (k : Nat) (hk : k < xs.length) :
    halfAt (xs.flatMap halfBytes ++ post) (2 * k) = xs[k] := by
  have hpre : ((xs.take k).flatMap halfBytes).length = 2 * k := by
    rw [List.length_flatMap]
    simp [halfBytes_length, Nat.mul_comm, Nat.min_eq_left hk.le]
  have hbytes : xs.flatMap halfBytes ++ post = (xs.take k).flatMap halfBytes ++
      (halfBytes xs[k] ++ ((xs.drop (k + 1)).flatMap halfBytes ++ post)) := by
    rw [← List.append_assoc (halfBytes xs[k]), ← List.flatMap_cons, ← List.drop_eq_getElem_cons hk, ← List.append_assoc,
      ← List.flatMap_append, List.take_append_drop]
  rw [hbytes]
  exact halfAt_append _ _ _ _ hpre

theorem EndFrame.ofBody_body (f : EndFrame) : EndFrame.ofBody (EndFrame.body f) = f := by
  have hbody : EndFrame.body f = f.totals.toList.flatMap halfBytes ++ (halfBytes f.loss ++ (halfBytes f.highest ++ [])) := by
    rw [List.append_nil]
    exact List.append_assoc _ _ _
  have hlength : (f.totals.toList.flatMap halfBytes).length = 32 := by
    rw [List.length_flatMap]
    simp [halfBytes_length]
  have htotals : (Vector.ofFn fun b : Fin 16 => halfAt (EndFrame.body f) (2 * b.val)) = f.totals := by
    ext k hk
    rw [Vector.getElem_ofFn, hbody, halfAt_flatMap _ _ k (by simpa using hk)]
    simp
  have hloss : halfAt (EndFrame.body f) 32 = f.loss := by
    rw [hbody]
    exact halfAt_append _ _ _ _ hlength
  have hhighest : halfAt (EndFrame.body f) 34 = f.highest := by
    rw [hbody, ← List.append_assoc]
    exact halfAt_append _ _ _ _ (by rw [List.length_append, hlength, halfBytes_length])
  unfold EndFrame.ofBody
  rw [htotals, hloss, hhighest]

/-- A frame that is broken off, or that goes on behind its CRC, is BAD_CRC_FRAME (R46). -/
theorem receivedCommand_broken (p : PortNo) (address : Byte) {bs : List Byte} (hne : bs ≠ [])
    (h : bs.length < 3 ∨ ∃ kind length rest, bs = address :: kind :: length :: rest ∧ rest.length ≠ length.toNat + 2) :
    receivedCommand p bs = .badCrcFrame p := by
  rcases h with h | ⟨kind, length, rest, rfl, h⟩
  · match bs with
    | [] => exact absurd rfl hne
    | [_] => rfl
    | [_, _] => rfl
    | _ :: _ :: _ :: _ => exact absurd h (by simp)
  · exact if_neg fun hcrc => h (by have := hcrc.1; rw [List.length_drop] at this; omega)

/-- Settles O14. -/
theorem orderBytesReadBack : Obligations.OrderBytesReadBack := by
  unfold Obligations.OrderBytesReadBack
  refine ⟨readOrder_orderArgBytes, fun s mem slot => ⟨State.slotCommand_unread, fun b hb => ?_⟩, fun p address => ?_⟩
  · rw [State.slotCommand_read hb]
    refine ⟨fun h0 => if_neg h0, fun o rest h0 hw ho hcode hargs => ?_, ?_⟩
    · rw [if_pos h0, postedCommand_order hw ho hcode hargs]
    intro a buffer rest h0 hcode hentries hmax hargs bs
    obtain ⟨hsome, hnone⟩ := postedCommand_putLimitSet (mem := mem) (slot := slot) hcode hargs
    obtain ⟨hread, hfail⟩ := mem.readLimitSet_cases buffer.toNat hentries hmax
    rw [if_pos h0]
    exact ⟨fun hall => congrArg some (hsome a hentries (hread hall)),
      fun heach hbad => congrArg some (hnone (hfail heach hbad))⟩
  · refine ⟨fun f => ?_, fun f => ?_, fun t mask => ?_, fun site bin kind n => ?_, fun f => ?_, ?_, rfl,
      fun bs => receivedCommand_broken p address, fun kind length body crc hlen => ?_⟩
    · have hlength : (StatusFrame.body f).length = 7 := rfl
      rw [receivedCommand_body p address hlength (by decide) rfl (by decide)]
      exact congrArg (Instr.status p address) (StatusFrame.ofBody_body f)
    · have hlength : (IdentFrame.body f).length = 11 := rfl
      rw [receivedCommand_body p address hlength (by decide) rfl (by decide)]
      exact congrArg (Instr.ident p address) (IdentFrame.ofBody_body f)
    · have hlength : (startIndexBody t mask).length = 5 := rfl
      have htime : wordAt (startIndexBody t mask) 0 = t := wordAt_word
      rw [receivedCommand_body p address hlength (by decide) rfl (by decide)]
      exact congrArg (fun t => Instr.startIndex p address t mask) htime
    · have hlength : (unitBody site bin kind n).length = 5 := rfl
      have hnumber : halfAt (unitBody site bin kind n) 3 = n := halfAt_append [site, bin, kind] [] n 3 rfl
      rw [receivedCommand_body p address hlength (by decide) rfl (by decide)]
      exact congrArg (fun n => if kind = 1 then Instr.unitRetest p address site bin n
        else .unit p address site bin kind n) hnumber
    · have hlength : (EndFrame.body f).length = 36 := by simp [EndFrame.body, List.length_flatMap]
      rw [receivedCommand_body p address hlength (by decide) rfl (by decide)]
      exact congrArg (Instr.endOfRun p address) (EndFrame.ofBody_body f)
    · exact receivedCommand_tapFrame p address 6 [] (by decide) rfl (by decide)
    · intro frame
      have hframe := receivedCommand_frame p address kind length body crc hlen
      refine ⟨fun hcrc => hframe.trans (if_neg hcrc), fun hcrc hkind => ?_⟩
      rw [hframe, if_pos hcrc]
      exact if_neg (mt (formed_iff kind length).mpr hkind)

end Sys2Proof.Machine
end

section
/-! OBLIGATIONS O39, O40. Retests (R71), and the cycle time that START_INDEX samples (R72, R73). -/

namespace Sys2Proof.Machine

variable {s : State} {p : PortNo} {c : CellNo} {i : Insertion} {o b d : Bin} {site bin original : Nat}

/-! ## Retests (R71) -/

/-- A number outside 1..n names nothing. -/
theorem ofNumber_none {n x : Nat} (h : x = 0 ∨ n < x) : ofNumber? n x = none := dif_neg (by omega)

/-- A count moved between two bins, and into its own bin. -/
theorem moveOne_getElem {v : Vector Nat 16} (h : 0 < v[o]) (b d : Bin) :
    (moveOne o b v)[d] = if b = o then v[d] else if d = o then v[d] - 1 else if d = b then v[d] + 1 else v[d] := by
  simp only [moveOne, Fin.getElem_fin, Vector.getElem_set, Fin.ext_iff]
  simp only [Fin.getElem_fin] at h
  by_cases hb : b.val = o.val
  · by_cases hd : d.val = o.val
    · simp only [hb, hd, if_true]
      omega
    · simp [hb, Ne.symm hd]
  · by_cases hd : d.val = o.val
    · simp [hb, hd]
    · by_cases hdb : d.val = b.val
      · simp [hb, hdb, Ne.symm hb]
      · simp [hb, hd, hdb, Ne.symm hd, Ne.symm hdb]

/-- The last conditions of R71: the original bin is retested, it holds a count of the run, and a retest is left. -/
def Recipe.Retests (r : Recipe) (i : Insertion) (o : Bin) : Prop :=
  r.retestSet.getLsbD o.val = true ∧ 0 < i.runBins[o] ∧ i.retestsUsed < r.retestCap

/-- A retest that meets every condition of R71. -/
theorem State.takeRetest_moves {m : Site} (h : s.insertion c = some i) (hr : i.takenBy.hasRun = true)
    (hm : i.site? site = some m) (hb : bin = number b) (ho : original = number o)
    (hretests : (s.recipe i.recipe).Retests i o) :
    s.takeRetest c site bin original = (s.modInsertion c fun j => { j with
      runBins := moveOne o b j.runBins, retestsUsed := j.retestsUsed + 1 }).changeStep i.lot i.step
        (LotStep.moveCount o b) := by
  unfold State.takeRetest
  rw [h]
  dsimp only
  rw [if_neg (by simp [hr]), hm, ofNumber_number b hb, ofNumber_number o ho]
  exact if_pos hretests

/-- A retest that fails a condition of R71 is a protocol error. -/
theorem State.takeRetest_errs (h : s.insertion c = some i)
    (hbad : i.takenBy.hasRun = false ∨ i.site? site = none ∨ ofNumber? 16 bin = none ∨ ofNumber? 16 original = none ∨
      ∃ o : Bin, original = number o ∧ ¬ (s.recipe i.recipe).Retests i o) :
    s.takeRetest c site bin original = s.protocolError c := by
  unfold State.takeRetest
  rw [h]
  dsimp only
  by_cases hr : i.takenBy.hasRun = true
  · rw [if_neg (by simp [hr])]
    split
    · next m b o hm hb ho =>
      obtain ⟨o', ho', hno⟩ : ∃ o : Bin, original = number o ∧ ¬ (s.recipe i.recipe).Retests i o := by
        simpa [hr, hm, hb, ho] using hbad
      obtain rfl : o' = o := Option.some.inj ((ofNumber_number o' ho').symm.trans ho)
      exact if_neg hno
    · rfl
  · exact if_pos (by simpa using hr)

/-- Settles O39. -/
theorem retestsMoveOneCount : Obligations.RetestsMoveOneCount := by
  unfold Obligations.RetestsMoveOneCount
  refine ⟨fun _ _ _ _ _ _ => rfl, fun o b v h d => moveOne_getElem h b d, ?_⟩
  intro s p c address site bin original i hd inMask r
  have hi : (s.heardIn p c).insertion c = some i := hd.2.1
  have hretest : exec (.unitRetest p address site bin original) s =
      .next ((s.heardIn p c).takeRetest c site.toNat bin.toNat original.toNat) :=
    congrArg Host.Outcome.next (receive_delivers hd _)
  refine ⟨fun b o hr ⟨k, hk, hmask⟩ hb ho h1 h2 h3 => ?_, fun hbad => ?_⟩
  · exact hretest.trans (congrArg Host.Outcome.next
      (State.takeRetest_moves hi hr (site_inMask hk hmask) hb ho ⟨h1, h2, h3⟩))
  · refine hretest.trans (congrArg Host.Outcome.next (State.takeRetest_errs hi ?_))
    rcases hbad with h | h | h | h | h | h | ⟨o, ho, h⟩
    · exact .inl h
    · exact .inr (.inl (site_outsideMask h))
    · exact .inr (.inr (.inl (ofNumber_outside (.inl h))))
    · exact .inr (.inr (.inl (ofNumber_outside (.inr h))))
    · exact .inr (.inr (.inr (.inl (ofNumber_none (.inl (congrArg BitVec.toNat h))))))
    · exact .inr (.inr (.inr (.inl (ofNumber_none (.inr h)))))
    · refine .inr (.inr (.inr (.inr ⟨o, ho, fun ⟨k1, k2, k3⟩ => ?_⟩)))
      rcases h with h | h | h
      · exact Bool.false_ne_true (h.symm.trans k1)
      · exact Nat.ne_of_gt k2 h
      · exact Nat.not_lt.mpr h k3

/-! ## The cycle time (R72, R73) -/

/-- A mask has a site outside the site mask. -/
theorem mask_outside_iff (mask sites : BitVec 8) :
    mask &&& ~~~ sites ≠ 0 ↔ ∃ k : Site, mask.getLsbD k.val = true ∧ sites.getLsbD k.val = false := by
  constructor
  · intro h
    by_contra hno
    refine h (BitVec.eq_of_getLsbD_eq fun k hk => ?_)
    have := not_exists.mp hno ⟨k, hk⟩
    simp only [BitVec.getLsbD_and, BitVec.getLsbD_not, hk]
    simpa using this
  · rintro ⟨k, h1, h2⟩ h
    have hbit : (mask &&& ~~~ sites).getLsbD k.val = true := by
      simp only [BitVec.getLsbD_and, BitVec.getLsbD_not, h1, h2, k.isLt]
      rfl
    rw [h] at hbit
    exact Bool.false_ne_true (BitVec.getLsbD_zero.symm.trans hbit)

/-- The time from one START_INDEX to the next, as a sample (R72). -/
theorem sample_eq (t t1 : Word) :
    clamp 1 60000 (t - t1).toNat = max 1 (min 60000 ((t.toNat + 4294967296 - t1.toNat) % 4294967296)) := by
  have h : (t - t1).toNat = (t.toNat + 4294967296 - t1.toNat) % 4294967296 := by
    have := t1.isLt
    rw [BitVec.toNat_sub]
    omega
  rw [clamp, h]
  omega

variable {t t1 : Word} {mask : BitVec 8}

/-- A START_INDEX without a run, or with a site outside the site mask, is a protocol error (R72). -/
theorem State.takeStartIndex_errs (h : s.insertion c = some i)
    (hbad : i.takenBy.hasRun = false ∨ mask &&& ~~~ i.siteMask ≠ 0) : s.takeStartIndex c t mask = s.protocolError c := by
  unfold State.takeStartIndex
  rw [h]
  dsimp only
  rcases hbad with hr | hm
  · exact if_pos (by simp [hr])
  · rw [if_pos hm, ite_self]

/-- A cell record with a valid sample of the insertion's cycle time taken (R73). -/
def Cell.timed (i : Insertion) (n : Nat) (x : Cell) : Cell :=
  { x with measured := newMeasured (!i.firstSample) (x.lastRecipe ≠ some i.recipe) x.measured n }

/-- What a START_INDEX samples, before it leaves its own timestamp (R72, R73). -/
def State.sampled (c : CellNo) (i : Insertion) (t : Word) (s : State) : State :=
  match i.lastIndex with
  | none => s
  | some t1 =>
    if i.sampleVoid then s
    else if 4 * (s.recipe i.recipe).cycleTime < clamp 1 60000 (t - t1).toNat then
      (s.modInsertion c fun i => { i with stalls := satInc i.stalls }).changeStep i.lot i.step LotStep.addStall
    else
      (s.modCell c (Cell.timed i (clamp 1 60000 (t - t1).toNat))).modInsertion c fun i => { i with firstSample := true }

theorem State.takeStartIndex_of (h : s.insertion c = some i) (hr : i.takenBy.hasRun = true)
    (hm : mask &&& ~~~ i.siteMask = 0) :
    s.takeStartIndex c t mask = (s.sampled c i t).modInsertion c fun j => { j with
      lastIndex := some t, sampleVoid := false } := by
  unfold State.takeStartIndex
  rw [h]
  dsimp only
  rw [if_neg (by simp [hr]), if_neg (by simp [hm])]
  unfold State.sampled
  cases i.lastIndex <;> rfl

theorem State.sampled_void (h : i.lastIndex = none ∨ i.sampleVoid = true) : s.sampled c i t = s := by
  unfold State.sampled
  split
  · rfl
  · next t1 h1 => exact if_pos (h.resolve_left (by simp [h1]))

theorem State.sampled_of (h : i.lastIndex = some t1) (hv : i.sampleVoid = false) :
    s.sampled c i t =
      if 4 * (s.recipe i.recipe).cycleTime < clamp 1 60000 (t - t1).toNat then
        (s.modInsertion c fun i => { i with stalls := satInc i.stalls }).changeStep i.lot i.step LotStep.addStall
      else
        (s.modCell c (Cell.timed i (clamp 1 60000 (t - t1).toNat))).modInsertion c
          fun i => { i with firstSample := true } := by
  unfold State.sampled
  rw [h]
  exact if_neg (by simp [hv])

/-- The measured cycle time is set by a first sample with another recipe or by any sample when it is 0, else averaged
(R73). -/
theorem newMeasured_eq (first : Bool) (differs : Prop) [Decidable differs] (m n : Nat) :
    newMeasured (!first) differs m n =
      if (first = false ∧ differs) ∨ m = 0 then n else (7 * m + n + 4) / 8 := by
  unfold newMeasured
  by_cases h : first = false ∧ differs
  · rw [if_pos (by simp [h.1, h.2]), if_pos (.inl h)]
  · rw [if_neg (by simpa using h)]
    simp only [h, false_or]

/-- Settles O40. -/
theorem startIndexTakesASample : Obligations.StartIndexTakesASample := by
  unfold Obligations.StartIndexTakesASample
  intro s p c address mask t i hd r
  have hi : (s.heardIn p c).insertion c = some i := hd.2.1
  have hindex : exec (.startIndex p address t mask) s = .next ((s.heardIn p c).takeStartIndex c t mask) :=
    congrArg Host.Outcome.next (receive_delivers hd _)
  refine ⟨fun hbad => ?_, fun hr hsites => ?_⟩
  · rw [← mask_outside_iff] at hbad
    exact hindex.trans (congrArg Host.Outcome.next (State.takeStartIndex_errs hi hbad))
  have hmask : mask &&& ~~~ i.siteMask = 0 := by
    by_contra hne
    obtain ⟨k, h1, h2⟩ := (mask_outside_iff _ _).mp hne
    exact Bool.false_ne_true (h2.symm.trans (hsites k h1))
  rw [hindex, State.takeStartIndex_of hi hr hmask]
  refine ⟨fun hv => by rw [State.sampled_void hv], fun t1 h1 hv => ?_⟩
  intro sample
  have hsample : clamp 1 60000 (t - t1).toNat = sample := sample_eq t t1
  rw [State.sampled_of h1 hv, hsample]
  refine ⟨fun h => congrArg Host.Outcome.next ?_, fun h => congrArg Host.Outcome.next ?_⟩
  · rw [if_pos (show 4 * ((s.heardIn p c).recipe i.recipe).cycleTime < sample from h)]
    exact congrArg (State.changeStep i.lot i.step LotStep.addStall) (modInsertion_modInsertion (s.heardIn p c) c _ _)
  · rw [if_neg (show ¬ 4 * ((s.heardIn p c).recipe i.recipe).cycleTime < sample by exact Nat.not_lt.mpr h),
      modInsertion_modInsertion]
    unfold Cell.timed
    simp only [newMeasured_eq]

end Sys2Proof.Machine
end

section
/-! OBLIGATION O33. PAUSE_CELL and RESUME_CELL (R66 to R68, R84). -/

namespace Sys2Proof.Machine

variable {s t u : State} {c : CellNo} {i : Insertion} {f : PauseSet → PauseSet} {cell : Byte}

/-! ## The cases of a request that changes the pause-reason set (R66 to R68) -/

/-- The insertion with another pause-reason set, its samples void (R66). -/
def State.reasoned (c : CellNo) (p : PauseSet) (s : State) : State :=
  s.modInsertion c fun j => { j with pause := p, sampleVoid := true }

/-- The same for an insertion that becomes PAUSING, with its record (R67, R68). -/
def State.pausedAnew (c : CellNo) (i : Insertion) (p : PauseSet) (s : State) : State :=
  (s.modInsertion c fun j => { j with pause := p, sampleVoid := true, state := .pausing }).report
    (.insertionEvent c i.lot (some i.state) (some .pausing) .pause)

/-- Neither on the handler nor on the way to a halt: the command stands. -/
theorem State.pauseRequest_quiet (hi : s.insertion c = some i) (h : f i.pause ≠ i.pause) (h1 : i.state ≠ .running)
    (h2 : i.state ≠ .pausing) (h3 : i.state ≠ .paused) : s.pauseRequest c f = s.reasoned c (f i.pause) := by
  rw [pauseRequest_eq hi, if_neg h]
  dsimp only
  split
  · next e => exact absurd e h1
  · next e => exact absurd e h2
  · next e => exact absurd e h3
  · rfl

/-- PAUSING and PAUSED without a reason left are asked for GO. -/
theorem State.pauseRequest_go (hi : s.insertion c = some i) (h : f i.pause ≠ i.pause)
    (hs : i.state = .pausing ∨ i.state = .paused) (he : (f i.pause).Empty) :
    s.pauseRequest c f = (s.reasoned c (f i.pause)).asked c .go := by
  obtain ⟨hcmd, hhalt⟩ := command_of_empty he
  rw [pauseRequest_eq hi, if_neg h]
  dsimp only
  rcases hs with e | e <;> rw [e]
  · rw [hcmd]
    rfl
  · rw [hhalt, hcmd]
    rfl

/-- PAUSING, and PAUSED without a resume in progress, are asked for the halt of the reasons that stand. -/
theorem State.pauseRequest_halt (hi : s.insertion c = some i) (h : f i.pause ≠ i.pause)
    (hs : i.state = .pausing ∨ i.state = .paused ∧ (s.cell c).slot.desired ≠ some .go) (he : ¬ (f i.pause).Empty) :
    s.pauseRequest c f = (s.reasoned c (f i.pause)).asked c (f i.pause).halting := by
  obtain ⟨hcmd, hhalt⟩ := command_of_nonempty he
  rw [pauseRequest_eq hi, if_neg h]
  dsimp only
  rcases hs with e | ⟨e, hgo⟩ <;> rw [e]
  · rw [hcmd]
    rfl
  · dsimp only
    rw [if_neg (by simp [mt Cell.goDesired_iff.mp hgo]), hcmd]
    rfl

/-- RUNNING, and PAUSED under a GO, become PAUSING with the halt of the reasons that stand. -/
theorem State.pauseRequest_pausing (hi : s.insertion c = some i) (h : f i.pause ≠ i.pause)
    (hs : i.state = .running ∨ i.state = .paused ∧ (s.cell c).slot.desired = some .go) (he : ¬ (f i.pause).Empty) :
    s.pauseRequest c f = (s.pausedAnew c i (f i.pause)).asked c (f i.pause).halting := by
  obtain ⟨hcmd, hhalt⟩ := command_of_nonempty he
  unfold State.pausedAnew
  rw [pauseRequest_eq hi, if_neg h]
  dsimp only
  rcases hs with e | ⟨e, hgo⟩ <;> rw [e] <;> dsimp only
  · rw [if_pos hhalt, hcmd]
  · rw [if_pos (by simp [hhalt, Cell.goDesired_iff.mpr hgo]), hcmd]

/-! ## The floor under a request -/

theorem State.SameFloor.insertion (h : u.SameFloor t) (c : CellNo) : t.insertion c = u.insertion c := by
  rw [State.insertion, h.insertions]
  rfl

theorem State.SameFloor.asked (h : u.SameFloor t) (c : CellNo) (cmd : Command) :
    (u.asked c cmd).SameFloor (t.asked c cmd) := h.modCell c _

theorem State.SameFloor.pauseRequest (h : u.SameFloor t) (c : CellNo) (f : PauseSet → PauseSet) :
    (u.pauseRequest c f).SameFloor (t.pauseRequest c f) := by
  cases hi : u.insertion c with
  | none =>
    rw [State.pauseRequest_vacant hi, State.pauseRequest_vacant ((h.insertion c).trans hi)]
    exact h
  | some i =>
    rw [pauseRequest_eq hi, pauseRequest_eq ((h.insertion c).trans hi), h.cell]
    generalize i.state = st
    have hquiet := h.modInsertion c fun j => { j with pause := f i.pause, sampleVoid := true }
    have hpausing := (h.modInsertion c fun j => { j with pause := f i.pause, sampleVoid := true, state := .pausing }).report
      (.insertionEvent c i.lot (some st) (some .pausing) .pause)
    split
    · exact h
    · cases st with
      | running =>
        dsimp only
        split
        · exact hpausing.asked c _
        · exact hquiet
      | pausing => exact hquiet.asked c _
      | paused =>
        dsimp only
        split
        · exact hpausing.asked c _
        · exact hquiet.asked c _
      | _ => exact hquiet

/-! ## Orders that name a cell's insertion (R74, R84) -/

variable {act : CellNo → Insertion → State → Acted}

theorem withInsertion_badArg (h : cell = 0 ∨ 48 < cell.toNat) (s : State) :
    withInsertion cell act s = refuse .badArg s := by
  unfold withInsertion
  rw [ofNumber_outside h]

theorem withInsertion_vacant (hc : cell.toNat = number c) (h : s.insertion c = none) :
    withInsertion cell act s = refuse .notFound s := by
  unfold withInsertion
  rw [ofNumber_number c hc]
  dsimp only
  rw [h]

theorem withInsertion_of (hc : cell.toNat = number c) (hi : s.insertion c = some i) :
    withInsertion cell act s = act c i s := by
  unfold withInsertion
  rw [ofNumber_number c hc]
  dsimp only
  rw [hi]

/-! ## PAUSE_CELL and RESUME_CELL (R84) -/

/-- The CELL_ORDER reason as PAUSE_CELL or RESUME_CELL asks for it. -/
def PauseSet.ordered (on : Bool) (p : PauseSet) : PauseSet :=
  { p with cellOrder := if on then some .haltAtIndex else none }

/-- What PAUSE_CELL or RESUME_CELL does. -/
def actCellOrder (on : Bool) (cell : Byte) (s : State) : Acted :=
  withInsertion cell (fun c _ s => doneOrder (s.pauseRequest c (PauseSet.ordered on))) s

theorem actCellOrder_eq (on : Bool) (cell : Byte) (s : State) :
    actCellOrder on cell s = if on then actPauseCell cell s else actResumeCell cell s := by
  cases on <;> rfl

theorem exec_cellOrder (on : Bool) (slot : BoardSlot) (cell : Byte) (s : State) :
    exec (if on then .pauseCell slot cell else .resumeCell slot cell) s = .next (s.takeOrder slot (actCellOrder on cell)) := by
  cases on <;> rfl

theorem Acts.cellOrder (on : Bool) (cell : Byte) (s : State) : Acts s (actCellOrder on cell s).1 := by
  rw [actCellOrder_eq]
  cases on
  · exact .resumeCell cell s
  · exact .pauseCell cell s

/-- Settles O33. -/
theorem pauseOrdersChangeTheReason : Obligations.PauseOrdersChangeTheReason := by
  unfold Obligations.PauseOrdersChangeTheReason
  intro s slot cell on ht order reason
  have hexec : exec order s = .next (s.takeOrder slot (actCellOrder on cell)) := exec_cellOrder on slot cell s
  refine ⟨fun h => answers_refuse hexec ht (withInsertion_badArg h _), fun c hc => ⟨fun hn => ?_, fun i hi => ?_⟩⟩
  · exact answers_refuse hexec ht (withInsertion_vacant hc ((s.takeSlot_insertion slot c).trans hn))
  have answer (w : State) (hw : s.pauseRequest c (PauseSet.ordered on) = w) : Answers order slot s .done none [] w :=
    answers_done hexec ht (withInsertion_of hc ((s.takeSlot_insertion slot c).trans hi)) (Acts.cellOrder on cell _).toCore
      (hw ▸ (State.SameFloor.takeSlot s slot).pauseRequest c _)
  intro p u v
  refine ⟨fun h => answer s ?_, fun hne => ?_⟩
  · have hsame : i.pause.ordered on = i.pause := by
      unfold PauseSet.ordered
      rw [show (if on then some HaltKind.haltAtIndex else none) = i.pause.cellOrder from h.symm]
    exact (pauseRequest_eq hi _).trans (if_pos hsame)
  have hchanged : i.pause.ordered on ≠ i.pause := fun e => hne (congrArg PauseSet.cellOrder e).symm
  refine ⟨fun h1 h2 h3 => answer u (State.pauseRequest_quiet hi hchanged h1 h2 h3), fun hs hon => ?_, fun hs he => ?_,
    fun hs he => answer _ (State.pauseRequest_go hi hchanged hs he), fun hs he hgo => ?_, fun hs he hgo => ?_⟩
  · have he : ¬ (i.pause.ordered on).Empty := fun e => by simp [PauseSet.ordered, PauseSet.Empty, hon] at e
    exact answer _ (State.pauseRequest_pausing hi hchanged (.inl hs) he)
  · exact answer _ (State.pauseRequest_halt hi hchanged (.inl hs) he)
  · exact answer _ (State.pauseRequest_halt hi hchanged (.inr ⟨hs, hgo⟩) he)
  · exact answer _ (State.pauseRequest_pausing hi hchanged (.inr ⟨hs, hgo⟩) he)

end Sys2Proof.Machine
end

section
/-! OBLIGATION O34. END_RUN (R65, R74). -/

namespace Sys2Proof.Machine

variable {s w u t : State} {c : CellNo} {i : Insertion} {x : Lot} {cell : Byte}

/-! ## An insertion given up before its load (R65) -/

/-- A cell that is not BUSY while it holds an insertion keeps its state when the insertion ends (Table 2-4). -/
theorem State.derivedState_unoccupied (h : s.derivedState c ≠ .busy) (hi : s.insertion c = some i)
    (hm : (w.cell c).mapping = (s.cell c).mapping) (hp : w.ports = s.ports) (hh : (w.cell c).heard = (s.cell c).heard)
    (he : (w.cell c).mismatched = (s.cell c).mismatched) : w.derivedState c = s.derivedState c := by
  by_cases hl : s.Linked c
  · have hs := State.derivedState_linked hl
    by_cases hmis : (s.cell c).mismatched = true
    · rw [hs, State.derivedState_linked (hl.congr hh hm hp), he, if_pos hmis, if_pos hmis]
    · rw [if_neg hmis, State.standing, hi] at hs
      exact absurd hs h
  · exact State.derivedState_congr_unlinked hl hh hm hp

/-- The state of a cell, which no reservation names, once its insertion has ended. -/
def Cell.vacated (z : Cell) : CellState :=
  if z.state ≠ .busy then z.state else if z.service then .idle else .outOfService

theorem Cell.vacated_eq_or (z : Cell) :
    z.vacated = z.state ∨ z.vacated ≠ .parked ∧ z.vacated ≠ .silent ∧ z.vacated ≠ .mismatch := by
  unfold Cell.vacated
  split
  · exact .inl rfl
  · split <;> exact .inr (by simp)

theorem State.derivedState_vacated (hd : (s.cell c).state = s.derivedState c) (hi : s.insertion c = some i)
    (hm : (w.cell c).mapping = (s.cell c).mapping) (hp : w.ports = s.ports) (hh : (w.cell c).heard = (s.cell c).heard)
    (he : (w.cell c).mismatched = (s.cell c).mismatched) (hv : (w.cell c).service = (s.cell c).service)
    (hn : w.insertion c = none) (hr : w.reservationOf c = none) : w.derivedState c = (s.cell c).vacated := by
  unfold Cell.vacated
  by_cases hb : (s.cell c).state = .busy
  · rw [if_neg (not_not.mpr hb), ← hv]
    exact State.derivedState_ended (hd.symm.trans hb) hm hp hh he hn hr
  · rw [if_pos hb, hd]
    exact State.derivedState_unoccupied (fun e => hb (hd.trans e)) hi hm hp hh he

/-- The end of an insertion by END_RUN before its load (R65, R74). -/
def State.givenUp (c : CellNo) (i : Insertion) (s : State) : State :=
  let old := (s.cell c).state
  let new := (s.cell c).vacated
  let u := (((s.setInsertion c none).modCell c fun y => { y with
    slot := { y.slot with desired := none }, state := new }).setLotState i.lot .queued).report
      (.insertionEvent c i.lot (some i.state) none .abandoned)
  if new = old then u else u.report (.cellState c old new .insertion)

/-- The cell's state is derived from the floor with the insertion gone and its lot QUEUED. -/
theorem State.abandon_eq (hi : s.insertion c = some i) (hx : s.lot i.lot = some x) (hs : x.state = .inTest) :
    s.abandon c none = ((((s.setInsertion c none).setLotState i.lot .queued).report
      (.insertionEvent c i.lot (some i.state) none .abandoned)).modCell c
        fun z => { z with slot := { z.slot with desired := none } }).deriveCell c .insertion := by
  have hlot : (s.setInsertion c none).lot i.lot = some x := hx
  have hlot' : (s.clearInsertion c).lot i.lot = some x := hx
  have hreturn : (s.clearInsertion c).returnLot i.lot = ((s.setInsertion c none).setLotState i.lot .queued).modCell c
      fun z => { z with slot := { z.slot with desired := none } } :=
    (State.returnLot_of hlot' (by simp [hs])).trans (State.setLotState_modCell hlot (by simp [hs]) _)
  unfold State.abandon
  rw [hi]
  dsimp only
  rw [hreturn]
  rfl

theorem State.abandon_givenUp (hi : s.insertion c = some i) (hx : s.lot i.lot = some x) (hs : x.state = .inTest)
    (hd : (s.cell c).state = s.derivedState c) (hr : s.reservationOf c = none) : s.abandon c none = s.givenUp c i := by
  have hq : x.state ≠ .queued := by simp [hs]
  have hlot : (s.setInsertion c none).lot i.lot = some x := hx
  have stand := (State.CellsStand.refl (s.setInsertion c none)).setLotState i.lot .queued
  let v := ((s.setInsertion c none).setLotState i.lot .queued).report
    (.insertionEvent c i.lot (some i.state) none .abandoned)
  let f : Cell → Cell := fun z => { z with slot := { z.slot with desired := none } }
  have hcell : v.cell c = s.cell c := stand.cell c
  have hafter : (v.modCell c f).cell c = f (s.cell c) := (State.cell_modCell_same v c f).trans (congrArg f hcell)
  have hderived : (v.modCell c f).derivedState c = (s.cell c).vacated :=
    State.derivedState_vacated hd hi (by rw [hafter]) stand.ports (by rw [hafter]) (by rw [hafter]; rfl) (by rw [hafter])
      ((stand.insertion c).trans ((State.insertion_setInsertion s c c none).trans (if_pos rfl)))
      ((congrArg (List.find? fun r : Reservation => r.cell = c) stand.reservations).trans hr)
  have hcalm := State.deriveCell_calm (s := v) (f := f) rfl hderived (by rw [hcell]; exact (s.cell c).vacated_eq_or)
    .insertion
  rw [State.abandon_eq hi hx hs]
  refine hcalm.trans ?_
  unfold State.givenUp
  dsimp only
  rw [State.setLotState_modCell hlot hq]
  by_cases h : (s.cell c).vacated = (s.cell c).state
  · rw [if_pos h]
    unfold State.recordCell State.writeCell
    dsimp only
    rw [hcell, if_pos h, if_neg fun k => k.2 (h.symm.trans k.1)]
    rfl
  · rw [if_neg h, State.recordCell_changed (by rw [hcell]; exact h), hcell]
    dsimp only
    split
    · exact State.triggerPass_called (State.setLotState_queued_passPending hlot hq)
    · rfl

theorem State.SameFloor.givenUp (h : u.SameFloor t) (c : CellNo) (i : Insertion) :
    (u.givenUp c i).SameFloor (t.givenUp c i) := by
  unfold State.givenUp
  rw [h.cell]
  dsimp only
  split
  · exact (((h.setInsertion c none).modCell c _).setLotState i.lot .queued).report _
  · exact ((((h.setInsertion c none).modCell c _).setLotState i.lot .queued).report _).report _

/-! ## END_RUN by the state of the insertion (R74) -/

/-- END_RUN of an insertion with a run, and of one without a state before suspension (R74, log entry 36). -/
def State.endedRun (c : CellNo) (i : Insertion) (s : State) : State :=
  if i.state = .suspended then s.modInsertion c fun j => { j with before := some .ending }
  else if i.state = .ending then s
  else ((s.modInsertion c fun j => { j with state := .ending }).report
    (.insertionEvent c i.lot (some i.state) (some .ending) .endRun)).asked c (if i.abortRequested then .abort else .finish)

theorem Insertion.endCommand_plain (i : Insertion) : i.endCommand.takesTag = false := by
  unfold Insertion.endCommand
  split <;> rfl

theorem actEndRun_late (hc : cell.toNat = number c) (hi : s.insertion c = some i) (h1 : i.takenBy ≠ .kitWait)
    (h2 : i.takenBy ≠ .loading) : actEndRun cell s = (s.endedRun c i, Answer.plain .accepted) := by
  unfold actEndRun
  rw [withInsertion_of hc hi]
  split
  · next e => exact absurd e h1
  · next e => exact absurd e h2
  · rw [setInsState_eq hi, request_plain i.endCommand_plain]
    rfl

theorem actEndRun_early (hc : cell.toNat = number c) (hi : s.insertion c = some i)
    (h : i.takenBy = .kitWait ∨ i.takenBy = .loading) : actEndRun cell s = doneOrder (s.abandon c none) := by
  unfold actEndRun
  rw [withInsertion_of hc hi]
  rcases h with e | e <;> rw [e]

theorem State.SameFloor.endedRun (h : u.SameFloor t) (c : CellNo) (i : Insertion) :
    (u.endedRun c i).SameFloor (t.endedRun c i) := by
  unfold State.endedRun
  split
  · exact h.modInsertion c _
  · split
    · exact h
    · exact ((h.modInsertion c _).report _).asked c _

theorem Insertion.takenBy_active (h : i.state ≠ .suspended) : i.takenBy = i.state := if_neg h

theorem Insertion.takenBy_suspended (h : i.state = .suspended) : i.takenBy = i.before.getD .suspended := if_pos h

/-- Settles O34. -/
theorem endRunEndsOrAbandons : Obligations.EndRunEndsOrAbandons := by
  unfold Obligations.EndRunEndsOrAbandons
  intro s slot cell ht
  refine ⟨fun h => answers_refuse rfl ht (withInsertion_badArg h _), fun c hc => ⟨fun hn => ?_, fun i hi => ?_⟩⟩
  · exact answers_refuse rfl ht (withInsertion_vacant hc ((s.takeSlot_insertion slot c).trans hn))
  have hi' : (s.takeSlot slot).insertion c = some i := (s.takeSlot_insertion slot c).trans hi
  have floor := State.SameFloor.takeSlot s slot
  have hcore := (Acts.endRun cell (s.takeSlot slot)).toCore
  have late (w : State) (h1 : i.takenBy ≠ .kitWait) (h2 : i.takenBy ≠ .loading) (hw : s.endedRun c i = w) :
      Answers (.endRun slot cell) slot s .accepted none [] w := by
    have hact := actEndRun_late hc hi' h1 h2
    rw [hact] at hcore
    exact answers_acted rfl ht hact hcore (hw ▸ floor.endedRun c i) (Nat.zero_le _)
  refine ⟨fun hs => ?_, fun hs => ?_, fun hs h1 h2 => ?_, fun x hs hx hxs hd hr => ?_⟩
  · have hsusp : i.state ≠ .suspended := fun e => by simp [e] at hs
    have hend : i.state ≠ .ending := fun e => by simp [e] at hs
    have htaken := Insertion.takenBy_active hsusp
    exact late _ (fun e => by simp [← htaken, e] at hs) (fun e => by simp [← htaken, e] at hs)
      ((if_neg hsusp).trans (if_neg hend))
  · have hsusp : i.state ≠ .suspended := by simp [hs]
    have htaken := (Insertion.takenBy_active hsusp).trans hs
    exact late _ (by simp [htaken]) (by simp [htaken]) ((if_neg hsusp).trans (if_pos hs))
  · have htaken := Insertion.takenBy_suspended hs
    refine late _ ?_ ?_ (if_pos hs) <;> rw [htaken]
    · cases hb : i.before with
      | none => simp
      | some b => simpa [hb] using h1
    · cases hb : i.before with
      | none => simp
      | some b => simpa [hb] using h2
  · have htaken : i.takenBy = .kitWait ∨ i.takenBy = .loading := by
      rcases hs with h | h | ⟨h, hb⟩
      · exact .inl ((Insertion.takenBy_active (by simp [h])).trans h)
      · exact .inr ((Insertion.takenBy_active (by simp [h])).trans h)
      · rw [Insertion.takenBy_suspended h]
        exact hb.imp (fun e => by rw [e]; rfl) fun e => by rw [e]; rfl
    have hderived : (s.takeSlot slot).derivedState c = s.derivedState c :=
      State.derivedState_congr c (by simp) (by simp) (by simp) (by simp) (by simp) (by simp) (by simp)
    have habandon : (s.takeSlot slot).abandon c none = (s.takeSlot slot).givenUp c i :=
      State.abandon_givenUp hi' ((s.takeSlot_lot slot _).trans hx) hxs (by rw [s.takeSlot_cell, hderived]; exact hd)
        ((s.takeSlot_reservationOf slot c).trans hr)
    exact answers_done rfl ht ((actEndRun_early hc hi' htaken).trans (congrArg doneOrder habandon)) hcore
      (floor.givenUp c i)

end Sys2Proof.Machine
end

section
/-! OBLIGATION O47. DISPOSE (R112 to R114). -/

namespace Sys2Proof.Machine

variable {s t u : State} {l : LotSlot} {x y : Lot} {c : CellNo} {i : Insertion} {h : Hold} {slot : BoardSlot} {hold : Half}
variable {d : Byte}

/-! ## The hold deleted (R112) -/

/-- The floor once the hold `h` of the lot `x` is deleted by a CONTINUE (R102, R112). -/
def State.cleared (h : Hold) (x : Lot) (s : State) : State :=
  (({ s with hm := { s.hm with holds := s.hm.holds.filter fun g => g.id ≠ h.id } } : State).setLot h.lot
    (some { x with holds := x.holds.erase h.id })).report (.holdCleared h.lot h.id h.origin h.holdClass .continue)

theorem State.clearHold_cleared (hx : s.lot h.lot = some x) : s.clearHold .continue h = s.cleared h x := by
  have hx' : ({ s with hm := { s.hm with holds := s.hm.holds.filter fun g => g.id ≠ h.id } } : State).lot h.lot = some x := hx
  unfold State.clearHold
  exact congrArg (State.report _) (State.modLot_of hx' _)

theorem State.cleared_lot (h : Hold) (x : Lot) (s : State) :
    (s.cleared h x).lot h.lot = some { x with holds := x.holds.erase h.id } :=
  (State.lot_setLot _ h.lot h.lot _).trans (if_pos rfl)

theorem State.SameFloor.cleared (k : u.SameFloor t) (h : Hold) (x : Lot) : (u.cleared h x).SameFloor (t.cleared h x) := by
  rw [k.eq]
  exact ⟨rfl, rfl, rfl, rfl, rfl, rfl, rfl, rfl, rfl, rfl⟩

/-! ## The HOLD reason of the lot's insertion (R108) -/

theorem State.syncHold_apart (h : s.insertionOf l = none) : s.syncHold l = s := by
  unfold State.syncHold
  rw [h]
  cases s.lot l <;> rfl

theorem State.SameFloor.lot (h : u.SameFloor t) (l : LotSlot) : t.lot l = u.lot l := by
  rw [State.lot, h.lm]
  rfl

theorem State.SameFloor.syncHold (h : u.SameFloor t) (l : LotSlot) : (u.syncHold l).SameFloor (t.syncHold l) := by
  have hreason (x : Lot) : t.holdReason x = u.holdReason x := by
    simp [State.holdReason, State.holdsOf, State.hold?, h.hm]
  unfold State.syncHold
  rw [h.lot, State.insertionOf_congr h.insertion]
  cases u.lot l with
  | none => exact h
  | some x =>
    cases u.insertionOf l with
    | none => exact h
    | some c =>
      dsimp only
      rw [hreason]
      exact h.pauseRequest c _

/-- The last hold of a lot in test, standing alone in its pause set: GO (R68, R108). -/
theorem State.withdrawHold_asksGo (hi : s.insertion c = some i) (hh : i.pause.hold ≠ none)
    (hs : i.state = .pausing ∨ i.state = .paused) (he : ({ i.pause with hold := none } : PauseSet).Empty) :
    s.withdrawHold c = (s.reasoned c { i.pause with hold := none }).asked c .go :=
  State.pauseRequest_go (f := fun p => { p with hold := none }) hi (fun e => hh (congrArg PauseSet.hold e).symm) hs he

/-- Beside other reasons: their halt kind (R67, R108). -/
theorem State.withdrawHold_asksHalt (hi : s.insertion c = some i) (hh : i.pause.hold ≠ none)
    (hs : i.state = .pausing ∨ i.state = .paused ∧ (s.cell c).slot.desired ≠ some .go)
    (he : ¬ ({ i.pause with hold := none } : PauseSet).Empty) :
    s.withdrawHold c =
      (s.reasoned c { i.pause with hold := none }).asked c ({ i.pause with hold := none } : PauseSet).halting :=
  State.pauseRequest_halt (f := fun p => { p with hold := none }) hi (fun e => hh (congrArg PauseSet.hold e).symm) hs he

/-! ## CONTINUE (R112, R113) -/

/-- CONTINUE of a hold of another origin than RECONCILE, for a lot of no ship order. -/
theorem State.continueHold_plain (hx : s.lot h.lot = some x) (ho : h.origin ≠ .reconcile) (hship : x.ship = none) :
    s.continueHold h = ((s.cleared h x).syncHold h.lot).triggerPass := by
  have hlot : (((s.cleared h x).syncHold h.lot).triggerPass).lot h.lot = some { x with holds := x.holds.erase h.id } :=
    (((State.FloorMoves.refl _).syncHold h.lot).triggerPass.lot h.lot).trans (State.cleared_lot h x s)
  unfold State.continueHold
  rw [State.clearHold_cleared hx]
  dsimp only
  rw [if_neg ho]
  exact State.notice_none hlot hship

/-- The gap of the step that a RECONCILE hold names becomes loss, also when the step then closes (R113, R16). -/
theorem State.convertGap_of (hx : s.lot h.lot = some x) (h1 : 1 ≤ h.step) (h2 : h.step ≤ x.steps.length) :
    (s.convertGap h).hm = s.hm ∧ ∃ y, (s.convertGap h).lot h.lot = some y ∧ y.holds = x.holds ∧ (y.step h.step).gap = 0 ∧
      (y.step h.step).loss = (x.step h.step).loss + (x.step h.step).gap := by
  let v := s.changeStep h.lot h.step LotStep.gapToLoss
  let z := x.changeStep s.lm.recipes h.step LotStep.gapToLoss
  have hv : v.lot h.lot = some z := State.lot_changeStep hx
  have hz : z.step h.step = (x.step h.step).gapToLoss := Lot.step_changeStep h1 h2
  have hconvert : s.convertGap h = if z.current = h.step ∧ z.closable = true then v.closeStep h.lot else v := by
    unfold State.convertGap
    dsimp only
    rw [hv]
  rw [hconvert]
  by_cases hclose : z.current = h.step ∧ z.closable = true
  · rw [if_pos hclose]
    have hcur := hclose.1
    obtain ⟨y, hy, hwent, -, -⟩ := State.lot_closeStep hv (by rw [hcur]; exact h1)
      (by rw [hcur]; exact h2.trans_eq Lot.changeStep_length.symm)
    have hstep := hwent.step
    rw [hcur, hz] at hstep
    obtain ⟨-, hholds, -, -⟩ := hwent.kept
    exact ⟨(State.closeStep_kept hv).1, y, hy, hholds, congrArg LotStep.gap hstep, congrArg LotStep.loss hstep⟩
  · rw [if_neg hclose]
    exact ⟨rfl, z, hv, rfl, congrArg LotStep.gap hz, congrArg LotStep.loss hz⟩

/-- CONTINUE of a RECONCILE hold (R113). -/
theorem State.continueHold_reconcile (hx : s.lot h.lot = some x) (ho : h.origin = .reconcile) (h1 : 1 ≤ h.step)
    (h2 : h.step ≤ x.steps.length) :
    (s.continueHold h).hm = { s.hm with holds := s.hm.holds.filter fun g => g.id ≠ h.id } ∧
      (s.continueHold h).de.passPending = true ∧ ∃ y, (s.continueHold h).lot h.lot = some y ∧
        (y.step h.step).gap = 0 ∧ (y.step h.step).loss = (x.step h.step).loss + (x.step h.step).gap ∧
        y.holds = x.holds.erase h.id := by
  obtain ⟨hm, z, hz, hholds, hgap, hloss⟩ := State.convertGap_of (State.cleared_lot h x s) h1 h2
  let v := (s.cleared h x).convertGap h
  have hfloor := ((State.FloorMoves.refl v).syncHold h.lot).triggerPass
  obtain ⟨hnotice, hlots⟩ := State.notice_moves ((v.syncHold h.lot).triggerPass) h.lot
  obtain ⟨y, hy, hbody⟩ := hlots.some ((hfloor.lot h.lot).trans hz)
  have hsteps : y.step h.step = z.step h.step := (congrArg (fun b : Lot => b.step h.step) hbody :)
  have hcontinue : s.continueHold h = ((v.syncHold h.lot).triggerPass).notice h.lot := by
    unfold State.continueHold
    rw [State.clearHold_cleared hx]
    dsimp only
    rw [if_pos ho]
  rw [hcontinue]
  refine ⟨hnotice.hm.trans (hfloor.hm.trans hm), ?_, y, hy, by rw [hsteps, hgap], by rw [hsteps, hloss]; rfl,
    (congrArg Lot.holds hbody :).trans hholds⟩
  rw [hnotice.de]
  rfl

/-! ## The order (R112) -/

theorem Disposition.ofHoldCode_of (h : d.toNat ≤ 1) : ∃ k, Disposition.ofHoldCode? d.toNat = some k := by
  rcases Nat.le_one_iff_eq_zero_or_eq_one.mp h with e | e <;> rw [e] <;> exact ⟨_, rfl⟩

theorem Disposition.ofHoldCode_above {n : Nat} (h : 1 < n) : Disposition.ofHoldCode? n = none := by
  unfold Disposition.ofHoldCode?
  split
  case h_3 => rfl
  all_goals omega

theorem actDispose_badArg (h : hold = 0 ∨ 1 < d.toNat) (s : State) : actDispose hold d s = refuse .badArg s := by
  unfold actDispose
  rcases h with h | h
  · split
    · rfl
    · exact if_pos h
  · rw [Disposition.ofHoldCode_above h]

theorem actDispose_missing (h0 : hold ≠ 0) (hd : d.toNat ≤ 1) (hh : s.hold? hold.toNat = none) :
    actDispose hold d s = refuse .notFound s := by
  obtain ⟨k, hk⟩ := Disposition.ofHoldCode_of hd
  unfold actDispose
  rw [hk]
  dsimp only
  rw [if_neg h0, hh]

/-- DISPOSE of a hold in the table. -/
theorem actDispose_found {k : Disposition} (h0 : hold ≠ 0) (hk : Disposition.ofHoldCode? d.toNat = some k)
    (hh : s.hold? hold.toNat = some h) (hx : s.lot h.lot = some x) :
    actDispose hold d s =
      if h.state = .opened then refuse .wrongState s
      else if k = .continue then
        if x.quarantined then refuse .quarantined s else doneOrder (s.continueHold h)
      else doneOrder (s.scrap h.lot) := by
  unfold actDispose
  rw [hk]
  dsimp only
  rw [if_neg h0, hh]
  dsimp only
  rw [hx]
  rfl

/-- Settles O47. -/
theorem disposeContinuesOrScraps : Obligations.DisposeContinuesOrScraps := by
  unfold Obligations.DisposeContinuesOrScraps
  intro s slot hold d ht
  refine ⟨fun hbad => answers_refuse rfl ht (actDispose_badArg hbad _), fun h0 hd hnone => ?_,
    fun h x h0 hd hh hx => ?_⟩
  · exact answers_refuse rfl ht (actDispose_missing h0 hd ((s.takeSlot_hold slot _).trans hnone))
  have hx' : (s.takeSlot slot).lot h.lot = some x := (s.takeSlot_lot slot _).trans hx
  have found (k : Disposition) (hk : Disposition.ofHoldCode? d.toNat = some k) :=
    actDispose_found h0 hk ((s.takeSlot_hold slot _).trans hh) hx'
  have hcore := (Acts.dispose hold d (s.takeSlot slot)).toCore
  refine ⟨fun ho => ?_, fun ha h0d hq => ?_, fun ha h0d hq => ?_, fun ha h1d hderived => ?_⟩
  · obtain ⟨k, hk⟩ := Disposition.ofHoldCode_of hd
    exact answers_refuse rfl ht ((found k hk).trans (if_pos ho))
  · subst h0d
    exact answers_refuse rfl ht ((found .continue rfl).trans ((if_neg (by simp [ha])).trans ((if_pos rfl).trans (if_pos hq))))
  · subst h0d
    have hact : actDispose hold 0 (s.takeSlot slot) = doneOrder ((s.takeSlot slot).continueHold h) :=
      (found .continue rfl).trans ((if_neg (by simp [ha])).trans ((if_pos rfl).trans (if_neg (by simp [hq]))))
    have plain (w : State) (ho : h.origin ≠ .reconcile) (hship : x.ship = none)
        (hw : (s.cleared h x).syncHold h.lot = w) : Answers (.dispose slot hold 0) slot s .done none [] w.triggerPass :=
      answers_done rfl ht (hact.trans (congrArg doneOrder (State.continueHold_plain hx' ho hship))) hcore
        (hw ▸ (((State.SameFloor.takeSlot s slot).cleared h x).syncHold h.lot).triggerPass)
    have last (c : CellNo) (hc : s.insertionOf h.lot = some c) (hholds : x.holds = [h.id]) :
        (s.cleared h x).syncHold h.lot = (s.cleared h x).withdrawHold c :=
      State.syncHold_withdraw (State.cleared_lot h x s) (by simp [hholds]) hq hc
    refine ⟨fun ho hapart hship => plain _ ho hship ?_, fun c i k ho hc hi hship hholds hs hp => ?_,
      fun c i k ho hc hi hship hholds hs hk => ?_, fun ho h1 h2 => ?_⟩
    · refine State.syncHold_apart (s := s.cleared h x) ?_
      by_contra hne
      obtain ⟨c, i, hi, hl⟩ := State.insertionOf_isSome_iff.mp (Option.isSome_iff_ne_none.mpr hne)
      exact hapart c i hi hl
    · have hset : ({ i.pause with hold := none } : PauseSet) = { hold := none, lineStop := none, cellOrder := none } := by
        rw [hp]
      have hgo := State.withdrawHold_asksGo (s := s.cleared h x) (c := c) hi (by simp [hp]) hs
        (by rw [hset]; exact ⟨rfl, rfl, rfl⟩)
      rw [hset] at hgo
      exact plain _ ho hship ((last c hc hholds).trans hgo)
    · intro rest he
      exact plain _ ho hship ((last c hc hholds).trans
        (State.withdrawHold_asksHalt (s := s.cleared h x) hi (by simp [hk]) hs he))
    · obtain ⟨hm, hpass, y, hy, hgap, hloss, hholds⟩ := State.continueHold_reconcile hx' ho h1 h2
      rw [State.takeSlot_hm] at hm
      exact ⟨_, y, answers_done rfl ht hact hcore (.refl _), hy, hgap, hloss, hholds, hpass, hm⟩
  · subst h1d
    have hact : actDispose hold 1 (s.takeSlot slot) = doneOrder ((s.takeSlot slot).scrap h.lot) :=
      (found .scrap rfl).trans ((if_neg (by simp [ha])).trans (if_neg (by simp)))
    exact ⟨_, answers_done rfl ht hact hcore (.refl _),
      (State.scrap_scrapped hx' (State.takeSlot_derived hderived)).of_takeSlot⟩

end Sys2Proof.Machine
end

section
/-! OBLIGATION O36. STATUS (R64, R65, R67, R68, R72, R82). -/

namespace Sys2Proof.Machine

variable {s u v w : State} {p : PortNo} {address : Byte} {c : CellNo} {i j : Insertion} {l : LotSlot} {y : Lot}
variable {f : StatusFrame} {h : HandlerState} {k : Option CommandKind} {new b : InsState}

/-! ## What the codes of a STATUS say (R45) -/

/-- The handler state and the last applied command that the codes of a STATUS stand for. -/
structure StatusReads (f : StatusFrame) (h : HandlerState) (k : Option CommandKind) : Prop where
  jammed : h = .jammed ↔ f.handler = 3
  halted : h = .halted ↔ f.handler = 2
  moving : h = .indexing ∨ h = .idle ↔ f.handler.toNat ≤ 1
  kind : CommandKind.ofStatus? f.lastKind.toNat = some k

theorem HandlerState.ofCode_eq_some {n : Nat} (hh : HandlerState.ofCode? n = some h) :
    (h = .jammed ↔ n = 3) ∧ (h = .halted ↔ n = 2) ∧ (h = .indexing ∨ h = .idle ↔ n ≤ 1) := by
  unfold HandlerState.ofCode? at hh
  split at hh <;> cases hh <;> simp

theorem StatusReads.of_codes (hh : HandlerState.ofCode? f.handler.toNat = some h)
    (hk : k = none ∧ f.lastKind = 0 ∨ ∃ j, k = some j ∧ f.lastKind.toNat = j.code) : StatusReads f h k := by
  obtain ⟨hjammed, hhalted, hmoving⟩ := HandlerState.ofCode_eq_some hh
  refine ⟨hjammed.trans (BitVec.toNat_eq (y := 3#8)).symm, hhalted.trans (BitVec.toNat_eq (y := 2#8)).symm, hmoving, ?_⟩
  rcases hk with ⟨rfl, h0⟩ | ⟨j, rfl, hj⟩
  · rw [h0]
    rfl
  · rw [hj, CommandKind.ofStatus_code]

theorem StatusReads.echoed_iff (R : StatusReads f h k) (i : Insertion) :
    i.echoed f = true ↔ k = some .load ∧ f.lastTag = i.loadTag := by
  simp [Insertion.echoed, R.kind]

theorem StatusReads.calm (R : StatusReads f h k) (hf : f.handler ≠ 3) : h ≠ .jammed := mt R.jammed.mp hf

/-! ## Delivery (R48, R49) -/

/-- The state in which a delivered STATUS is read: heard, the last applied command replaced. -/
def State.applied (p : PortNo) (c : CellNo) (f : StatusFrame) (k : Option CommandKind) (s : State) : State :=
  (s.heardIn p c).modCell c fun x => { x with slot := { x.slot with lastKind := k, lastTag := f.lastTag } }

theorem State.applied_cell (s : State) (p : PortNo) (c : CellNo) (f : StatusFrame) (k : Option CommandKind) :
    (s.applied p c f k).cell c = { s.cell c with
      silence := 0, slot := { (s.cell c).slot with lastKind := k, lastTag := f.lastTag } } := by
  refine (State.cell_modCell_same _ c _).trans ?_
  rw [State.heardIn_cell]

theorem exec_status (hd : s.Delivers p address c i) (hh : HandlerState.ofCode? f.handler.toNat = some h)
    (R : StatusReads f h k) : exec (.status p address f) s = .next ((s.applied p c f k).deliverStatus c h f) := by
  obtain ⟨hears, hi, hsilent, hmismatch⟩ := hd
  have hdelivers : (s.applied p c f k).delivers c = true := by
    have hins : (s.applied p c f k).insertion c = some i := hi
    unfold State.delivers
    rw [hins, State.applied_cell]
    simp [hsilent, hmismatch]
  refine congrArg Host.Outcome.next ((receive_hears hears _).trans ((State.takeStatus_of hh R.kind).trans ?_))
  exact if_pos hdelivers

theorem State.deliverStatus_active (hi : u.insertion c = some i) (hs : i.state ≠ .suspended) :
    u.deliverStatus c h f = u.readStatus c h f := by
  unfold State.deliverStatus
  rw [hi]
  exact if_neg hs

theorem State.deliverStatus_waiting (hi : u.insertion c = some i) (hs : i.state = .suspended)
    (hr : i.resyncPending = false) : u.deliverStatus c h f = u := by
  unfold State.deliverStatus
  rw [hi]
  exact (if_pos hs).trans (if_neg (by simp [hr]))

theorem State.deliverStatus_resync (hi : u.insertion c = some i) (hs : i.state = .suspended)
    (hr : i.resyncPending = true) : u.deliverStatus c h f = u.resync c h f := by
  unfold State.deliverStatus
  rw [hi]
  exact (if_pos hs).trans (if_pos hr)

/-! ## The jam and the soak (R65, R72) -/

/-- A JAMMED handler voids the sample (R72). -/
def Insertion.jammed (f : StatusFrame) (x : Insertion) : Insertion :=
  { x with sampleVoid := x.sampleVoid || f.handler = 3 }

/-- The first STATUS that reports temperature reached starts the soak timer (R65). -/
def Insertion.soaked (f : StatusFrame) (seconds : Nat) (x : Insertion) : Insertion :=
  { x with
    soakStarted := x.soakStarted || f.tempReached
    soakTimer := if x.soakStarted = true ∨ f.tempReached = false then x.soakTimer else seconds }

theorem Insertion.jammed_self (hf : f.handler ≠ 3) (i : Insertion) : i.jammed f = i := by
  unfold Insertion.jammed
  rw [decide_eq_false hf, Bool.or_false]

theorem Insertion.soaked_self (hs : i.soakStarted = true ∨ f.tempReached = false) (n : Nat) : i.soaked f n = i := by
  have hstarted : (i.soakStarted || f.tempReached) = i.soakStarted := by rcases hs with e | e <;> simp [e]
  unfold Insertion.soaked
  rw [if_pos hs, hstarted]

theorem Insertion.soaked_first (hs : i.soakStarted = false) (n : Nat) :
    i.soaked f n = { i with
      soakStarted := f.tempReached, soakTimer := if f.tempReached = false then i.soakTimer else n } := by
  unfold Insertion.soaked
  simp only [hs, Bool.false_or, Bool.false_eq_true, false_or]

theorem State.readJam_calm (hj : h ≠ .jammed) (v : State) : v.readJam c h = v := if_neg hj

theorem State.readJam_run (R : StatusReads f h k) (hi : v.insertion c = some i) (hr : i.state.hasRun = true) :
    v.readJam c h = v.modInsertion c (Insertion.jammed f) := by
  unfold State.readJam
  by_cases hj : h = .jammed
  · rw [if_pos hj]
    exact modInsertion_congr hi (by simp [Insertion.jammed, hr, R.jammed.mp hj])
  · rw [if_neg hj, State.modInsertion_self hi (Insertion.jammed_self (mt R.jammed.mpr hj) i)]

theorem State.readSoaking_eq (hi : v.insertion c = some i) (f : StatusFrame) :
    v.readSoaking c f = v.modInsertion c (Insertion.soaked f (v.soakSeconds c i)) := by
  unfold State.readSoaking
  rw [hi]
  dsimp only
  by_cases hs : f.tempReached = true ∧ i.soakStarted = false
  · rw [if_pos (by simp [hs])]
    exact modInsertion_congr hi (by simp [Insertion.soaked, hs])
  · have hstill : i.soakStarted = true ∨ f.tempReached = false := by
      by_contra hno
      exact hs (by simpa [and_comm] using hno)
    rw [if_neg (by simpa using hs), State.modInsertion_self hi (Insertion.soaked_self hstill _)]

/-- In SOAKING a STATUS concerns the insertion record alone. -/
theorem State.readSoaking_readJam (R : StatusReads f h k) (hi : v.insertion c = some i) (hs : i.state = .soaking) :
    (v.readSoaking c f).readJam c h =
      v.modInsertion c fun x => Insertion.jammed f (Insertion.soaked f (v.soakSeconds c i) x) := by
  have hsoaked := State.insertion_modInsertion_same hi (Insertion.soaked f (v.soakSeconds c i))
  have hrun : (Insertion.soaked f (v.soakSeconds c i) i).state.hasRun = true := by
    show i.state.hasRun = true
    rw [hs]
    rfl
  rw [State.readSoaking_eq hi, State.readJam_run R hsoaked hrun, modInsertion_modInsertion]

theorem State.beginRun_cell (v : State) (c : CellNo) (i : Insertion) :
    (v.beginRun c i).cell c = { v.cell c with loadFailures := 0 } := State.cell_modCell_same _ c _

/-! ## A STATUS by the state of the insertion (R64, R65, R67, R68, R72) -/

theorem State.readStatus_still (R : StatusReads f h k) (hj : v.insertion c = some j)
    (hs : j.state = .kitWait ∨ j.state = .suspended ∨ j.state = .loading ∧ ¬ (k = some .load ∧ f.lastTag = j.loadTag)) :
    v.readStatus c h f = v := by
  unfold State.readStatus
  rw [hj]
  dsimp only
  rcases hs with hs | hs | ⟨hs, hecho⟩ <;> rw [hs]
  exact if_neg (mt (R.echoed_iff j).mp hecho)

/-- LOADING becomes SOAKING with the echo of its LOAD, and its run begins. -/
theorem State.readStatus_loadEcho (R : StatusReads f h k) (hj : v.insertion c = some j) (hs : j.state = .loading)
    (hecho : k = some .load ∧ f.lastTag = j.loadTag) :
    v.readStatus c h f = ((v.modInsertion c fun x => Insertion.jammed f
      (Insertion.soaked f (v.soakSeconds c j) { x with state := .soaking })).report
        (.insertionEvent c j.lot (some .loading) (some .soaking) .loadEcho)).beginRun c j := by
  let u := (v.modInsertion c fun x => { x with state := .soaking }).report
    (.insertionEvent c j.lot (some .loading) (some .soaking) .loadEcho)
  let w := u.beginRun c j
  have hset : v.setInsState c .soaking .loadEcho = u := by rw [setInsState_eq hj, hs]
  have hread : v.readStatus c h f = (w.readSoaking c f).readJam c h := by
    unfold State.readStatus
    rw [hj]
    dsimp only
    rw [hs]
    dsimp only
    rw [if_pos ((R.echoed_iff j).mpr hecho), hset]
  have hw : w.insertion c = some { j with state := .soaking } := State.insertion_modInsertion_same hj _
  have hsoak : w.soakSeconds c { j with state := .soaking } = v.soakSeconds c j := by
    have htemp : (w.cell c).lastTemp = (v.cell c).lastTemp := (congrArg Cell.lastTemp (State.beginRun_cell u c j) :)
    unfold State.soakSeconds
    dsimp only
    rw [htemp]
    rfl
  rw [hread, State.readSoaking_readJam R hw rfl, hsoak]
  have hcompose := modInsertion_modInsertion v c (fun x => { x with state := .soaking })
    fun x => Insertion.jammed f (Insertion.soaked f (v.soakSeconds c j) x)
  rw [← hcompose]
  rfl

theorem State.readStatus_soaking (R : StatusReads f h k) (hj : v.insertion c = some j) (hs : j.state = .soaking) :
    v.readStatus c h f =
      v.modInsertion c fun x => Insertion.jammed f (Insertion.soaked f (v.soakSeconds c j) x) := by
  rw [← State.readSoaking_readJam R hj hs]
  unfold State.readStatus
  rw [hj]
  dsimp only
  rw [hs]

theorem State.readStatus_going (hj : v.insertion c = some j) (hs : j.state = .running ∨ j.state = .ending) :
    v.readStatus c h f = v.readJam c h := by
  unfold State.readStatus
  rw [hj]
  dsimp only
  rcases hs with hs | hs <;> rw [hs]

theorem State.readStatus_pause (hj : v.insertion c = some j) (hs : j.state = .pausing ∨ j.state = .paused) :
    v.readStatus c h f = (v.readPause c h f).readJam c h := by
  unfold State.readStatus
  rw [hj]
  dsimp only
  rcases hs with hs | hs <;> rw [hs]

theorem State.readPause_eq (R : StatusReads f h k) (hj : v.insertion c = some j) :
    v.readPause c h f =
      if (v.cell c).slot.desired = some .go then
        if k = some .go ∧ f.lastTag = j.loadTag ∧ f.handler.toNat ≤ 1 then v.setInsState c .running .resumed else v
      else if j.state = .pausing ∧ f.handler = 2 then v.setInsState c .paused .halted else v := by
  unfold State.readPause
  rw [hj]
  simp only [Cell.goDesired_iff, R.kind, R.moving, R.halted, Option.some.injEq]

theorem State.readStatus_halted (R : StatusReads f h k) (hj : v.insertion c = some j) (hs : j.state = .pausing)
    (hgo : (v.cell c).slot.desired ≠ some .go) (hh : f.handler = 2) :
    v.readStatus c h f = (v.modInsertion c fun x => { x with state := .paused }).report
      (.insertionEvent c j.lot (some .pausing) (some .paused) .halted) := by
  rw [State.readStatus_pause hj (.inl hs), State.readPause_eq R hj, if_neg hgo, if_pos ⟨hs, hh⟩,
    State.readJam_calm (R.calm (by simp [hh])), setInsState_eq hj, hs]

theorem State.readStatus_resumed (R : StatusReads f h k) (hj : v.insertion c = some j)
    (hs : j.state = .pausing ∨ j.state = .paused) (hgo : (v.cell c).slot.desired = some .go)
    (hr : k = some .go ∧ f.lastTag = j.loadTag ∧ f.handler.toNat ≤ 1) :
    v.readStatus c h f = (v.modInsertion c fun x => { x with state := .running }).report
      (.insertionEvent c j.lot (some j.state) (some .running) .resumed) := by
  have hcalm : f.handler ≠ 3 := fun e => by simp [e] at hr
  rw [State.readStatus_pause hj hs, State.readPause_eq R hj, if_pos hgo, if_pos hr, State.readJam_calm (R.calm hcalm),
    setInsState_eq hj]

theorem State.readStatus_stays (R : StatusReads f h k) (hj : v.insertion c = some j)
    (hs : j.state = .pausing ∨ j.state = .paused) (hp : v.readPause c h f = v) :
    v.readStatus c h f = v.modInsertion c (Insertion.jammed f) := by
  rw [State.readStatus_pause hj hs, hp, State.readJam_run R hj (by rcases hs with e | e <;> rw [e] <;> rfl)]

/-- Without a GO asked for, only a halt of PAUSING changes the state. -/
theorem State.readStatus_unhalted (R : StatusReads f h k) (hj : v.insertion c = some j)
    (hgo : (v.cell c).slot.desired ≠ some .go) (hs : j.state = .paused ∨ j.state = .pausing ∧ f.handler ≠ 2) :
    v.readStatus c h f = v.modInsertion c (Insertion.jammed f) := by
  refine State.readStatus_stays R hj (hs.elim .inr fun e => .inl e.1) ?_
  rw [State.readPause_eq R hj, if_neg hgo, if_neg]
  rintro ⟨hp, hhalt⟩
  rcases hs with e | ⟨-, e⟩
  · simp [hp] at e
  · exact e hhalt

/-- A GO asked for, only its echo from a handler that moves changes the state. -/
theorem State.readStatus_unresumed (R : StatusReads f h k) (hj : v.insertion c = some j)
    (hgo : (v.cell c).slot.desired = some .go) (hs : j.state = .pausing ∨ j.state = .paused)
    (hr : ¬ (k = some .go ∧ f.lastTag = j.loadTag ∧ f.handler.toNat ≤ 1)) :
    v.readStatus c h f = v.modInsertion c (Insertion.jammed f) :=
  State.readStatus_stays R hj hs ((State.readPause_eq R hj).trans ((if_pos hgo).trans (if_neg hr)))

/-! ## The units not seen (R70, R82) -/

/-- The insertion and its step after the units not seen up to `seen` became gap. -/
def State.missed (c : CellNo) (i : Insertion) (seen : Nat) (u : State) : State :=
  (u.modInsertion c fun x => { x with runGap := x.runGap + (seen - i.unitsSeen), unitsSeen := seen }).changeStep
    i.lot i.step fun st => { st with gap := st.gap + (seen - i.unitsSeen) }

/-- The floor that a resync restores on, with the tap's highest unit number `n` (R82). -/
def State.caughtUp (c : CellNo) (i : Insertion) (n : Nat) (u : State) : State :=
  let missed := u.missed c i (min n i.expected)
  if i.takenBy.hasRun = false ∨ n ≤ i.unitsSeen then u
  else if n ≤ i.expected ∨ i.quantityHold = true then missed
  else ((missed.modInsertion c fun x => { x with quantityHold := true }).holdRequest i.lot
    { origin := .quantity, limit := none, reason := none, holdClass := .stopNow, cell := some c }).1

theorem State.missed_insertion (hi : u.insertion c = some i) (n : Nat) :
    (u.missed c i n).insertion c = some { i with runGap := i.runGap + (n - i.unitsSeen), unitsSeen := n } :=
  State.insertion_modInsertion_same hi _

theorem State.missed_eq {n : Nat} (hi : u.insertion c = some i) (hn : i.unitsSeen < n) :
    u.missed c i (min n i.expected) = u.seeUnits c i n := by
  have hseen : i.seenAt n = min n i.expected := if_pos hn
  unfold State.missed State.seeUnits
  rw [← hseen]
  exact congrArg (State.changeStep i.lot i.step _) (modInsertion_congr hi rfl)

theorem State.caughtUp_eq (hi : u.insertion c = some i) (n : Nat) :
    (if i.takenBy.hasRun then u.catchUp c n else u) = u.caughtUp c i n := by
  unfold State.caughtUp
  rw [State.catchUp_eq hi]
  cases hr : i.takenBy.hasRun with
  | false => rfl
  | true =>
    by_cases hseen : n ≤ i.unitsSeen
    · simp [hseen]
    · rw [State.missed_eq hi (by omega)]
      by_cases hle : n ≤ i.expected
      · simp [hseen, hle, Nat.not_lt.mpr hle]
      · cases hq : i.quantityHold with
        | true => simp [hseen, hle]
        | false => simp [hseen, hle, Nat.lt_of_not_le hle, State.engineHold]

/-! ### What the units not seen leave of the floor -/

theorem State.syncHold_cancelOfLot_resting (hi : w.insertion c = some i) (hs : i.state = .ending ∨ i.state = .suspended)
    (hr : w.reservationOfLot l = none) (cause : CancelCause) :
    ∃ p b, ((w.syncHold l).cancelOfLot l cause).insertion c = some { i with pause := p, sampleVoid := b } := by
  rw [State.cancelOfLot_none ((((State.Beside.refl l w).syncHold l).reservationOfLot l).trans hr)]
  exact (State.syncHold_resting hi hs).1

theorem State.quarantine_resting (hi : w.insertion c = some i) (hs : i.state = .ending ∨ i.state = .suspended)
    (hr : w.reservationOfLot l = none) (m : QuarantineMatter) :
    ∃ p b, (w.quarantine l m).insertion c = some { i with pause := p, sampleVoid := b } := by
  unfold State.quarantine
  split
  · exact ⟨_, _, hi⟩
  · split
    · exact ⟨_, _, hi⟩
    · refine State.syncHold_cancelOfLot_resting ?_ hs ?_ _
      · exact hi
      · exact hr

/-- A hold request changes a resting insertion in its pause reasons alone (R66, R108). -/
theorem State.holdRequest_resting (hi : w.insertion c = some i) (hs : i.state = .ending ∨ i.state = .suspended)
    (hr : w.reservationOfLot l = none) (r : HoldRequest) :
    ∃ p b, (w.holdRequest l r).1.insertion c = some { i with pause := p, sampleVoid := b } := by
  unfold State.holdRequest
  split
  · exact ⟨_, _, hi⟩
  · split
    · exact ⟨_, _, hi⟩
    · split
      · exact State.quarantine_resting hi hs hr _
      · split
        · exact State.quarantine_resting hi hs hr _
        · split
          · exact State.quarantine_resting hi hs hr _
          · refine State.syncHold_cancelOfLot_resting ?_ hs ?_ _
            · exact hi
            · exact hr

/-- What the restore of Table 4-2 reads in `w` as it stood in `u`: the insertion but for its counts and its pause reasons,
the lot number, the recipes and the cell. -/
structure State.CaughtUp (u w : State) (c : CellNo) (i j : Insertion) : Prop where
  near : u.Near w
  insertion : w.insertion c = some j
  record : j = { i with
    runGap := j.runGap, unitsSeen := j.unitsSeen, quantityHold := j.quantityHold, pause := j.pause,
    sampleVoid := j.sampleVoid }
  lotNumber : ∀ y, u.lot i.lot = some y → ∃ z, w.lot i.lot = some z ∧ z.lotNumber = y.lotNumber

theorem State.CaughtUp.missed (hi : u.insertion c = some i) (n : Nat) :
    u.CaughtUp (u.missed c i n) c i { i with runGap := i.runGap + (n - i.unitsSeen), unitsSeen := n } where
  near := ((State.Near.refl u).modInsertion c _).trans ((State.CellsStand.refl _).changeStep i.lot i.step _).near
  insertion := State.missed_insertion hi n
  record := rfl
  lotNumber := fun _ hy => ⟨_, State.lot_changeStep hy, rfl⟩

theorem State.CaughtUp.excess (K : u.CaughtUp w c i j) (hs : i.state = .suspended) (hr : u.reservationOfLot i.lot = none)
    (r : HoldRequest) :
    ∃ j', u.CaughtUp ((w.modInsertion c fun x => { x with quantityHold := true }).holdRequest i.lot r).1 c i j' := by
  let v := w.modInsertion c fun x => { x with quantityHold := true }
  have hv : v.insertion c = some { j with quantityHold := true } := State.insertion_modInsertion_same K.insertion _
  have hnear : u.Near v := K.near.modInsertion c _
  have hnone : v.reservationOfLot i.lot = none := (hnear.reservationOfLot i.lot).trans hr
  have hsusp : j.state = .suspended := by rw [K.record]; exact hs
  obtain ⟨p, b, hins⟩ := State.holdRequest_resting hv (.inr hsusp) hnone r
  have hbeside := (State.Beside.refl i.lot v).holdRequest hnone r
  refine ⟨_, hnear.trans hbeside.toNear, hins, ?_, fun y hy => ?_⟩
  · rw [K.record]
  · obtain ⟨z, hz, hnumber⟩ := K.lotNumber y hy
    obtain ⟨hs, q, hz'⟩ := hbeside.lot z hz
    exact ⟨_, hz', hnumber⟩

theorem State.caughtUp_caughtUp (hi : u.insertion c = some i) (hs : i.state = .suspended)
    (hr : u.reservationOfLot i.lot = none) (n : Nat) : ∃ j, u.CaughtUp (u.caughtUp c i n) c i j := by
  unfold State.caughtUp
  dsimp only
  split
  · exact ⟨i, .refl u, hi, rfl, fun y hy => ⟨y, hy, rfl⟩⟩
  · split
    · exact ⟨_, .missed hi _⟩
    · exact (State.CaughtUp.missed hi _).excess hs hr _

/-! ## The restore (R82, Table 4-2) -/

/-- The insertion of lot `l` restored to `new`, with its record. -/
def State.backTo (c : CellNo) (l : LotSlot) (new : InsState) (w : State) : State :=
  (w.modInsertion c fun x => { x with before := none, resyncPending := false, state := new }).report
    (.insertionEvent c l (some .suspended) (some new) .restore)

/-- A command that takes the load tag `tag` asked for, the load timer with it (R54, R64). -/
def State.askedAnew (c : CellNo) (tag : Half) (cmd : Command) (timer : Insertion → Nat) (v : State) : State :=
  (v.modInsertion c fun x => { x with loadTag := tag, loadTimer := timer x }).modCell c fun y => { y with
    slot := { y.slot with desired := some cmd, tag := tag } }

theorem State.backTo_insertion (hj : w.insertion c = some j) (l : LotSlot) (new : InsState) :
    (w.backTo c l new).insertion c = some { j with before := none, resyncPending := false, state := new } :=
  State.insertion_modInsertion_same hj _

theorem State.restoreTo_eq (hj : w.insertion c = some j) (hs : j.state = .suspended) (new : InsState) :
    w.restoreTo c new = w.backTo c j.lot new := by
  unfold State.restoreTo
  rw [setInsState_eq (State.insertion_modInsertion_same hj _), modInsertion_modInsertion]
  dsimp only
  rw [hs]
  rfl

theorem State.request_kitRequest (n : Nat) (w : State) :
    w.request c (.kitRequest n) = w.askedAnew c (nextTag (w.cell c).slot.tag) (.kitRequest n) Insertion.loadTimer := rfl

theorem State.loadCommand_of (hy : w.lot j.lot = some y) :
    w.loadCommand j =
      .load (w.recipe j.recipe).programId (w.recipe j.recipe).temp j.siteMask j.expected y.lotNumber := by
  unfold State.loadCommand
  rw [hy]
  rfl

theorem State.requestLoad_eq (hj : w.insertion c = some j) (hy : w.lot j.lot = some y) :
    w.requestLoad c = w.askedAnew c (nextTag (w.cell c).slot.tag)
      (.load (w.recipe j.recipe).programId (w.recipe j.recipe).temp j.siteMask j.expected y.lotNumber) fun _ => 30 := by
  have hcompose (tag : Half) : (w.modInsertion c fun x => { x with loadTag := tag, loadTimer := 30 }) =
      (w.modInsertion c fun x => { x with loadTimer := 30 }).modInsertion c fun x => { x with loadTag := tag } := by
    rw [modInsertion_modInsertion]
  unfold State.requestLoad State.askedAnew
  rw [hj, hcompose]
  dsimp only
  rw [State.loadCommand_of hy]
  rfl

/-- Table 4-2: the restore from the state before suspension `b`, with the pause reasons `p`. -/
def State.restored (c : CellNo) (f : StatusFrame) (i : Insertion) (p : PauseSet) (b : InsState) (w : State) : State :=
  match b with
  | .kitWait =>
    if (w.cell c).kitCode = some (w.recipe i.recipe).kitCode then (w.backTo c i.lot .loading).requestLoad c
    else (w.backTo c i.lot .kitWait).request c (.kitRequest (w.recipe i.recipe).kitCode)
  | .loading =>
    if i.echoed f then (w.backTo c i.lot .soaking).beginRun c i else (w.backTo c i.lot .loading).requestLoad c
  | .soaking => w.backTo c i.lot .soaking
  | .running =>
    if p.halt.isSome then (w.backTo c i.lot .pausing).asked c p.command else (w.backTo c i.lot .running).asked c .go
  | .pausing => (w.backTo c i.lot .pausing).asked c p.command
  | .paused => (w.backTo c i.lot .paused).asked c p.command
  | .ending => (w.backTo c i.lot .ending).asked c i.endCommand
  | .suspended => w

theorem State.restore_eq (hj : w.insertion c = some j) (hs : j.state = .suspended) (hb : j.before = some b)
    (f : StatusFrame) : w.restore c f = w.restored c f j j.pause b := by
  have hgo (v : State) : v.request c .go = v.asked c .go := request_plain rfl
  unfold State.restore State.restored
  rw [hj]
  dsimp only
  rw [hb]
  simp only [Option.getD_some, State.restoreTo_eq hj hs, request_plain (command_plain _), hgo,
    request_plain (Insertion.endCommand_plain _)] <;> rfl

/-! ### The restore after the units not seen -/

theorem State.CaughtUp.restore (K : u.CaughtUp w c i j) (hs : i.state = .suspended) (hb : i.before = some b)
    (f : StatusFrame) : w.restore c f = w.restored c f i j.pause b := by
  have hstate : j.state = .suspended := (congrArg Insertion.state K.record).trans hs
  have hbefore : j.before = some b := (congrArg Insertion.before K.record).trans hb
  exact (State.restore_eq K.insertion hstate hbefore f).trans
    ((congrArg (fun x => w.restored c f x j.pause b) K.record).trans rfl)

theorem State.CaughtUp.tag (K : u.CaughtUp w c i j) : (w.cell c).slot.tag = (u.cell c).slot.tag := by
  obtain ⟨o, ho⟩ := K.near.cell c
  rw [ho]

theorem State.CaughtUp.kitCode (K : u.CaughtUp w c i j) : (w.cell c).kitCode = (u.cell c).kitCode := by
  obtain ⟨o, ho⟩ := K.near.cell c
  rw [ho]
  rfl

/-- A restore to LOADING asks for the LOAD of the insertion anew. -/
theorem State.CaughtUp.requestLoad (K : u.CaughtUp w c i j) (hy : u.lot i.lot = some y) :
    (w.backTo c i.lot .loading).requestLoad c =
      (w.backTo c i.lot .loading).askedAnew c (nextTag (u.cell c).slot.tag)
        (.load (u.recipe i.recipe).programId (u.recipe i.recipe).temp i.siteMask i.expected y.lotNumber) fun _ => 30 := by
  obtain ⟨z, hz, hnumber⟩ := K.lotNumber y hy
  have hins := State.backTo_insertion K.insertion i.lot .loading
  rw [K.record] at hins
  rw [State.requestLoad_eq hins hz, ← K.tag, ← K.near.recipe, ← hnumber]
  rfl

/-- A restore to KIT_WAIT asks for the kit anew. -/
theorem State.CaughtUp.kitRequest (K : u.CaughtUp w c i j) :
    (w.backTo c i.lot .kitWait).request c (.kitRequest (w.recipe i.recipe).kitCode) =
      (w.backTo c i.lot .kitWait).askedAnew c (nextTag (u.cell c).slot.tag) (.kitRequest (u.recipe i.recipe).kitCode)
        Insertion.loadTimer := by
  rw [State.request_kitRequest, ← K.tag, ← K.near.recipe]
  rfl

/-- The run of an insertion that a restore brings to SOAKING begins at the time of the STATUS. -/
theorem State.CaughtUp.beginRun (K : u.CaughtUp w c i j) (new : InsState) :
    (w.backTo c i.lot new).beginRun c i =
      ((w.backTo c i.lot new).changeStep i.lot i.step fun st => { st with
        runs := st.runs ++ [{ cell := c, startSecond := u.ft.clock, unitsTested := 0, endSecond := none,
                              outcome := none }] }).modCell c fun x => { x with loadFailures := 0 } := by
  rw [← K.near.ft]
  rfl

theorem State.resync_eq (hi : u.insertion c = some i) (h : HandlerState) (f : StatusFrame) :
    u.resync c h f = ((u.caughtUp c i f.highest.toNat).restore c f).readStatus c h f := by
  rw [← State.caughtUp_eq hi]
  unfold State.resync
  rw [hi]

/-- Settles O36. -/
theorem statusMovesTheInsertion : Obligations.StatusMovesTheInsertion := by
  unfold Obligations.StatusMovesTheInsertion
  intro s p c address i f k h hd _ hh hk u
  have R : StatusReads f h k := .of_codes hh hk
  have hi : u.insertion c = some i := hd.2.1
  have hcell : u.cell c = _ := s.applied_cell p c f k
  have hexec : exec (.status p address f) s = .next (u.deliverStatus c h f) := exec_status hd hh R
  have hdesired : (u.cell c).slot.desired = (s.cell c).slot.desired := by rw [hcell]
  have active (hs : i.state ≠ .suspended) : exec (.status p address f) s = .next (u.readStatus c h f) :=
    hexec.trans (congrArg Host.Outcome.next (State.deliverStatus_active hi hs))
  have restores (v : State) (hs : i.state = .suspended) (hr : i.resyncPending = true)
      (hv : (u.caughtUp c i f.highest.toNat).restore c f = v) :
      exec (.status p address f) s = .next (v.readStatus c h f) := by
    rw [hexec, State.deliverStatus_resync hi hs hr, State.resync_eq hi, hv]
  have reads (v : State) (hs : i.state ≠ .suspended) (hv : u.readStatus c h f = v) :
      exec (.status p address f) s = .next v := (active hs).trans (congrArg Host.Outcome.next hv)
  refine ⟨fun hs hk hl hstart => ?_, fun hs hecho => ?_, fun hs hhalt hgo => ?_, fun hs hgo hk hl hmove => ?_,
    fun hs hr => ?_, fun hs hr hb he hseen hcalm => ?_, active, fun v j hj => ?_, fun hs hr hres => ?_⟩
  · refine reads _ (by simp [hs]) ((State.readStatus_loadEcho R hi hs ⟨hk, hl⟩).trans ?_)
    have hsoak : u.soakSeconds c i =
        if (s.cell c).lastTemp = some (s.recipe i.recipe).temp then 0 else 60 * (s.recipe i.recipe).soakMinutes := by
      unfold State.soakSeconds
      rw [hcell]
      rfl
    refine congrArg (fun v : State => (v.report _).beginRun c i) (modInsertion_congr hi ?_)
    refine (congrArg (Insertion.jammed f) (Insertion.soaked_first (i := { i with state := .soaking }) hstart _)).trans ?_
    rw [hsoak]
    rfl
  · exact reads _ (by simp [hs]) (State.readStatus_still R hi (.inr (.inr ⟨hs, hecho⟩)))
  · exact reads _ (by simp [hs]) (State.readStatus_halted R hi hs (hdesired ▸ hgo) hhalt)
  · exact reads _ (by rcases hs with e | e <;> simp [e])
      (State.readStatus_resumed R hi hs (hdesired.trans hgo) ⟨hk, hl, hmove⟩)
  · exact hexec.trans (congrArg Host.Outcome.next (State.deliverStatus_waiting hi hs hr))
  · have hcaught : u.caughtUp c i f.highest.toNat = u := if_pos (.inr hseen)
    have hrestore : (u.caughtUp c i f.highest.toNat).restore c f = (u.backTo c i.lot .running).asked c .go := by
      rw [hcaught, State.restore_eq hi hs hb]
      exact if_neg (by simp [(command_of_empty he).2])
    have hrun : ((u.backTo c i.lot .running).asked c .go).insertion c = _ := State.backTo_insertion hi i.lot .running
    refine (restores _ hs hr hrestore).trans (congrArg Host.Outcome.next ?_)
    exact (State.readStatus_going hrun (.inl rfl)).trans (State.readJam_calm (R.calm hcalm) _)
  · intro echo resumed jam soak
    refine ⟨State.readStatus_still R hj, State.readStatus_loadEcho R hj, State.readStatus_soaking R hj, fun hs => ?_,
      fun hgo => ⟨fun hs => State.readStatus_halted R hj hs hgo, State.readStatus_unhalted R hj hgo⟩,
      fun hgo hs => ⟨State.readStatus_resumed R hj hs hgo, State.readStatus_unresumed R hj hgo hs⟩⟩
    rw [State.readStatus_going hj hs]
    exact State.readJam_run R hj (by rcases hs with e | e <;> rw [e] <;> rfl)
  · obtain ⟨j, K⟩ := State.caughtUp_caughtUp hi hs hres f.highest.toNat
    intro seen missed caught
    refine ⟨j, K.insertion, K.record, ?_⟩
    intro rest back tag asking loadAgain kit
    have htag : nextTag (u.cell c).slot.tag = tag := by rw [hcell]; rfl
    have hkit : (caught.cell c).kitCode = kit := K.kitCode.trans (by rw [hcell]; rfl)
    have hrecipe : caught.recipe i.recipe = s.recipe i.recipe := K.near.recipe _
    have hfits : (caught.cell c).kitCode = some (caught.recipe i.recipe).kitCode ↔
        kit = some (s.recipe i.recipe).kitCode := by
      rw [hkit, hrecipe]
    have row (b : InsState) (v : State) (hb : i.before = some b)
        (hv : caught.restored c f i j.pause b = v) : rest v := restores v hs hr ((K.restore hs hb f).trans hv)
    have load (y : Lot) (hy : s.lot i.lot = some y) : (caught.backTo c i.lot .loading).requestLoad c = loadAgain y := by
      refine (K.requestLoad hy).trans ?_
      rw [htag]
      rfl
    refine ⟨fun y hy hb hk => row _ _ hb ?_, fun hb hk => row _ _ hb ?_, fun hb hk hl => row _ _ hb ?_,
      fun y hy hb he => row _ _ hb ?_, fun hb => row _ _ hb rfl, fun hb he => row _ _ hb ?_, fun hb he => row _ _ hb ?_,
      fun b hb hp => ⟨fun he => row _ _ hb ?_, fun he => row _ _ hb ?_⟩, fun hb => row _ _ hb rfl⟩
    · exact (if_pos ((hfits).mpr hk)).trans (load y hy)
    · refine (if_neg (mt (hfits).mp hk)).trans (K.kitRequest.trans ?_)
      rw [htag]
      rfl
    · exact (if_pos ((R.echoed_iff i).mpr ⟨hk, hl⟩)).trans (K.beginRun .soaking)
    · exact (if_neg (mt (R.echoed_iff i).mp he)).trans (load y hy)
    · exact if_neg (by simp [(command_of_empty he).2])
    · exact (if_pos (command_of_nonempty he).2).trans (congrArg (State.asked _ c) (command_of_nonempty he).1)
    · rcases hp with rfl | rfl <;> exact congrArg (State.asked _ c) (command_of_empty he).1
    · rcases hp with rfl | rfl <;> exact congrArg (State.asked _ c) (command_of_nonempty he).1

end Sys2Proof.Machine
end

section
/-! OBLIGATION O43. DROP_LIMIT_SET (R85, R88). -/

namespace Sys2Proof.Machine

variable {s : State} {slot : BoardSlot}

/-- A limit set is in use when some step of some lot in the table names it (R85). -/
theorem State.limitSetInUse_iff (s : State) (n : LimitNo) :
    s.limitSetInUse n = true ↔ ∃ l x st, s.lot l = some x ∧ st ∈ x.steps ∧ st.limitSet = n := by
  unfold State.limitSetInUse
  rw [List.any_eq_true]
  constructor
  · rintro ⟨o, ho, h⟩
    obtain ⟨k, hk, e⟩ := Vector.mem_iff_getElem.mp (Vector.mem_toList_iff.mp ho)
    cases o with
    | none => simp at h
    | some x =>
      obtain ⟨st, hst, hn⟩ := List.any_eq_true.mp h
      exact ⟨⟨k, hk⟩, x, st, e, hst, of_decide_eq_true hn⟩
  · rintro ⟨l, x, st, hl, hst, hn⟩
    refine ⟨some x, Vector.mem_toList_iff.mpr (Vector.mem_iff_getElem.mpr ⟨l.val, l.isLt, hl⟩), ?_⟩
    exact List.any_eq_true.mpr ⟨st, hst, decide_eq_true hn⟩

@[simp] theorem State.takeSlot_limitSetInUse (s : State) (slot : BoardSlot) (n : LimitNo) :
    (s.takeSlot slot).limitSetInUse n = s.limitSetInUse n := by simp [State.limitSetInUse]

/-- DROP_LIMIT_SET of a number 1..64, by the record of the number. -/
theorem actDropLimitSet_of {b : Byte} {n : LimitNo} (hn : b.toNat = number n) (s : State) :
    actDropLimitSet b s =
      if (s.limitSet? n).isNone then refuse .notFound s
      else if s.limitSetInUse n then refuse .inUse s
      else doneOrder (s.setLimitSet n none) := by
  unfold actDropLimitSet
  rw [ofNumber_number n hn]

/-- Settles O43. -/
theorem dropLimitSetEmptiesTheRecord : Obligations.DropLimitSetEmptiesTheRecord := by
  unfold Obligations.DropLimitSetEmptiesTheRecord
  intro s slot b ht
  refine ⟨fun hb => answers_refuse rfl ht (by unfold actDropLimitSet; rw [ofNumber_outside hb]), ?_⟩
  intro n hn named
  have hact := actDropLimitSet_of hn (s.takeSlot slot)
  rw [State.takeSlot_limitSetOpt, State.takeSlot_limitSetInUse] at hact
  have hnamed : s.limitSetInUse n = true ↔ named := s.limitSetInUse_iff n
  have hsome (h : s.limitSet? n ≠ none) : ¬ (s.limitSet? n).isNone = true := by simpa using h
  refine ⟨fun h => ?_, fun h hu => ?_, fun h hu => ?_⟩
  · exact answers_refuse rfl ht (hact.trans (if_pos (by simp [h])))
  · exact answers_refuse rfl ht (hact.trans ((if_neg (hsome h)).trans (if_pos (hnamed.mpr hu))))
  · exact answers_done rfl ht (hact.trans ((if_neg (hsome h)).trans (if_neg (mt hnamed.mp hu))))
      (Acts.dropLimitSet b _).toCore ((State.SameFloor.takeSlot s slot).setLimitSet n _)

end Sys2Proof.Machine
end

section
/-! OBLIGATION O42. PUT_LIMIT_SET (R86, R87). -/

namespace Sys2Proof.Machine

variable {s t u : State} {a : LimitSetArgs} {e : EntryArgs} {n : LimitNo} {c : CellNo} {i : Insertion}

/-! ## The entries given (R86) -/

theorem ofNumber_isSome_iff {n k : Nat} : (ofNumber? n k).isSome = true ↔ 1 ≤ k ∧ k ≤ n := by
  unfold ofNumber?
  split
  · next h => exact iff_of_true rfl h
  · next h => exact iff_of_false (by simp) h

/-- The codes that name a metric: 0..3, BIN_PPM with a bin 1..16 (R86). -/
theorem Metric.ofCode_isSome_iff {code bin : Nat} :
    (Metric.ofCode? code bin).isSome = true ↔ code ≤ 3 ∧ (code = 1 → 1 ≤ bin ∧ bin ≤ 16) := by
  match code with
  | 0 | 2 | 3 => simp [Metric.ofCode?]
  | 1 => simp [Metric.ofCode?, ofNumber_isSome_iff]
  | k + 4 => simp [Metric.ofCode?]

/-- FAIL_RUN alone has the range 0..65535 (Table 5-2). -/
theorem Metric.top_of_ofCode {code bin : Nat} {m : Metric} (h : Metric.ofCode? code bin = some m) :
    m.top = if code = 3 then 65535 else 1000000 := by
  unfold Metric.ofCode? at h
  split at h
  case h_2 =>
    obtain ⟨b, -, rfl⟩ := Option.map_eq_some_iff.mp h
    rfl
  case h_5 => cases h
  all_goals cases h; rfl

theorem TripCondition.ofCode_isSome_iff {code : Nat} : (TripCondition.ofCode? code).isSome = true ↔ code ≤ 3 := by
  match code with
  | 0 | 1 | 2 | 3 => simp [TripCondition.ofCode?]
  | k + 4 => simp [TripCondition.ofCode?]

theorem HoldClass.ofCode_isSome_iff {code : Nat} : (HoldClass.ofCode? code).isSome = true ↔ code ≤ 2 := by
  match code with
  | 0 | 1 | 2 => simp [HoldClass.ofCode?]
  | k + 3 => simp [HoldClass.ofCode?]

/-- The names of an entry are in order (R86). -/
structure EntryNamed (e : EntryArgs) : Prop where
  metric : e.metric.toNat ≤ 3
  condition : e.condition.toNat ≤ 3
  holdClass : e.holdClass.toNat ≤ 2
  bin : e.metric = 1 → 1 ≤ e.bin.toNat ∧ e.bin.toNat ≤ 16

theorem entryNamed_iff : entryNamed e = true ↔ EntryNamed e := by
  have h1 : e.metric.toNat = 1 ↔ e.metric = 1 := ⟨fun h => BitVec.eq_of_toNat_eq h, fun h => by rw [h]; rfl⟩
  unfold entryNamed
  rw [Bool.and_eq_true, Bool.and_eq_true, Metric.ofCode_isSome_iff, TripCondition.ofCode_isSome_iff,
    HoldClass.ofCode_isSome_iff, h1]
  exact ⟨fun ⟨⟨⟨hm, hb⟩, hc⟩, hk⟩ => ⟨hm, hc, hk, hb⟩, fun ⟨hm, hc, hk, hb⟩ => ⟨⟨⟨hm, hb⟩, hc⟩, hk⟩⟩

/-- The levels and the band of an entry whose names are in order lie in the range of its metric (R86). -/
theorem entryInRange_iff (h : EntryNamed e) :
    let top := if e.metric = 3 then 65535 else 1000000
    entryInRange e = true ↔ e.level1.toNat ≤ top ∧ e.level2.toNat ≤ top ∧ e.band.toNat ≤ top := by
  have h3 : e.metric.toNat = 3 ↔ e.metric = 3 := ⟨fun h => BitVec.eq_of_toNat_eq h, fun h => by rw [h]; rfl⟩
  have hnamed := entryNamed_iff.mpr h
  unfold entryNamed at hnamed
  simp only [Bool.and_eq_true] at hnamed
  obtain ⟨m, hm⟩ := Option.isSome_iff_exists.mp hnamed.1.1
  have htop := Metric.top_of_ofCode hm
  simp only [h3] at htop
  unfold entryInRange
  rw [hm]
  dsimp only
  rw [htop]
  simp only [Bool.and_eq_true, decide_eq_true_eq, and_assoc]

/-- The entry record `x` holds the fields given in `e` (Table 5-2). -/
structure LimitEntry.Holds (x : LimitEntry) (e : EntryArgs) : Prop where
  metric : Metric.ofCode? e.metric.toNat e.bin.toNat = some x.metric
  level1 : x.level1 = e.level1.toNat
  level2 : x.level2 = e.level2.toNat
  condition : TripCondition.ofCode? e.condition.toNat = some x.condition
  holdClass : HoldClass.ofCode? e.holdClass.toNat = some x.holdClass
  band : x.band = e.band.toNat
  enabled : x.enabled = true ↔ e.enabled ≠ 0

theorem entryOfArgs_of (h : EntryNamed e) : ∃ x, entryOfArgs e = some x ∧ x.Holds e := by
  have hnamed := entryNamed_iff.mpr h
  unfold entryNamed at hnamed
  simp only [Bool.and_eq_true] at hnamed
  obtain ⟨⟨hm, hc⟩, hk⟩ := hnamed
  obtain ⟨m, hm⟩ := Option.isSome_iff_exists.mp hm
  obtain ⟨t, hc⟩ := Option.isSome_iff_exists.mp hc
  obtain ⟨k, hk⟩ := Option.isSome_iff_exists.mp hk
  unfold entryOfArgs
  rw [hm, hc, hk]
  exact ⟨_, rfl, hm, rfl, rfl, hc, hk, rfl, by simp⟩

/-! ## The insertions that use the set (R87) -/

theorem State.usesSet_iff :
    s.usesSet n i = true ↔ ∃ x, s.lot i.lot = some x ∧ (x.step i.step).limitSet = n := by
  unfold State.usesSet
  split
  · next h => simp [h]
  · next x h => simp [h]

/-- Each insertion after the replacement of a set (R87). -/
theorem State.rearmUsers_insertion (s : State) (n : LimitNo) (k : Nat) (c : CellNo) :
    (s.rearmUsers n k).insertion c = (s.insertion c).map fun i => if s.usesSet n i then i.rearm k else i := by
  simp [State.rearmUsers, State.insertion]

theorem State.SameFloor.rearmUsers (h : u.SameFloor t) (n : LimitNo) (k : Nat) :
    (u.rearmUsers n k).SameFloor (t.rearmUsers n k) := by
  rw [h.eq]
  exact ⟨rfl, rfl, rfl, rfl, rfl, rfl, rfl, rfl, rfl, rfl⟩

/-! ## The order (R86) -/

/-- The entries given, those up to the entry count (R86). -/
def givenEntries (a : LimitSetArgs) : List EntryArgs := a.entries.take a.entryCount.toNat

/-- The levels of an entry stand in their order (R86). -/
def inOrder (e : EntryArgs) : Bool := e.level2.toNat ≤ e.level1.toNat

/-- The set's own fields are in range (R86). -/
structure SetInRange (a : LimitSetArgs) : Prop where
  minUnits : a.minUnits ≠ 0
  siteMinUnits : a.siteMinUnits ≠ 0
  interval : a.interval ≠ 0
  intervalMax : a.interval.toNat ≤ 2047
  entryCount : a.entryCount.toNat ≤ 8

/-- The record that the fields given make (Table 5-1). -/
def setOfArgs (a : LimitSetArgs) : LimitSet :=
  { minUnits := a.minUnits.toNat, interval := a.interval.toNat, siteMinUnits := a.siteMinUnits.toNat,
    entries := (givenEntries a).filterMap entryOfArgs }

/-- Each entry of the record holds the fields given in its place. -/
theorem setOfArgs_entries (h : ∀ e ∈ givenEntries a, EntryNamed e) :
    (setOfArgs a).entries.length = (givenEntries a).length ∧
      ∀ (k : Nat) (e : EntryArgs) (x : LimitEntry), (givenEntries a)[k]? = some e →
        (setOfArgs a).entries[k]? = some x → x.Holds e := by
  have hsome : ∀ e ∈ givenEntries a, (entryOfArgs e).isSome := fun e he => by
    obtain ⟨x, hx, -⟩ := entryOfArgs_of (h e he)
    rw [hx]
    rfl
  refine ⟨List.filterMap_length_eq_length.mpr hsome, fun k e x hk hx => ?_⟩
  obtain ⟨y, hy, H⟩ := entryOfArgs_of (h e (List.mem_of_getElem? hk))
  rw [setOfArgs, getElem?_filterMap_of_isSome _ hsome, hk, Option.bind_some, hy] at hx
  exact Option.some.inj hx ▸ H

theorem actPutLimitSet_outside (h : ofNumber? 64 a.number.toNat = none ∨ ¬ SetInRange a) (s : State) :
    actPutLimitSet a s = refuseWith .badArg 0 s := by
  unfold actPutLimitSet
  dsimp only
  split
  · rfl
  · next n hn =>
    refine if_pos (by_contra fun hall => h.elim (by simp [hn]) fun hbad => hbad ?_)
    push Not at hall
    obtain ⟨h1, h2, h3, h4, h5⟩ := hall
    exact ⟨h1, h2, h3, h4, h5⟩

/-- PUT_LIMIT_SET with its own fields in range goes by the names, the ranges and the levels of the entries (R86). -/
theorem actPutLimitSet_of (hn : a.number.toNat = number n) (h : SetInRange a) (s : State) :
    actPutLimitSet a s =
      match firstBad entryNamed (givenEntries a) with
      | some k => refuseWith .badArg k s
      | none =>
        match firstBad entryInRange (givenEntries a) with
        | some k => refuseWith .badArg k s
        | none =>
          match firstBad inOrder (givenEntries a) with
          | some k => refuseWith .badArg k s
          | none =>
            ((s.setLimitSet n (some (setOfArgs a))).rearmUsers n a.interval.toNat, Answer.withDetail .done 0) := by
  unfold actPutLimitSet
  dsimp only
  rw [ofNumber_number n hn]
  dsimp only
  refine if_neg ?_
  rintro (h1 | h2 | h3 | h4 | h5)
  · exact h.minUnits h1
  · exact h.siteMinUnits h2
  · exact h.interval h3
  · exact absurd h.intervalMax (by omega)
  · exact absurd h.entryCount (by omega)

/-- Settles O42. -/
theorem putLimitSetWritesTheSet : Obligations.PutLimitSetWritesTheSet := by
  unfold Obligations.PutLimitSetWritesTheSet
  intro s slot a ht given fields named top inRange ordered firstNot
  have hfields : fields ↔ SetInRange a :=
    ⟨fun ⟨h1, h2, h3, h4, h5⟩ => ⟨h1, h2, h3, h4, h5⟩, fun ⟨h1, h2, h3, h4, h5⟩ => ⟨h1, h2, h3, h4, h5⟩⟩
  have hnamed {e : EntryArgs} : entryNamed e = true ↔ named e :=
    entryNamed_iff.trans ⟨fun ⟨h1, h2, h3, h4⟩ => ⟨h1, h2, h3, h4⟩, fun ⟨h1, h2, h3, h4⟩ => ⟨h1, h2, h3, h4⟩⟩
  have hrange {e : EntryArgs} (h : named e) : entryInRange e = true ↔ inRange e :=
    entryInRange_iff (entryNamed_iff.mp (hnamed.mpr h))
  -- the first given entry that fails a test
  have hfirst (test : EntryArgs → Bool) {ok : EntryArgs → Prop} (he : ∀ e ∈ given, test e = true ↔ ok e) {k : Nat}
      (h : firstNot ok k) : firstBad test (givenEntries a) = some (k + 1) := by
    obtain ⟨⟨e, hk, hbad⟩, hall⟩ := h
    exact firstBad_some hk (by simpa using mt (he e (List.mem_of_getElem? hk)).mp hbad)
      fun m y hm hy => (he y (List.mem_of_getElem? hy)).mpr (hall m y hm hy)
  refine ⟨fun h => answers_refuseWith rfl ht (actPutLimitSet_outside ?_ _), fun n hn hf => ?_⟩
  · rcases h with h | h | h
    · exact .inl (ofNumber_outside (.inl h))
    · exact .inl (ofNumber_outside (.inr h))
    · exact .inr (mt hfields.mpr h)
  have hact := actPutLimitSet_of hn (hfields.mp hf) (s.takeSlot slot)
  have hnames (h : ∀ e ∈ given, named e) : firstBad entryNamed (givenEntries a) = none :=
    firstBad_none fun e he => hnamed.mpr (h e he)
  have hranges (h : ∀ e ∈ given, named e ∧ inRange e) : firstBad entryInRange (givenEntries a) = none :=
    firstBad_none fun e he => (hrange (h e he).1).mpr (h e he).2
  refine ⟨fun k hk => ?_, fun h k hk => ?_, fun h k hk => ?_, fun h => ?_⟩
  · rw [hfirst entryNamed (fun e _ => hnamed) hk] at hact
    exact answers_refuseWith rfl ht hact
  · rw [hnames h, hfirst entryInRange (fun e he => hrange (h e he)) hk] at hact
    exact answers_refuseWith rfl ht hact
  · rw [hnames fun e he => (h e he).1, hranges h, hfirst inOrder (fun e _ => decide_eq_true_iff) hk] at hact
    exact answers_refuseWith rfl ht hact
  · rw [hnames fun e he => (h e he).1, hranges fun e he => ⟨(h e he).1, (h e he).2.1⟩,
      firstBad_none (ok := inOrder) (xs := givenEntries a) fun e he => decide_eq_true (h e he).2.2] at hact
    obtain ⟨hlength, hentry⟩ := setOfArgs_entries fun e he => entryNamed_iff.mp (hnamed.mpr (h e he).1)
    refine ⟨(s.setLimitSet n (some (setOfArgs a))).rearmUsers n a.interval.toNat, setOfArgs a, ?_, rfl,
      fun m => s.limitSetOpt_setLimitSet n m _, rfl, rfl, rfl, hlength, fun k e x hk hx => ?_, fun c => ?_⟩
    · exact answers_acted rfl ht hact (by have := (Acts.putLimitSet a (s.takeSlot slot)).toCore; rwa [hact] at this)
        (((State.SameFloor.takeSlot s slot).setLimitSet n _).rearmUsers n _) (Nat.zero_le _)
    · have H := hentry k e x hk hx
      exact ⟨H.metric, H.level1, H.level2, H.condition, H.holdClass, H.band, H.enabled⟩
    · have hins := (s.setLimitSet n (some (setOfArgs a))).rearmUsers_insertion n a.interval.toNat c
      refine ⟨fun hnone => hins.trans (congrArg (Option.map _) hnone), fun i hi => ?_⟩
      have hafter := hins.trans (congrArg (Option.map _) hi)
      refine ⟨fun huse => hafter.trans (congrArg some (if_pos (State.usesSet_iff.mpr huse))), fun huse => ?_⟩
      refine hafter.trans (congrArg some (if_neg (mt State.usesSet_iff.mp ?_)))
      rintro ⟨x, hx, e⟩
      exact huse x hx e

end Sys2Proof.Machine
end

section
/-! SUPPORT. The metrics of a limit set (R89 to R91). -/

namespace Sys2Proof.Machine

variable {i : Insertion} {n : Nat}

/-! ## The counts of a pass set (R89) -/

/-- The sum over a mask, by the places of the list from `k` on. -/
theorem maskSum_eq_sum (mask k : Nat) (v : Vector Nat n) :
    maskSum mask k v.toList =
      ((List.finRange n).map fun b => if mask.testBit (k + b.val) then v[b] else 0).sum := by
  obtain ⟨⟨xs⟩, rfl⟩ := v
  show maskSum mask k xs = ((List.finRange xs.length).map fun b => if mask.testBit (k + b.val) then xs[b] else 0).sum
  induction xs generalizing k with
  | nil => rfl
  | cons x xs ih =>
    show maskSum mask k (x :: xs) = ((List.finRange (xs.length + 1)).map fun b : Fin (xs.length + 1) =>
      if mask.testBit (k + b.val) then (x :: xs)[b.val] else 0).sum
    rw [maskSum, ih (k + 1), List.finRange_succ, List.map_cons, List.sum_cons, List.map_map]
    simp [Function.comp_def, Nat.add_assoc, Nat.add_comm 1]

/-- The grade-bin total is the sum of the bins in the pass set (R5, R89). -/
theorem LotStep.gradeTotal_eq (pass : BitVec 16) (st : LotStep) :
    st.gradeTotal pass = ((List.finRange 16).map fun b => if pass.getLsbD b.val then st.bins[b] else 0).sum := by
  rw [LotStep.gradeTotal, maskSum_eq_sum]
  simp [BitVec.getLsbD]

/-! ## Greatest and least (R90, R91) -/

/-- A list that is not empty has a greatest member. -/
theorem foldl_max_spec {ys : List Nat} (h : ys ≠ []) : ys.foldl max 0 ∈ ys ∧ ∀ y ∈ ys, y ≤ ys.foldl max 0 := by
  obtain ⟨m, hm⟩ := Option.isSome_iff_exists.mp (List.isSome_max?_of_ne_nil h)
  rw [List.foldl_max, hm, Option.getD_some, Nat.zero_max]
  exact List.max?_eq_some_iff.mp hm

/-- A list that is not empty and lies within a bound has a least member. -/
theorem foldl_min_spec {ys : List Nat} {top : Nat} (h : ys ≠ []) (ht : ∀ y ∈ ys, y ≤ top) :
    ys.foldl min top ∈ ys ∧ ∀ y ∈ ys, ys.foldl min top ≤ y := by
  obtain ⟨m, hm⟩ := Option.isSome_iff_exists.mp (List.isSome_min?_of_ne_nil h)
  have hmin := List.min?_eq_some_iff.mp hm
  rw [List.foldl_min, hm, Option.getD_some, Nat.min_eq_right (ht m hmin.1)]
  exact hmin

theorem Insertion.mem_sites {k : Site} : k ∈ i.sites ↔ i.siteMask.getLsbD k.val = true := by
  simp [Insertion.sites]

/-! ## SITE_SPREAD_PPM (R90) -/

/-- The qualifying sites of an insertion, in order (R90). -/
def Insertion.qualifying (i : Insertion) (siteMin : Nat) : List Site := i.sites.filter fun k => siteMin ≤ i.siteTested[k]

/-- The yield of a site (R90). -/
def Insertion.yieldAt (i : Insertion) (k : Site) : Nat := i.sitePassed[k] * 1000000 / i.siteTested[k]

theorem Insertion.mem_qualifying {k : Site} :
    k ∈ i.qualifying n ↔ i.siteMask.getLsbD k.val = true ∧ n ≤ i.siteTested[k] := by
  rw [Insertion.qualifying, List.mem_filter, Insertion.mem_sites, decide_eq_true_iff]

theorem Insertion.qualifying_nodup : (i.qualifying n).Nodup := ((List.nodup_finRange 8).filter _).filter _

theorem Insertion.siteSpread_eq (i : Insertion) (n : Nat) :
    i.siteSpread n =
      if (i.qualifying n).length < 2 then none
      else some (((i.qualifying n).map i.yieldAt).foldl max 0 - ((i.qualifying n).map i.yieldAt).foldl min 1000000) := by
  have h : i.yields n = (i.qualifying n).map i.yieldAt := rfl
  rw [Insertion.siteSpread, h]
  simp only [List.length_map]

/-- A list without repetitions in which all members are equal has at most one. -/
theorem length_lt_two {α : Type} {as : List α} (hd : as.Nodup) : as.length < 2 ↔ ∀ a ∈ as, ∀ b ∈ as, a = b := by
  match as with
  | [] => simp
  | [a] => simp
  | a :: b :: rest =>
    refine iff_of_false (by simp) fun h => (List.nodup_cons.mp hd).1 ?_
    rw [h a (by simp) b (by simp)]
    exact List.mem_cons_self

/-- A site's yield lies in 0..1,000,000, its passed count being within its tested count (R90). -/
theorem Insertion.yieldAt_le {k : Site} (h : i.sitePassed[k] ≤ i.siteTested[k]) : i.yieldAt k ≤ 1000000 :=
  Nat.div_le_of_le_mul (Nat.mul_le_mul_right _ h)

/-- With two qualifying sites the metric is the greatest yield less the least (R90). -/
theorem Insertion.siteSpread_some (h : ¬ (i.qualifying n).length < 2) (hp : ∀ k : Site, i.sitePassed[k] ≤ i.siteTested[k]) :
    ∃ high ∈ i.qualifying n, ∃ low ∈ i.qualifying n,
      (∀ k ∈ i.qualifying n, i.yieldAt low ≤ i.yieldAt k ∧ i.yieldAt k ≤ i.yieldAt high) ∧
        i.siteSpread n = some (i.yieldAt high - i.yieldAt low) := by
  have hne : (i.qualifying n).map i.yieldAt ≠ [] := fun e => h (by simp [List.map_eq_nil_iff.mp e])
  have htop : ∀ y ∈ (i.qualifying n).map i.yieldAt, y ≤ 1000000 :=
    List.forall_mem_map.mpr fun k _ => Insertion.yieldAt_le (hp k)
  obtain ⟨hhigh, hge⟩ := foldl_max_spec hne
  obtain ⟨hlow, hle⟩ := foldl_min_spec hne htop
  obtain ⟨high, hh, ehigh⟩ := List.mem_map.mp hhigh
  obtain ⟨low, hl, elow⟩ := List.mem_map.mp hlow
  refine ⟨high, hh, low, hl, fun k hk => ?_, ?_⟩
  · rw [ehigh, elow]
    exact ⟨hle _ (List.mem_map_of_mem hk), hge _ (List.mem_map_of_mem hk)⟩
  · rw [Insertion.siteSpread_eq, if_neg h, ehigh, elow]

/-! ## FAIL_RUN (R91) -/

/-- FAIL_RUN is the greatest fail run among the sites of the mask, 0 without one (R91). -/
theorem Insertion.failRun_spec (i : Insertion) :
    (∀ k ∈ i.sites, i.siteFailRun[k] ≤ i.failRun) ∧
      ((∃ k ∈ i.sites, i.siteFailRun[k] = i.failRun) ∨ (i.failRun = 0 ∧ i.sites = [])) := by
  by_cases h : i.sites = []
  · rw [h]
    exact ⟨by simp, .inr ⟨by simp [Insertion.failRun, h], rfl⟩⟩
  · obtain ⟨hmem, hge⟩ := foldl_max_spec (ys := i.sites.map fun k => i.siteFailRun[k]) (by simpa using h)
    exact ⟨fun k hk => hge _ (List.mem_map_of_mem hk), .inl (List.mem_map.mp hmem)⟩

end Sys2Proof.Machine
end

section
/-! SUPPORT. What a hold request leaves beside the lot's holds and quarantine, and the records that it adds to the FIFO
(R98, R103 to R108, R162). -/

namespace Sys2Proof.Machine

variable {s t u : State} {l : LotSlot} {x : Lot} {c d : CellNo} {i j : Insertion} {r : HoldRequest}

/-! ## Records added to the FIFO (R162) -/

theorem ReportUnit.append_isPrefix (u : ReportUnit) (w : Word) (e : Report) : u.fifo <+: (u.append w e).fifo := by
  unfold ReportUnit.append
  split
  · rw [ReportUnit.setCause_fifo]
  · rw [ReportUnit.crossMarks_fifo]
    exact List.prefix_append _ _

/-- Records are added at the tail. -/
theorem ReportUnit.Grows.isPrefix {u v : ReportUnit} (h : u.Grows v) : u.fifo <+: v.fifo := by
  obtain ⟨es, rfl⟩ := h
  induction es generalizing u with
  | nil => exact List.prefix_rfl
  | cons e es ih => exact (u.append_isPrefix e.1 e.2).trans ih

/-- A record of one place that is written with room stands first behind those before it. -/
theorem State.report_isPrefix {e : Report} (he : e.places = 1) (h : s.ru.occupancy < 1024) (k : (s.report e).ru.Grows t.ru) :
    s.ru.fifo ++ [{ second := s.ft.clock, report := e }] <+: t.ru.fifo := by
  rw [← ReportUnit.append_fifo s.ft.clock (by omega)]
  exact k.isPrefix

/-! ## What a change of the pause reasons leaves of an insertion (R66, R108) -/

/-- An insertion record but for its pause reasons, its state and the flag sample void. -/
def Insertion.kept (i : Insertion) : Insertion :=
  { i with pause := { hold := none, lineStop := none, cellOrder := none }, sampleVoid := false, state := .kitWait }

theorem Insertion.eq_of_kept (h : j.kept = i.kept) :
    j = { i with pause := j.pause, sampleVoid := j.sampleVoid, state := j.state } := by
  cases i
  cases j
  simpa [Insertion.kept] using h

theorem State.modInsertion_kept (s : State) (c d : CellNo) {f : Insertion → Insertion} (hf : ∀ i, (f i).kept = i.kept) :
    ((s.modInsertion c f).insertion d).map Insertion.kept = (s.insertion d).map Insertion.kept := by
  rw [State.insertion_modInsertion]
  split
  · next e =>
    rw [e, Option.map_map]
    exact congrArg (Option.map · _) (funext hf)
  · rfl

theorem State.pauseRequest_kept (s : State) (c d : CellNo) (f : PauseSet → PauseSet) :
    ((s.pauseRequest c f).insertion d).map Insertion.kept = (s.insertion d).map Insertion.kept := by
  cases hi : s.insertion c with
  | none =>
    unfold State.pauseRequest
    rw [hi]
  | some i =>
    have still := s.modInsertion_kept c d (f := fun j => { j with pause := f i.pause, sampleVoid := true }) fun _ => rfl
    have paused := s.modInsertion_kept c d
      (f := fun j => { j with pause := f i.pause, sampleVoid := true, state := .pausing }) fun _ => rfl
    rw [pauseRequest_eq hi]
    split
    · rfl
    · dsimp only
      split
      · split
        · exact paused
        · exact still
      · exact still
      · split
        · exact paused
        · exact still
      · exact still

/-- The HOLD reason of a lot without a reservation kept in step with its holds and quarantine (R108, R109). -/
theorem State.settleHold_kept (hr : s.reservationOfLot l = none) (cause : CancelCause) (d : CellNo) :
    (((s.syncHold l).cancelOfLot l cause).insertion d).map Insertion.kept = (s.insertion d).map Insertion.kept := by
  rw [State.cancelOfLot_none ((((State.Beside.refl l s).syncHold l).reservationOfLot l).trans hr)]
  unfold State.syncHold
  split
  · exact s.pauseRequest_kept _ d _
  · rfl

/-! ## Hold requests of any origin (R103 to R107) -/

/-- A request for a lot that is neither SCRAPPED nor RELEASED quarantines it or makes a hold (R104 to R106). -/
theorem State.holdRequest_either (hx : s.lot l = some x) (h1 : x.state ≠ .scrapped) (h2 : x.state ≠ .released)
    (r : HoldRequest) :
    (∃ m, (s.holdRequest l r).1 = s.quarantine l m) ∨ (s.holdRequest l r).1 = (s.makeHold l x r).1 := by
  unfold State.holdRequest
  rw [hx]
  dsimp only
  rw [if_neg (by simp [h1, h2])]
  split
  · exact .inl ⟨_, rfl⟩
  · split
    · exact .inl ⟨_, rfl⟩
    · split
      · exact .inl ⟨_, rfl⟩
      · exact .inr rfl

/-- Beside what `Beside` says, every insertion stands but for its pause and what hangs on it, no hold goes, and a
quarantine of lot `l` stays. -/
structure State.Handed (l : LotSlot) (s t : State) : Prop extends s.Beside l t where
  kept : ∀ d, (t.insertion d).map Insertion.kept = (s.insertion d).map Insertion.kept
  holds : s.hm.holds <+: t.hm.holds
  flag : ∀ x y, s.lot l = some x → t.lot l = some y → x.quarantined = true → y.quarantined = true

theorem State.Handed.refl (l : LotSlot) (s : State) : s.Handed l s :=
  ⟨.refl l s, fun _ => rfl, List.prefix_rfl, fun x y hx hy h => by
    rw [hx] at hy
    exact Option.some.inj hy ▸ h⟩

theorem State.Handed.trans (h : s.Handed l t) (k : t.Handed l u) : s.Handed l u :=
  ⟨h.toBeside.trans k.toBeside, fun d => (k.kept d).trans (h.kept d), h.holds.trans k.holds, fun x z hx hz hq => by
    obtain ⟨hs, q, hy⟩ := h.lot x hx
    exact k.flag _ z hy hz (h.flag x _ hx hy hq)⟩

theorem State.Handed.quarantine (hr : s.reservationOfLot l = none) (hx : s.lot l = some x) (h1 : x.state ≠ .scrapped)
    (h2 : x.state ≠ .released) (m : QuarantineMatter) : s.Handed l (s.quarantine l m) := by
  obtain ⟨hm, y, hy, hbody⟩ := State.lot_quarantine hx h1 h2 m
  refine ⟨(State.Beside.refl l s).quarantine hr m, fun d => ?_, by rw [hm], fun _ z _ hz _ => ?_⟩
  · unfold State.quarantine
    rw [hx]
    dsimp only
    rw [if_neg (by simp [h1, h2])]
    exact State.settleHold_kept (s := (s.modLot l fun x => { x with quarantined := true }).report _) hr _ d
  · rw [hy] at hz
    exact Option.some.inj hz ▸ (congrArg Lot.quarantined hbody :)

theorem State.Handed.makeHold (hr : s.reservationOfLot l = none) (hx : s.lot l = some x) (r : HoldRequest) :
    s.Handed l (s.makeHold l x r).1 := by
  obtain ⟨hm, y, hy, hbody⟩ := State.lot_makeHold hx r
  refine ⟨(State.Beside.refl l s).makeHold hr x r, fun d => ?_, by rw [hm]; exact List.prefix_append _ _,
    fun w z hw hz hq => ?_⟩
  · let v : State := { s with hm := { holds := s.hm.holds ++ [s.newHold l x r], lastId := (s.newHold l x r).id } }
    exact State.settleHold_kept (s := (v.modLot l fun y => { y with holds := y.holds ++ [(s.newHold l x r).id] }).report
      (.holdRaised l (s.newHold l x r).id x.current r)) hr .hold d
  · rw [hx] at hw
    rw [hy] at hz
    obtain rfl := Option.some.inj hw
    obtain rfl := Option.some.inj hz
    exact (congrArg Lot.quarantined hbody :).trans hq

theorem State.Handed.holdRequest (hr : s.reservationOfLot l = none) (r : HoldRequest) :
    s.Handed l (s.holdRequest l r).1 := by
  cases hx : s.lot l with
  | none =>
    unfold State.holdRequest
    rw [hx]
    exact .refl l s
  | some x =>
    by_cases hdead : x.state = .scrapped ∨ x.state = .released
    · rw [State.holdRequest_discarded hx hdead]
      exact .refl l s
    · obtain ⟨h1, h2⟩ := not_or.mp hdead
      obtain ⟨m, e⟩ | e := State.holdRequest_either hx h1 h2 r
      · rw [e]
        exact .quarantine hr hx h1 h2 m
      · rw [e]
        exact .makeHold hr hx r

/-! ## What a request comes to -/

/-- A request has quarantined its lot, or its hold stands in the table (R104 to R106). -/
def State.Raised (s : State) (l : LotSlot) (r : HoldRequest) : Prop :=
  (∃ y, s.lot l = some y ∧ y.quarantined = true) ∨
    ∃ h ∈ s.hm.holds, h.lot = l ∧ h.origin = r.origin ∧ h.holdClass = r.holdClass ∧ h.cell = r.cell ∧ h.limit = r.limit

theorem State.raised_holdRequest (hx : s.lot l = some x) (h1 : x.state ≠ .scrapped) (h2 : x.state ≠ .released)
    (r : HoldRequest) : (s.holdRequest l r).1.Raised l r := by
  obtain ⟨m, e⟩ | e := State.holdRequest_either hx h1 h2 r
  · rw [e]
    obtain ⟨-, y, hy, hbody⟩ := State.lot_quarantine hx h1 h2 m
    exact .inl ⟨y, hy, (congrArg Lot.quarantined hbody :)⟩
  · rw [e]
    obtain ⟨hm, -⟩ := State.lot_makeHold hx r
    exact .inr ⟨s.newHold l x r, by simp [hm], rfl, rfl, rfl, rfl, rfl⟩

/-- What a request has come to stays through the requests that follow. -/
theorem State.Raised.handed (h : s.Raised l r) (k : s.Handed l t) : t.Raised l r := by
  rcases h with ⟨x, hx, hq⟩ | ⟨g, hg, hrest⟩
  · obtain ⟨hs, q, hy⟩ := k.lot x hx
    exact .inl ⟨_, hy, k.flag x _ hx hy hq⟩
  · exact .inr ⟨g, k.holds.subset hg, hrest⟩

/-! ## Escalation (R104) -/

/-- The OPEN LIMIT hold of the request's set and position escalates the request, where it is the only one (R104). -/
theorem State.escalates_of {h : Hold} (ho : r.origin = .limit) (hmem : h ∈ s.holdsOf x) (hlimit : h.origin = .limit)
    (hopen : h.state = .opened)
    (hsame : h.limit.map (fun d => (d.set, d.position)) = r.limit.map fun d => (d.set, d.position))
    (huniq : ∀ g ∈ s.holdsOf x, g.origin = .limit → g.state = .opened →
      g.limit.map (fun d => (d.set, d.position)) = r.limit.map (fun d => (d.set, d.position)) → g = h) :
    s.escalates x r = some h := by
  have e : s.escalates x r = (s.holdsOf x).find? fun h => h.origin = .limit && h.state = .opened &&
      h.limit.map (fun d => (d.set, d.position)) = r.limit.map fun d => (d.set, d.position) := if_pos ho
  obtain ⟨g, hg⟩ : ∃ g, s.escalates x r = some g := by
    rw [e]
    exact Option.isSome_iff_exists.mp (List.find?_isSome.mpr ⟨h, hmem, by simp [hlimit, hopen, hsame]⟩)
  rw [e] at hg ⊢
  have hp := List.find?_some hg
  simp only [Bool.and_eq_true, decide_eq_true_eq] at hp
  obtain ⟨⟨h1, h2⟩, h3⟩ := hp
  rw [hg, huniq g (List.mem_of_find?_eq_some hg) h1 h2 h3]

/-- A request that escalates quarantines the lot and makes no hold (R104). -/
theorem State.holdRequest_escalates {h : Hold} (hx : s.lot l = some x) (h1 : x.state ≠ .scrapped) (h2 : x.state ≠ .released)
    (he : s.escalates x r = some h) : s.holdRequest l r = (s.quarantine l (.escalation h.id r), 0) := by
  unfold State.holdRequest
  rw [hx]
  dsimp only
  rw [if_neg (by simp [h1, h2]), he]

/-- The QUARANTINE record of a quarantine (R107). -/
theorem State.quarantine_isPrefix (hx : s.lot l = some x) (h1 : x.state ≠ .scrapped) (h2 : x.state ≠ .released)
    (hroom : s.ru.occupancy < 1024) (m : QuarantineMatter) :
    s.ru.fifo ++ [{ second := s.ft.clock, report := .quarantine l x.current m }] <+: (s.quarantine l m).ru.fifo := by
  unfold State.quarantine
  rw [hx]
  dsimp only
  rw [if_neg (by simp [h1, h2])]
  exact State.report_isPrefix (s := s.modLot l fun x => { x with quarantined := true }) rfl hroom
    (((Moves.refl _).syncHold l).cancelOfLot l .quarantine).records

end Sys2Proof.Machine
end

section
/-! SUPPORT. Evaluations: the examination of each entry, the CHECKPOINT record, and the trips (R93 to R99). -/

namespace Sys2Proof.Machine

variable {s t : State} {l : LotSlot} {x : Lot} {c : CellNo} {i : Insertion} {st : LotStep} {set : LimitSet}
variable {kind : EvalKind} {pass : BitVec 16} {q : Fin 8} {e : LimitEntry} {v : Nat}

/-! ## The examination of one entry (R96, R97, R99) -/

/-- The condition of an entry holds, in signed arithmetic (R96). -/
theorem LimitEntry.holdsFor_iff :
    e.holdsFor v = true ↔
      (e.condition = .aboveL1 ∧ (e.level1 : Int) < v) ∨ (e.condition = .belowL2 ∧ (v : Int) < e.level2) ∨
        (e.condition = .inside ∧ (e.level2 : Int) < v ∧ (v : Int) < e.level1) ∨
        (e.condition = .outside ∧ ((e.level1 : Int) < v ∨ (v : Int) < e.level2)) := by
  unfold LimitEntry.holdsFor
  cases e.condition <;> simp

/-- A value clears the condition of an entry by its band, in signed arithmetic (R97). -/
theorem LimitEntry.clears_iff :
    e.clears v = true ↔
      (e.condition = .aboveL1 ∧ (v : Int) ≤ e.level1 - e.band) ∨
        (e.condition = .belowL2 ∧ (e.level2 : Int) + e.band ≤ v) ∨
        (e.condition = .inside ∧ ((e.level1 : Int) + e.band ≤ v ∨ (v : Int) ≤ e.level2 - e.band)) ∨
        (e.condition = .outside ∧ (e.level2 : Int) + e.band ≤ v ∧ (v : Int) ≤ e.level1 - e.band) := by
  unfold LimitEntry.clears
  cases e.condition <;> simp

theorem examineAt_absent (h : set.entries[q.val]? = none) :
    examineAt kind set i st pass q = (.notEvaluated, 0, i.armed[q]) := by
  unfold examineAt
  rw [h]

theorem examineAt_of (h : set.entries[q.val]? = some e) :
    examineAt kind set i st pass q =
      if e.examinedBy kind then e.examine i.armed[q] (metricValue set i st pass e.metric)
      else (.notEvaluated, 0, i.armed[q]) := by
  unfold examineAt
  rw [h]

theorem examineAt_unexamined (h : set.entries[q.val]? = some e) (hk : ¬ e.examinedBy kind = true) :
    examineAt kind set i st pass q = (.notEvaluated, 0, i.armed[q]) := (examineAt_of h).trans (if_neg hk)

theorem examineAt_valueless (h : set.entries[q.val]? = some e) (hk : e.examinedBy kind = true)
    (hv : metricValue set i st pass e.metric = none) : examineAt kind set i st pass q = (.notEvaluated, 0, i.armed[q]) := by
  rw [examineAt_of h, if_pos hk, hv]
  rfl

/-- An ARMED entry is tested for a trip (R96). -/
theorem examineAt_armed (h : set.entries[q.val]? = some e) (hk : e.examinedBy kind = true)
    (hv : metricValue set i st pass e.metric = some v) (ha : i.armed[q] = true) :
    examineAt kind set i st pass q = if e.holdsFor v then (.tripped, v, false) else (.noChange, v, true) := by
  rw [examineAt_of h, if_pos hk, hv, ha]
  rfl

/-- A DISARMED entry is tested for re-arming (R97). -/
theorem examineAt_disarmed (h : set.entries[q.val]? = some e) (hk : e.examinedBy kind = true)
    (hv : metricValue set i st pass e.metric = some v) (ha : i.armed[q] = false) :
    examineAt kind set i st pass q = if e.clears v then (.reArmed, v, true) else (.noChange, v, false) := by
  rw [examineAt_of h, if_pos hk, hv, ha]
  rfl

/-- The down-counter is no part of what an evaluation examines. -/
theorem examineAt_downCounter (n : Nat) :
    examineAt kind set { i with downCounter := n } st pass = examineAt kind set i st pass := by
  have h (m : Metric) : metricValue set { i with downCounter := n } st pass m = metricValue set i st pass m := by
    cases m <;> rfl
  funext q
  unfold examineAt
  simp only [h]

/-! ## The trips handed over (R98) -/

theorem State.Handed.handTrip (hr : s.reservationOfLot l = none) (n : LimitNo) (k : Nat)
    (results : Vector (EntryOutcome × Nat × Bool) 8) (p : Fin 8) :
    s.Handed l (s.handTrip l c n set k results p) := by
  unfold State.handTrip
  split
  · exact .refl l s
  · split
    · exact .holdRequest hr _
    · exact .refl l s

theorem State.Handed.handTrips (hr : s.reservationOfLot l = none) (n : LimitNo) (k : Nat)
    (results : Vector (EntryOutcome × Nat × Bool) 8) (ps : List (Fin 8)) :
    s.Handed l (ps.foldl (State.handTrip l c n set k results) s) := by
  induction ps generalizing s with
  | nil => exact .refl l s
  | cons p ps ih =>
    have first := State.Handed.handTrip (c := c) (set := set) hr n k results p
    exact first.trans (ih ((first.toNear.reservationOfLot l).trans hr))

/-- Each trip among those handed over has quarantined the lot or made its hold (R98). -/
theorem State.raised_handTrips {n : LimitNo} {k : Nat} {results : Vector (EntryOutcome × Nat × Bool) 8} {p : Fin 8}
    (he : set.entries[p.val]? = some e) (htrip : results[p].1 = .tripped) {ps : List (Fin 8)} (hp : p ∈ ps)
    (hr : s.reservationOfLot l = none) (hx : s.lot l = some x) (h1 : x.state ≠ .scrapped) (h2 : x.state ≠ .released) :
    (ps.foldl (State.handTrip l c n set k results) s).Raised l (tripRequest c n k p results[p].2.1 e) := by
  induction ps generalizing s x with
  | nil => cases hp
  | cons a ps ih =>
    have first := State.Handed.handTrip (c := c) (set := set) hr n k results a
    have hr' := (first.toNear.reservationOfLot l).trans hr
    rcases List.mem_cons.mp hp with rfl | hp
    · have e : s.handTrip l c n set k results p = (s.holdRequest l (tripRequest c n k p results[p].2.1 e)).1 := by
        unfold State.handTrip
        rw [he]
        exact if_pos htrip
      refine State.Raised.handed ?_ (State.Handed.handTrips hr' n k results ps)
      rw [e]
      exact State.raised_holdRequest hx h1 h2 _
    · obtain ⟨hs, b, hy⟩ := first.lot x hx
      exact ih hp hr' hy h1 h2

/-- Without a trip nothing is handed over. -/
theorem State.handTrips_none {n : LimitNo} {k : Nat} {results : Vector (EntryOutcome × Nat × Bool) 8}
    (h : ∀ p : Fin 8, results[p].1 ≠ .tripped) (ps : List (Fin 8)) :
    ps.foldl (State.handTrip l c n set k results) s = s := by
  induction ps with
  | nil => rfl
  | cons p ps ih =>
    have e : s.handTrip l c n set k results p = s := by
      unfold State.handTrip
      split
      · rfl
      · exact if_neg (h p)
    rw [List.foldl_cons, e, ih]

/-! ## One evaluation (R93, R94, R98, R99) -/

/-- The examination of the eight positions in an evaluation of the insertion `i` in its step `st`. -/
def State.results (s : State) (kind : EvalKind) (i : Insertion) (st : LotStep) : Vector (EntryOutcome × Nat × Bool) 8 :=
  Vector.ofFn (examineAt kind (s.limitSet st.limitSet) i st (s.recipe st.recipe).passSet)

theorem State.results_getElem (s : State) (kind : EvalKind) (i : Insertion) (st : LotStep) (q : Fin 8) :
    (s.results kind i st)[q] = examineAt kind (s.limitSet st.limitSet) i st (s.recipe st.recipe).passSet q := by
  simp [State.results]

/-- No entry has tripped or re-armed (R99). -/
def AllQuiet (results : Vector (EntryOutcome × Nat × Bool) 8) : Prop :=
  ∀ q : Fin 8, results[q].1 ≠ .tripped ∧ results[q].1 ≠ .reArmed

theorem any_eq_false_iff_allQuiet (results : Vector (EntryOutcome × Nat × Bool) 8) :
    (results.toList.any fun r => r.1 = .tripped || r.1 = .reArmed) = false ↔ AllQuiet results := by
  simp only [List.any_eq_false, Vector.mem_toList_iff, Vector.mem_iff_getElem, Bool.or_eq_true, decide_eq_true_eq, not_or]
  exact ⟨fun h q => h _ ⟨q.val, q.isLt, rfl⟩, fun h r ⟨k, hk, e⟩ => e ▸ h ⟨k, hk⟩⟩

/-- The arm states settled and the CHECKPOINT record written where R99 calls for one: the state before the first trip is
handed over (R98, R99). -/
def State.recorded (kind : EvalKind) (c : CellNo) (l : LotSlot) (results : Vector (EntryOutcome × Nat × Bool) 8)
    (s : State) : State :=
  let u := s.modInsertion c fun j => { j with armed := results.map fun r => r.2.2 }
  if kind = .unit && !(results.toList.any fun r => r.1 = .tripped || r.1 = .reArmed) then u
  else u.report (.checkpoint l kind c (results.toList.map fun r => (r.1, r.2.1)))

/-- Only the record tells the state before the trips from the state with the arm states settled. -/
theorem State.recorded_eq (kind : EvalKind) (c : CellNo) (l : LotSlot) (results : Vector (EntryOutcome × Nat × Bool) 8)
    (s : State) : ∃ ru, s.recorded kind c l results =
      { (s.modInsertion c fun j => { j with armed := results.map fun r => r.2.2 }) with ru := ru } := by
  unfold State.recorded
  dsimp only
  split
  · exact ⟨s.ru, rfl⟩
  · exact ⟨_, rfl⟩

theorem State.recorded_lot (hx : s.lot l = some x) (kind : EvalKind) (c : CellNo) (m : LotSlot)
    (results : Vector (EntryOutcome × Nat × Bool) 8) : (s.recorded kind c m results).lot l = some x := by
  obtain ⟨ru, e⟩ := s.recorded_eq kind c m results
  rw [e]
  exact hx

/-- An evaluation is the record and then the trips, in ascending entry position (R98). -/
theorem State.evaluate_eq (hi : s.insertion c = some i) (hx : s.lot i.lot = some x) (kind : EvalKind) :
    let st := x.step i.step
    s.evaluate kind c = (List.finRange 8).foldl
      (State.handTrip i.lot c st.limitSet (s.limitSet st.limitSet) st.tested (s.results kind i st))
      (s.recorded kind c i.lot (s.results kind i st)) := by
  unfold State.evaluate
  rw [hi]
  dsimp only
  rw [hx]
  rfl

section Evaluation

variable (hi : s.insertion c = some i) (hx : s.lot i.lot = some x)
include hi hx

theorem State.evaluate_handed (hr : s.reservationOfLot i.lot = none) (kind : EvalKind) :
    (s.recorded kind c i.lot (s.results kind i (x.step i.step))).Handed i.lot (s.evaluate kind c) := by
  rw [State.evaluate_eq hi hx]
  refine .handTrips ?_ _ _ _ _
  obtain ⟨ru, e⟩ := s.recorded_eq kind c i.lot (s.results kind i (x.step i.step))
  rw [e]
  exact hr

/-- The insertion after an evaluation: the arm states settled, and pauses that trips have asked for (R98). -/
theorem State.evaluate_insertion (hr : s.reservationOfLot i.lot = none) (kind : EvalKind) :
    ∃ j, (s.evaluate kind c).insertion c = some j ∧
      j = { i with
        armed := (s.results kind i (x.step i.step)).map fun r => r.2.2
        pause := j.pause, sampleVoid := j.sampleVoid, state := j.state } := by
  obtain ⟨ru, e⟩ := s.recorded_eq kind c i.lot (s.results kind i (x.step i.step))
  have hkept := (State.evaluate_handed hi hx hr kind).kept c
  rw [e] at hkept
  have hmod := State.insertion_modInsertion_same hi fun j =>
    { j with armed := (s.results kind i (x.step i.step)).map fun r => r.2.2 }
  obtain ⟨j, hj, hjk⟩ := Option.map_eq_some_iff.mp (hkept.trans (congrArg (Option.map Insertion.kept) hmod))
  exact ⟨j, hj, Insertion.eq_of_kept hjk⟩

/-- The lot after an evaluation: holds and a quarantine of its trips (R98). -/
theorem State.evaluate_lot (hr : s.reservationOfLot i.lot = none) (kind : EvalKind) :
    ∃ y, (s.evaluate kind c).lot i.lot = some y ∧ y = { x with quarantined := y.quarantined, holds := y.holds } := by
  obtain ⟨hs, b, hy⟩ := (State.evaluate_handed hi hx hr kind).lot x (State.recorded_lot hx kind c _ _)
  exact ⟨_, hy, rfl⟩

/-- Each trip of an evaluation of a lot that is neither SCRAPPED nor RELEASED quarantines it or makes a hold (R98). -/
theorem State.evaluate_raises (hr : s.reservationOfLot i.lot = none) (h1 : x.state ≠ .scrapped) (h2 : x.state ≠ .released)
    (he : (s.limitSet (x.step i.step).limitSet).entries[q.val]? = some e)
    (htrip : (s.results kind i (x.step i.step))[q].1 = .tripped) :
    (s.evaluate kind c).Raised i.lot (tripRequest c (x.step i.step).limitSet (x.step i.step).tested q
      (s.results kind i (x.step i.step))[q].2.1 e) := by
  rw [State.evaluate_eq hi hx]
  refine State.raised_handTrips he htrip (List.mem_finRange q) ?_ (State.recorded_lot hx kind c _ _) h1 h2
  obtain ⟨ru, e⟩ := s.recorded_eq kind c i.lot (s.results kind i (x.step i.step))
  rw [e]
  exact hr

/-- The CHECKPOINT record comes before those of the trips (R99). -/
theorem State.evaluate_isPrefix (hloud : kind ≠ .unit ∨ ¬ AllQuiet (s.results kind i (x.step i.step)))
    (hroom : s.ru.occupancy < 1024) :
    s.ru.fifo ++ [{ second := s.ft.clock,
                    report := .checkpoint i.lot kind c
                      ((s.results kind i (x.step i.step)).toList.map fun r => (r.1, r.2.1)) }] <+:
      (s.evaluate kind c).ru.fifo := by
  rw [State.evaluate_eq hi hx]
  have hrecorded : s.recorded kind c i.lot (s.results kind i (x.step i.step)) =
      (s.modInsertion c fun j => { j with armed := (s.results kind i (x.step i.step)).map fun r => r.2.2 }).report
        (.checkpoint i.lot kind c ((s.results kind i (x.step i.step)).toList.map fun r => (r.1, r.2.1))) := by
    refine if_neg fun h => ?_
    rw [Bool.and_eq_true, decide_eq_true_iff, Bool.not_eq_true', any_eq_false_iff_allQuiet] at h
    exact hloud.elim (fun k => k h.1) fun k => k h.2
  rw [hrecorded]
  exact State.report_isPrefix
    (s := s.modInsertion c fun j => { j with armed := (s.results kind i (x.step i.step)).map fun r => r.2.2 }) rfl hroom
    (Moves.foldl _ (fun u p => (Moves.refl u).handTrip _ _ _ _ _ _ p) _ (.refl _)).records

/-- A unit evaluation in which no entry trips or re-arms writes no record (R99). -/
theorem State.evaluate_quiet (h : AllQuiet (s.results .unit i (x.step i.step))) : (s.evaluate .unit c).ru = s.ru := by
  have hquiet := (any_eq_false_iff_allQuiet _).mpr h
  rw [State.evaluate_eq hi hx, State.handTrips_none fun q => (h q).1]
  unfold State.recorded
  rw [hquiet]
  rfl

end Evaluation

/-! ## An evaluation after the count of its unit (R93, R94) -/

/-- The examination of a position in an evaluation of the insertion `i` in its lot `x`. -/
def State.examined (s : State) (kind : EvalKind) (i : Insertion) (x : Lot) (q : Fin 8) : EntryOutcome × Nat × Bool :=
  examineAt kind (s.limitSet (x.step i.step).limitSet) i (x.step i.step) (s.recipe (x.step i.step).recipe).passSet q

/-- What an evaluation of the insertion `i` of cell `c`, its lot being `x`, leaves in `t` with the down-counter at `n`: the
insertion is `j`, the lot `y`, and the CHECKPOINT record, where one is written, carries `entries` (R93 to R99). -/
structure State.Evaluates (s : State) (kind : EvalKind) (c : CellNo) (i : Insertion) (x : Lot) (n : Nat) (t : State)
    (j : Insertion) (y : Lot) (entries : Vector (EntryOutcome × Nat) 8) : Prop where
  insertion : t.insertion c = some j
  lot : t.lot i.lot = some y
  kept : j = { i with downCounter := n, armed := j.armed, pause := j.pause, sampleVoid := j.sampleVoid, state := j.state }
  course : y = { x with quarantined := y.quarantined, holds := y.holds }
  record : kind ≠ .unit ∨ (∃ q : Fin 8, entries[q].1 = .tripped ∨ entries[q].1 = .reArmed) → s.ru.occupancy < 1024 →
    s.ru.fifo ++ [{ second := s.ft.clock, report := .checkpoint i.lot kind c entries.toList }] <+: t.ru.fifo
  quiet : kind = .unit → (∀ q : Fin 8, entries[q].1 ≠ .tripped ∧ entries[q].1 ≠ .reArmed) → t.ru = s.ru
  armed : ∀ q : Fin 8, j.armed[q] = (s.examined kind i x q).2.2
  outcome : ∀ q : Fin 8, entries[q] = ((s.examined kind i x q).1, (s.examined kind i x q).2.1)
  raised : ∀ (q : Fin 8) (e : LimitEntry), (s.limitSet (x.step i.step).limitSet).entries[q.val]? = some e →
    (s.examined kind i x q).1 = .tripped → x.state ≠ .scrapped → x.state ≠ .released →
      t.Raised i.lot (tripRequest c (x.step i.step).limitSet (x.step i.step).tested q (s.examined kind i x q).2.1 e)

theorem State.evaluate_evaluates (hi : s.insertion c = some i) (hx : s.lot i.lot = some x)
    (hr : s.reservationOfLot i.lot = none) (kind : EvalKind) (n : Nat) :
    ∃ j y entries,
      s.Evaluates kind c i x n ((s.modInsertion c fun j => { j with downCounter := n }).evaluate kind c) j y entries := by
  -- the state in which the unit is counted, with its insertion
  let u := s.modInsertion c fun j => { j with downCounter := n }
  let k : Insertion := { i with downCounter := n }
  have hk : u.insertion c = some k := State.insertion_modInsertion_same hi _
  have hx' : u.lot k.lot = some x := hx
  have hresults (q : Fin 8) : (u.results kind k (x.step k.step))[q] = s.examined kind i x q :=
    (u.results_getElem kind k (x.step k.step) q).trans (congrFun (examineAt_downCounter n) q)
  let entries : Vector (EntryOutcome × Nat) 8 := (u.results kind k (x.step k.step)).map fun r => (r.1, r.2.1)
  have houtcome (q : Fin 8) : entries[q] = ((s.examined kind i x q).1, (s.examined kind i x q).2.1) := by
    rw [← hresults q]
    exact Vector.getElem_map ..
  have hquiet : AllQuiet (u.results kind k (x.step k.step)) ↔
      ∀ q : Fin 8, entries[q].1 ≠ .tripped ∧ entries[q].1 ≠ .reArmed := by
    simp only [AllQuiet, hresults, houtcome]
  obtain ⟨j, hj, hjeq⟩ := State.evaluate_insertion hk hx' hr kind
  obtain ⟨y, hy, hyeq⟩ := State.evaluate_lot hk hx' hr kind
  refine ⟨j, y, entries, hj, hy, by rw [hjeq], hyeq, fun hloud hroom => ?_, ?_, fun q => ?_, houtcome,
    fun q e he htrip h1 h2 => ?_⟩
  · have hloud : kind ≠ .unit ∨ ¬ AllQuiet (u.results kind k (x.step k.step)) :=
      hloud.imp_right fun ⟨q, hq⟩ hall => hq.elim (hquiet.mp hall q).1 (hquiet.mp hall q).2
    have hrecord := State.evaluate_isPrefix hk hx' hloud hroom
    rwa [← Vector.toList_map] at hrecord
  · rintro rfl hstill
    exact State.evaluate_quiet hk hx' (hquiet.mpr hstill)
  · rw [← hresults q, hjeq]
    exact Vector.getElem_map ..
  · have hraised := State.evaluate_raises hk hx' hr h1 h2 he (by rw [hresults q, htrip])
    rw [hresults q] at hraised
    exact hraised

section Evaluates

variable {n : Nat} {j : Insertion} {y : Lot} {entries : Vector (EntryOutcome × Nat) 8}

/-- The arm state and the entry of the record at a position, by what its examination comes to. -/
theorem State.Evaluates.of_examined {r : EntryOutcome × Nat × Bool} (E : s.Evaluates kind c i x n t j y entries)
    (h : s.examined kind i x q = r) : j.armed[q] = r.2.2 ∧ entries[q] = (r.1, r.2.1) := by
  rw [← h]
  exact ⟨E.armed q, E.outcome q⟩

/-- A trip leaves the lot quarantined or a hold with its limit detail (R98). -/
theorem State.Evaluates.raised_of_tripped (E : s.Evaluates kind c i x n t j y entries)
    (he : (s.limitSet (x.step i.step).limitSet).entries[q.val]? = some e)
    (htrip : s.examined kind i x q = (.tripped, v, false)) (h1 : x.state ≠ .scrapped) (h2 : x.state ≠ .released) :
    y.quarantined = true ∨ ∃ h ∈ t.hm.holds, h.lot = i.lot ∧ h.origin = .limit ∧ h.holdClass = e.holdClass ∧
      h.cell = some c ∧ h.limit = some
        { set := (x.step i.step).limitSet, position := number q, metric := e.metric, value := v,
          units := (x.step i.step).tested } := by
  have hraised := E.raised q e he (by rw [htrip]) h1 h2
  rw [htrip] at hraised
  rcases hraised with ⟨z, hz, hq⟩ | hhold
  · obtain rfl := Option.some.inj (hz.symm.trans E.lot)
    exact .inl hq
  · exact .inr hhold

end Evaluates

end Sys2Proof.Machine
end

section
/-! OBLIGATION O44. Counted units are monitored (R89 to R91, R93 to R99, R104). -/

namespace Sys2Proof.Machine

variable {s : State} {x : Lot} {c : CellNo} {i : Insertion} {e : LimitEntry}

/-! ## The kinds of evaluation (5.4) -/

theorem LimitEntry.examinedBy_unit : e.examinedBy .unit = true ↔ e.enabled = true ∧ e.metric = .failRun := by
  simp [LimitEntry.examinedBy]

theorem LimitEntry.examinedBy_checkpoint : e.examinedBy .checkpoint = true ↔ e.enabled = true ∧ True := by
  simp [LimitEntry.examinedBy]

theorem LimitEntry.examinedBy_final : e.examinedBy .final = true ↔ e.enabled = true ∧ e.metric ≠ .failRun := by
  simp [LimitEntry.examinedBy]

/-- The down-counter after a counted unit (R93). -/
def Insertion.counted (i : Insertion) (interval : Nat) : Nat :=
  if i.downCounter ≤ 1 then interval else i.downCounter - 1

/-- A counted unit lowers or reloads the down-counter, and is evaluated unless the lot is SCRAPPED (R93, R95). -/
theorem State.monitorUnit_eq (hi : s.insertion c = some i) (hx : s.lot i.lot = some x) :
    let st := x.step i.step
    let set := s.limitSet st.limitSet
    let u := s.modInsertion c fun j => { j with downCounter := i.counted set.interval }
    s.monitorUnit c =
      if x.state = .scrapped then u
      else u.evaluate (if i.downCounter ≤ 1 ∧ set.minUnits ≤ st.tested then .checkpoint else .unit) c := by
  have hdue : i.downCounter - 1 = 0 ↔ i.downCounter ≤ 1 := Nat.sub_eq_zero_iff_le
  have hcount (n : Nat) : (s.modInsertion c fun j => { j with
      downCounter := if i.downCounter ≤ 1 then n else j.downCounter - 1 }) =
        s.modInsertion c fun j => { j with downCounter := i.counted n } := modInsertion_congr hi rfl
  unfold State.monitorUnit
  rw [hi]
  dsimp only
  rw [hx]
  simp only [hdue, hcount, Bool.and_eq_true, decide_eq_true_eq]

theorem State.monitorClose_eq (hi : s.insertion c = some i) (hx : s.lot i.lot = some x) :
    s.monitorClose c = if (x.step i.step).tested = 0 then s else s.evaluate .final c := by
  unfold State.monitorClose
  rw [hi]
  dsimp only
  rw [hx]

/-- Settles O44. -/
theorem countedUnitsAreMonitored : Obligations.CountedUnitsAreMonitored := by
  unfold Obligations.CountedUnitsAreMonitored
  refine ⟨?_, ?_, ?_⟩
  · intro set i st pass tested inMask qualifies yield
    have hmem (k : Site) : k ∈ i.qualifying set.siteMinUnits ↔ qualifies k := Insertion.mem_qualifying
    have hfew := length_lt_two (Insertion.qualifying_nodup (i := i) (n := set.siteMinUnits))
    obtain ⟨hle, hgreatest⟩ := i.failRun_spec
    refine ⟨fun _ => ⟨?_, fun b => rfl⟩, fun hone => ?_, fun htwo hp => ?_, i.failRun, rfl, fun k hk => ?_, ?_⟩
    · rw [← LotStep.gradeTotal_eq]
      rfl
    · exact (i.siteSpread_eq set.siteMinUnits).trans
        (if_pos (hfew.mpr fun k hk m hm => hone k m ((hmem k).mp hk) ((hmem m).mp hm)))
    · obtain ⟨k, m, hk, hm, hne⟩ := htwo
      obtain ⟨high, hhigh, low, hlow, hall, hspread⟩ := Insertion.siteSpread_some
        (mt hfew.mp fun hsame => hne (hsame k ((hmem k).mpr hk) m ((hmem m).mpr hm))) hp
      exact ⟨high, low, (hmem high).mp hhigh, (hmem low).mp hlow, fun k hk => hall k ((hmem k).mpr hk), hspread⟩
    · exact hle k (Insertion.mem_sites.mpr hk)
    · rcases hgreatest with ⟨k, hk, hv⟩ | ⟨hv, hnone⟩
      · exact .inl ⟨k, Insertion.mem_sites.mp hk, hv⟩
      · exact .inr ⟨hv, fun k hk => by simpa [hnone] using Insertion.mem_sites.mpr hk⟩
  · intro s c i x hi hx st set counter checkpoint evaluates
    have hunit := State.monitorUnit_eq hi hx
    have hclose := State.monitorClose_eq hi hx
    -- an evaluation with the down-counter at `counter`
    have evaluated {kind : EvalKind} {examined : LimitEntry → Prop} {counter : Nat}
        (hkind : ∀ e : LimitEntry, e.examinedBy kind = true ↔ e.enabled = true ∧ examined e)
        (h1 : x.state ≠ .scrapped) (hr : s.reservationOfLot i.lot = none) : evaluates kind examined counter
          ((s.modInsertion c fun j => { j with downCounter := counter }).evaluate kind c) := by
      obtain ⟨j, y, entries, E⟩ := State.evaluate_evaluates hi hx hr kind counter
      refine ⟨j, y, E.insertion, E.lot, E.kept, E.course, entries, E.record, E.quiet, fun q => ?_⟩
      refine ⟨fun hnone => E.of_examined (examineAt_absent hnone), fun e he => ⟨fun hun => ?_, fun hen hex => ?_⟩⟩
      · refine E.of_examined (examineAt_unexamined he fun hk => ?_)
        obtain ⟨h, h'⟩ := (hkind e).mp hk
        exact hun.elim (by simp [h]) fun k => k h'
      · have hk := (hkind e).mpr ⟨hen, hex⟩
        refine ⟨fun hv => E.of_examined (examineAt_valueless he hk hv), ?_⟩
        intro v hv w l1 l2 band trips clears
        have htrips : e.holdsFor v = true ↔ trips := LimitEntry.holdsFor_iff
        have hclears : e.clears v = true ↔ clears := LimitEntry.clears_iff
        refine ⟨fun ha ht => ?_, fun ha ht => ?_, fun ha ht => ?_, fun ha ht => ?_⟩
        · exact E.of_examined ((examineAt_armed he hk hv ha).trans (if_neg (mt htrips.mp ht)))
        · have htripped : s.examined kind i x q = (.tripped, v, false) :=
            (examineAt_armed he hk hv ha).trans (if_pos (htrips.mpr ht))
          obtain ⟨hoff, hentry⟩ := E.of_examined htripped
          exact ⟨hoff, hentry, E.raised_of_tripped he htripped h1⟩
        · exact E.of_examined ((examineAt_disarmed he hk hv ha).trans (if_neg (mt hclears.mp ht)))
        · exact E.of_examined ((examineAt_disarmed he hk hv ha).trans (if_pos (hclears.mpr ht)))
    refine ⟨fun hs => hunit.trans (if_pos hs), fun h0 => hclose.trans (if_pos h0),
      fun h1 hr => ⟨fun hc => ?_, fun hc => ?_, fun hT => ?_⟩⟩
    · rw [hunit, if_neg h1, if_pos hc]
      exact evaluated (fun _ => LimitEntry.examinedBy_checkpoint) h1 hr
    · rw [hunit, if_neg h1, if_neg hc]
      exact evaluated (fun _ => LimitEntry.examinedBy_unit) h1 hr
    · have hsame : s.modInsertion c (fun j => { j with downCounter := i.downCounter }) = s :=
        State.modInsertion_self hi rfl
      rw [hclose, if_neg (Nat.one_le_iff_ne_zero.mp hT)]
      nth_rewrite 1 [← hsame]
      exact evaluated (fun _ => LimitEntry.examinedBy_final) h1 hr
  · intro s l x r d h hx h1 h2 ho hlimit matching hmatch huniq
    obtain ⟨hmem, hlim, hopen, e, he, hset, hpos⟩ := hmatch
    have hesc : s.escalates x r = some h := State.escalates_of ho hmem hlim hopen (by simp [he, hlimit, hset, hpos])
      fun g hg hgo hgs hsame => huniq g ⟨hg, hgo, hgs, by
        rw [hlimit] at hsame
        obtain ⟨b, hb, heq⟩ := Option.map_eq_some_iff.mp hsame
        exact ⟨b, hb, congrArg Prod.fst heq, congrArg Prod.snd heq⟩⟩
    obtain ⟨hm, y, hy, hbody⟩ := State.lot_quarantine hx h1 h2 (.escalation h.id r)
    rw [State.holdRequest_escalates hx h1 h2 hesc]
    exact ⟨rfl, hm,
      ⟨y, hy, (congrArg Lot.quarantined hbody :), (congrArg Lot.holds hbody :), (congrArg Lot.steps hbody :)⟩,
      fun hroom => State.quarantine_isPrefix hx h1 h2 hroom _⟩

end Sys2Proof.Machine
end

section
/-! SUPPORT. A hold made (R101, R106): the id allotted, the record written, the HOLD reason it gives an insertion (R66,
R108), and the reservation it cancels (R109, R130). -/

namespace Sys2Proof.Machine

variable {s t : State} {l : LotSlot} {x : Lot} {c : CellNo} {i : Insertion} {r : HoldRequest} {holds : List Hold}

/-! ## The id allotted (R101) -/

theorem nextHoldId_range (n : Nat) : 1 ≤ nextHoldId n ∧ nextHoldId n ≤ 65535 := by
  unfold nextHoldId
  split <;> omega

/-- The ids follow each other around 1..65535. -/
theorem iterate_nextHoldId (k last : Nat) : nextHoldId^[k + 1] last = (nextHoldId last - 1 + k) % 65535 + 1 := by
  induction k with
  | zero =>
    have := nextHoldId_range last
    show nextHoldId last = _
    omega
  | succ k ih =>
    rw [Function.iterate_succ_apply', ih]
    generalize nextHoldId last - 1 = a
    unfold nextHoldId
    split <;> omega

/-- The values that the search of `allotHoldId` can meet, in their order. -/
def searchedIds (last : Nat) : List Nat := (List.range 257).map fun k => nextHoldId^[k + 1] last

theorem searchedIds_length (last : Nat) : (searchedIds last).length = 257 := by
  rw [searchedIds, List.length_map, List.length_range]

theorem searchedIds_nodup (last : Nat) : (searchedIds last).Nodup := by
  refine List.nodup_range.map_on fun j hj k hk h => ?_
  rw [List.mem_range] at hj hk
  rw [iterate_nextHoldId, iterate_nextHoldId] at h
  omega

theorem allotHoldId_range (holds : List Hold) (fuel last : Nat) :
    1 ≤ allotHoldId holds fuel last ∧ allotHoldId holds fuel last ≤ 65535 := by
  induction fuel generalizing last with
  | zero => exact nextHoldId_range last
  | succ fuel ih =>
    unfold allotHoldId
    split
    · exact ih _
    · exact nextHoldId_range last

/-- The next id is allotted where it is free. -/
theorem allotHoldId_next {last : Nat} (h : ∀ g ∈ holds, g.id ≠ nextHoldId last) (fuel : Nat) :
    allotHoldId holds fuel last = nextHoldId last := by
  cases fuel with
  | zero => rfl
  | succ fuel => exact if_neg (by simpa using h)

/-- An allotted id that is taken ends a search whose values were all taken. -/
theorem allotHoldId_taken {fuel last : Nat} (h : allotHoldId holds fuel last ∈ holds.map Hold.id) {k : Nat}
    (hk : k ≤ fuel) : nextHoldId^[k + 1] last ∈ holds.map Hold.id := by
  induction fuel generalizing last k with
  | zero =>
    obtain rfl := Nat.le_zero.mp hk
    exact h
  | succ fuel ih =>
    by_cases hnext : nextHoldId last ∈ holds.map Hold.id
    · have hlater : allotHoldId holds (fuel + 1) last = allotHoldId holds fuel (nextHoldId last) :=
        if_pos (by simpa using hnext)
      cases k with
      | zero => exact hnext
      | succ k =>
        rw [hlater] at h
        exact ih h (Nat.le_of_succ_le_succ hk)
    · rw [allotHoldId_next fun g hg e => hnext (e ▸ List.mem_map_of_mem hg)] at h
      exact absurd h hnext

/-- With room in the table a search meets a free id: its 257 values are more than the records. -/
theorem allotHoldId_free (h : holds.length < 256) (last : Nat) : ∀ g ∈ holds, g.id ≠ allotHoldId holds 256 last := by
  intro g hg e
  have taken := e ▸ List.mem_map_of_mem (f := Hold.id) hg
  have hsub : searchedIds last ⊆ holds.map Hold.id := fun n hn => by
    obtain ⟨k, hk, rfl⟩ := List.mem_map.mp hn
    exact allotHoldId_taken taken (Nat.le_of_lt_succ (List.mem_range.mp hk))
  have hlength := ((searchedIds_nodup last).subperm hsub).length_le
  rw [searchedIds_length, List.length_map] at hlength
  omega

/-- The id of a hold made with room in the table. -/
theorem State.newHold_id (s : State) (h : s.hm.holds.length < 256) (l : LotSlot) (x : Lot) (r : HoldRequest) :
    1 ≤ (s.newHold l x r).id ∧ (s.newHold l x r).id ≤ 65535 ∧ (∀ g ∈ s.hm.holds, g.id ≠ (s.newHold l x r).id) ∧
      ((∀ g ∈ s.hm.holds, g.id ≠ nextHoldId s.hm.lastId) → (s.newHold l x r).id = nextHoldId s.hm.lastId) :=
  ⟨(allotHoldId_range _ _ _).1, (allotHoldId_range _ _ _).2, allotHoldId_free h _, fun hn => allotHoldId_next hn _⟩

/-! ## The record of a hold, and of a quarantine (R106, R107) -/

/-- The record made for a request, its id in the lot's list, and HOLD_RAISED (R106). -/
def State.recordHold (s : State) (l : LotSlot) (x : Lot) (r : HoldRequest) : State :=
  (({ s with hm := { holds := s.hm.holds ++ [s.newHold l x r], lastId := (s.newHold l x r).id } } : State).setLot l
    (some { x with holds := x.holds ++ [(s.newHold l x r).id] })).report (.holdRaised l (s.newHold l x r).id x.current r)

/-- The flag set, and the QUARANTINE record (R107). -/
def State.recordQuarantine (s : State) (l : LotSlot) (x : Lot) (m : QuarantineMatter) : State :=
  (s.setLot l (some { x with quarantined := true })).report (.quarantine l x.current m)

theorem State.makeHold_eq (hx : s.lot l = some x) (r : HoldRequest) :
    s.makeHold l x r = (((s.recordHold l x r).syncHold l).cancelOfLot l .hold, (s.newHold l x r).id) := by
  let u : State := { s with hm := { holds := s.hm.holds ++ [s.newHold l x r], lastId := (s.newHold l x r).id } }
  have hmod : u.modLot l (fun y => { y with holds := y.holds ++ [(s.newHold l x r).id] }) =
      u.setLot l (some { x with holds := x.holds ++ [(s.newHold l x r).id] }) := State.modLot_of (s := u) hx _
  unfold State.recordHold
  rw [← hmod]
  rfl

theorem State.quarantine_eq (hx : s.lot l = some x) (h1 : x.state ≠ .scrapped) (h2 : x.state ≠ .released)
    (m : QuarantineMatter) :
    s.quarantine l m = ((s.recordQuarantine l x m).syncHold l).cancelOfLot l .quarantine := by
  unfold State.quarantine State.recordQuarantine
  rw [hx, ← State.modLot_of hx fun y => { y with quarantined := true }]
  exact if_neg (by simp [h1, h2])

theorem State.recordHold_lot (s : State) (l : LotSlot) (x : Lot) (r : HoldRequest) :
    (s.recordHold l x r).lot l = some { x with holds := x.holds ++ [(s.newHold l x r).id] } := by
  simp [State.recordHold, State.lot, State.setLot, State.report]

theorem State.SameFloor.newHold (h : s.SameFloor t) (l : LotSlot) (x : Lot) (r : HoldRequest) :
    t.newHold l x r = s.newHold l x r := by simp [State.newHold, h.hm, h.ft]

theorem State.SameFloor.recordHold (h : s.SameFloor t) (l : LotSlot) (x : Lot) (r : HoldRequest) :
    (s.recordHold l x r).SameFloor (t.recordHold l x r) := by
  rw [h.eq]
  exact ⟨rfl, rfl, rfl, rfl, rfl, rfl, rfl, rfl, rfl, rfl⟩

theorem State.SameFloor.recordQuarantine (h : s.SameFloor t) (l : LotSlot) (x : Lot) (m : QuarantineMatter) :
    (s.recordQuarantine l x m).SameFloor (t.recordQuarantine l x m) := (h.setLot l _).report _

/-! ## Lots apart (R108, R109) -/

theorem State.insertionOf_eq_none (h : ∀ c i, s.insertion c = some i → i.lot ≠ l) : s.insertionOf l = none := by
  rw [← Option.not_isSome_iff_eq_none, State.insertionOf_isSome_iff]
  rintro ⟨c, i, hi, e⟩
  exact h c i hi e

theorem State.Apart.insertionOf (h : s.Apart l) : s.insertionOf l = none := State.insertionOf_eq_none h.1

theorem State.Apart.reservationOfLot (h : s.Apart l) : s.reservationOfLot l = none :=
  List.find?_eq_none.mpr fun r hr => by simpa using h.2 r hr

/-- For a lot apart there is no HOLD reason to give and no reservation to cancel. -/
theorem State.settleHold_apart (h : s.Apart l) (cause : CancelCause) : (s.syncHold l).cancelOfLot l cause = s := by
  rw [State.syncHold_apart h.insertionOf, State.cancelOfLot_none h.reservationOfLot]

/-! ## The HOLD reason of a new hold (R66, R108) -/

/-- The HOLD reason that a hold of a class calls for (R108). -/
def HoldClass.halt : HoldClass → Option HaltKind
  | .soft => none
  | .stopEnd => some .haltAtIndex
  | .stopNow => some .haltNow

/-- A lot whose one hold is the new one calls for the reason of its class. -/
theorem State.recordHold_reason (hroom : s.hm.holds.length < 256) (hq : x.quarantined = false) :
    (s.recordHold l x r).holdReason { x with holds := [(s.newHold l x r).id] } = r.holdClass.halt := by
  have hfree : s.hm.holds.find? (fun g => g.id = (s.newHold l x r).id) = none :=
    List.find?_eq_none.mpr fun g hg => by simpa using (s.newHold_id hroom l x r).2.2.1 g hg
  have hfound : (s.recordHold l x r).hold? (s.newHold l x r).id = some (s.newHold l x r) := by
    show (s.hm.holds ++ [s.newHold l x r]).find? _ = _
    rw [List.find?_append, hfree]
    simp
  have hclass : (s.newHold l x r).holdClass = r.holdClass := rfl
  unfold State.holdReason State.holdsOf
  simp only [List.filterMap_cons, List.filterMap_nil, hfound, hq, List.any_cons, List.any_nil, hclass]
  cases r.holdClass <;> rfl

/-- The HOLD reason given to a RUNNING insertion that has no reason yet (R67). -/
theorem Insertion.requested_hold (hrun : i.state = .running) (hp : i.pause.Empty) (z : Cell) (h : HaltKind) :
    i.requested z { i.pause with hold := some h } =
      ({ i with pause := { i.pause with hold := some h }, sampleVoid := true, state := .pausing }, z.asking h.command) := by
  obtain ⟨h1, h2, h3⟩ := hp
  have hhalt : ({ i.pause with hold := some h } : PauseSet).halt = some h := by
    cases h <;> simp [PauseSet.halt, h2, h3]
  have hchanged : ({ i.pause with hold := some h } : PauseSet) ≠ i.pause := fun e => by
    have := congrArg PauseSet.hold e
    rw [h1] at this
    cases this
  rw [Insertion.requested_changed hchanged]
  simp [Insertion.askedState, Insertion.askedCell, hrun, hhalt, PauseSet.command]

/-- What a first hold of a lot in test leaves: its record, the lot, and the pause of the insertion (R66, R67, R106, R108). -/
theorem State.settleHold_tested (hroom : s.hm.holds.length < 256) (hc : s.insertionOf l = some c)
    (hi : s.insertion c = some i) (hx : x.holds = []) (hq : x.quarantined = false) (hr : s.reservationOfLot l = none)
    (cause : CancelCause) :
    let u := ((s.recordHold l x r).syncHold l).cancelOfLot l cause
    let after := i.requested (s.cell c) { i.pause with hold := r.holdClass.halt }
    u.hm = (s.recordHold l x r).hm ∧ u.lot l = some { x with holds := [(s.newHold l x r).id] } ∧
      u.insertion c = some after.1 ∧ u.cell c = after.2 := by
  have hlot := s.recordHold_lot l x r
  rw [hx, List.nil_append] at hlot
  have hins : (s.recordHold l x r).insertionOf l = some c := hc
  have hsync : (s.recordHold l x r).syncHold l =
      (s.recordHold l x r).pauseRequest c fun p => { p with hold := r.holdClass.halt } := by
    rw [← State.recordHold_reason hroom hq]
    unfold State.syncHold
    rw [hlot, hins]
  have hstand := (State.FloorMoves.refl (s.recordHold l x r)).syncHold l
  rw [State.cancelOfLot_none ((((State.Beside.refl l (s.recordHold l x r)).syncHold l).reservationOfLot l).trans hr)]
  refine ⟨hstand.hm, (hstand.lot l).trans hlot, ?_⟩
  rw [hsync]
  exact State.pauseRequest_requested (s := s.recordHold l x r) hi _

/-! ## The reservation of a held lot (R109, R130) -/

/-- A cell without a reservation leaves the lots and the reservations as they are in the state that it enters. -/
theorem State.enterCellState_unreserved (hr : s.reservationOf c = none) (new : CellState) :
    (s.enterCellState c new).lm = s.lm ∧ (s.enterCellState c new).de.reservations = s.de.reservations := by
  have suspended : (s.suspend c).lm = s.lm ∧ (s.suspend c).de.reservations = s.de.reservations :=
    ⟨((State.FloorMoves.refl s).suspend c).lm, by rw [State.suspend_de]⟩
  have nothing (cause : CancelCause) : (s.suspend c).cancelFor c cause = s.suspend c :=
    State.cancelFor_none (by rw [State.reservationOf, suspended.2]; exact hr) cause
  cases new with
  | parked =>
    let u := s.modCell c fun x => { x with silence := 0 }
    exact ⟨((State.FloorMoves.refl u).suspend c).lm, congrArg DispatchEngine.reservations (State.suspend_de u c)⟩
  | silent => rwa [← nothing .silent] at suspended
  | mismatch => rwa [← nothing .mismatch] at suspended
  | _ => exact ⟨rfl, rfl⟩

theorem State.deriveCell_unreserved (hr : s.reservationOf c = none) (cause : CellCause) :
    (s.deriveCell c cause).lm = s.lm ∧ (s.deriveCell c cause).de.reservations = s.de.reservations := by
  by_cases h : s.derivedState c = (s.cell c).state
  · rw [State.deriveCell_same h]
    exact ⟨rfl, rfl⟩
  · let u := (s.modCell c fun x => { x with state := s.derivedState c }).report
      (.cellState c (s.cell c).state (s.derivedState c) cause)
    have hu : s.deriveCell c cause = u.enterCellState c (s.derivedState c) := if_neg h
    rw [hu]
    exact State.enterCellState_unreserved (s := u) hr _

/-- What the cancellation of a RESERVED lot's entry leaves (R109, R130). -/
theorem State.cancelOfLot_reserved {e : Reservation} (he : s.reservationOfLot l = some e) (hx : s.lot l = some x)
    (hs : x.state = .reserved) (cause : CancelCause) :
    let u := s.cancelOfLot l cause
    u.hm = s.hm ∧ u.lot l = some { x with state := .queued, ready := s.minute } ∧
      u.de.reservations = s.de.reservations.filter (fun g => g.cell ≠ e.cell) ∧ l ∈ u.lm.queue := by
  obtain rfl : e.lot = l := by simpa using List.find?_some he
  have hcancel : s.cancelOfLot e.lot cause = (s.cancelEntry cause e).deriveCell e.cell .reservation := by
    unfold State.cancelOfLot
    rw [he]
  have hentries : (s.cancelEntry cause e).de.reservations = s.de.reservations.filter fun g => g.cell ≠ e.cell :=
    (s.cancelEntry_stand cause e).reservations
  have hnone : (s.cancelEntry cause e).reservationOf e.cell = none := by
    rw [State.reservationOf, hentries]
    exact s.reservationOf_deleteReservation e.cell
  obtain ⟨hlm, hreservations⟩ := State.deriveCell_unreserved hnone .reservation
  refine ⟨((State.LotsStand.refl s).cancelOfLot e.lot cause).hm, ?_⟩
  rw [hcancel, State.lot, hlm, hreservations, hentries, State.cancelEntry_of hx (by simp [hs])]
  refine ⟨?_, rfl, (mem_queueInsert _ _ _ _).mpr (.inl rfl)⟩
  simp [State.setLot, State.report, State.triggerPass, State.joinQueue]

/-- What a hold of a RESERVED lot without an insertion leaves: its record, the lot back in the queue, and the entry deleted. -/
theorem State.settleHold_reserved {e : Reservation} (hi : s.insertionOf l = none) (he : s.reservationOfLot l = some e)
    (hs : x.state = .reserved) (cause : CancelCause) :
    let u := ((s.recordHold l x r).syncHold l).cancelOfLot l cause
    u.hm = (s.recordHold l x r).hm ∧
      u.lot l = some { x with holds := x.holds ++ [(s.newHold l x r).id], state := .queued, ready := s.minute } ∧
      u.de.reservations = s.de.reservations.filter (fun g => g.cell ≠ e.cell) ∧ l ∈ u.lm.queue := by
  have hins : (s.recordHold l x r).insertionOf l = none := hi
  rw [State.syncHold_apart hins]
  exact State.cancelOfLot_reserved (s := s.recordHold l x r) he (s.recordHold_lot l x r) hs cause

end Sys2Proof.Machine
end

section
/-! OBLIGATIONS O45, O46. The orders PLACE_HOLD and ACK_HOLD (R103, R106, R110, R111). -/

namespace Sys2Proof.Machine

variable {s t : State} {slot : BoardSlot} {l : LotSlot} {x : Lot} {lot reason : Half} {code : Byte} {k : HoldClass}

/-! ## PLACE_HOLD (R110) -/

theorem HoldClass.ofCode_code (k : HoldClass) : HoldClass.ofCode? k.code = some k := by cases k <;> rfl

theorem HoldClass.ofCode_above {n : Nat} (h : 2 < n) : HoldClass.ofCode? n = none := by
  rw [← Option.not_isSome_iff_eq_none, HoldClass.ofCode_isSome_iff]
  omega

/-- The request of a PLACE_HOLD (R110). -/
def manualRequest (k : HoldClass) (reason : Half) (cell : Option CellNo) : HoldRequest :=
  { origin := .manual, limit := none, reason := some reason.toNat, holdClass := k, cell := cell }

/-- The cell that a request of the host names (R103). -/
def State.cellOfLot (s : State) (l : LotSlot) : Option CellNo :=
  (s.insertionOf l).orElse fun _ => (s.reservationOfLot l).map Reservation.cell

theorem actPlaceHold_badClass (h : 2 < code.toNat) : actPlaceHold lot code reason s = refuse .badArg s := by
  unfold actPlaceHold
  rw [HoldClass.ofCode_above h]

theorem actPlaceHold_missing (h : code.toNat ≤ 2)
    (hl : 512 ≤ lot.toNat ∨ ∃ l : LotSlot, lot.toNat = l.val ∧ s.lot l = none) :
    actPlaceHold lot code reason s = refuse .notFound s := by
  obtain ⟨k, hk⟩ := Option.isSome_iff_exists.mp (HoldClass.ofCode_isSome_iff.mpr h)
  unfold actPlaceHold
  rw [hk]
  dsimp only
  rcases hl with hl | ⟨l, e, hl⟩
  · rw [ofIndex_outside hl]
  · rw [ofIndex_val l e]
    dsimp only
    rw [hl]

theorem actPlaceHold_closed (hk : code.toNat = k.code) (e : lot.toNat = l.val) (hx : s.lot l = some x)
    (h : x.state = .released ∨ x.state = .scrapped) : actPlaceHold lot code reason s = refuse .wrongState s := by
  unfold actPlaceHold
  rw [hk, HoldClass.ofCode_code, ofIndex_val l e]
  dsimp only
  rw [hx]
  exact if_pos h

/-- PLACE_HOLD on a lot that takes holds is the hold request (R110). -/
theorem actPlaceHold_of (hk : code.toNat = k.code) (e : lot.toNat = l.val) (hx : s.lot l = some x)
    (h1 : x.state ≠ .released) (h2 : x.state ≠ .scrapped) :
    actPlaceHold lot code reason s =
      ((s.holdRequest l (manualRequest k reason (s.cellOfLot l))).1,
        Answer.withDetail .done (s.holdRequest l (manualRequest k reason (s.cellOfLot l))).2) := by
  unfold actPlaceHold
  rw [hk, HoldClass.ofCode_code, ofIndex_val l e]
  dsimp only
  rw [hx]
  exact if_neg (by simp [h1, h2])

/-- PLACE_HOLD with room in the lot's list and the table (R106). -/
theorem actPlaceHold_room (hk : code.toNat = k.code) (e : lot.toNat = l.val) (hx : s.lot l = some x)
    (h1 : x.state ≠ .released) (h2 : x.state ≠ .scrapped) (hlist : x.holds.length < 4)
    (htable : s.hm.holds.length < 256) :
    let r := manualRequest k reason (s.cellOfLot l)
    actPlaceHold lot code reason s =
      (((s.recordHold l x r).syncHold l).cancelOfLot l .hold, Answer.withDetail .done (s.newHold l x r).id) := by
  intro r
  have hmade : s.holdRequest l r = s.makeHold l x r := by
    rw [State.holdRequest_of hx h2 h1 (by simp [r, manualRequest]), if_neg (by omega), if_neg (by omega)]
  rw [actPlaceHold_of hk e hx h1 h2, hmade, State.makeHold_eq hx]

/-- PLACE_HOLD without room (R105). -/
theorem actPlaceHold_full (hk : code.toNat = k.code) (e : lot.toNat = l.val) (hx : s.lot l = some x)
    (h1 : x.state ≠ .released) (h2 : x.state ≠ .scrapped) (hfull : 4 ≤ x.holds.length ∨ 256 ≤ s.hm.holds.length) :
    let r := manualRequest k reason (s.cellOfLot l)
    let m : QuarantineMatter := if 4 ≤ x.holds.length then .lotListFull r else .tableFull r
    actPlaceHold lot code reason s =
      (((s.recordQuarantine l x m).syncHold l).cancelOfLot l .quarantine, Answer.withDetail .done 0) := by
  intro r m
  have hfull' : s.holdRequest l r = (s.quarantine l m, 0) := by
    rw [State.holdRequest_of hx h2 h1 (by simp [r, manualRequest])]
    by_cases hlist : 4 ≤ x.holds.length
    · simp [m, hlist]
    · simp [m, hlist, hfull.resolve_left hlist]
  rw [actPlaceHold_of hk e hx h1 h2, hfull', State.quarantine_eq hx h2 h1]

/-- The two cases for a lot that no insertion and no reservation names: nothing is paused and nothing cancelled. -/
theorem actPlaceHold_apart (hk : code.toNat = k.code) (e : lot.toNat = l.val) (hx : s.lot l = some x)
    (h1 : x.state ≠ .released) (h2 : x.state ≠ .scrapped) (hapart : s.Apart l) :
    let r := manualRequest k reason none
    (x.holds.length < 4 → s.hm.holds.length < 256 →
      actPlaceHold lot code reason s = (s.recordHold l x r, Answer.withDetail .done (s.newHold l x r).id)) ∧
    (4 ≤ x.holds.length ∨ 256 ≤ s.hm.holds.length →
      actPlaceHold lot code reason s =
        (s.recordQuarantine l x (if 4 ≤ x.holds.length then .lotListFull r else .tableFull r),
          Answer.withDetail .done 0)) := by
  have hcell : s.cellOfLot l = none := by simp [State.cellOfLot, hapart.insertionOf, hapart.reservationOfLot]
  refine ⟨fun hlist htable => ?_, fun hfull => ?_⟩
  · have settled := State.settleHold_apart (s := s.recordHold l x (manualRequest k reason none)) hapart .hold
    rw [actPlaceHold_room hk e hx h1 h2 hlist htable, hcell, settled]
  · have settled (m : QuarantineMatter) := State.settleHold_apart (s := s.recordQuarantine l x m) hapart .quarantine
    rw [actPlaceHold_full hk e hx h1 h2 hfull, hcell, settled]

theorem answers_placeHold {u v : State} {n : Nat} (ht : s.Takes slot)
    (hv : actPlaceHold lot code reason (s.takeSlot slot) = (v, Answer.withDetail .done n)) (hf : u.SameFloor v) :
    Answers (.placeHold slot lot code reason) slot s .done (some n) [] u := by
  have hc := (Acts.placeHold lot code reason (s.takeSlot slot)).toCore
  rw [hv] at hc
  exact answers_acted rfl ht hv hc hf (Nat.zero_le _)

@[simp] theorem State.takeSlot_reservationOfLot (s : State) (slot : BoardSlot) (l : LotSlot) :
    (s.takeSlot slot).reservationOfLot l = s.reservationOfLot l := by simp [State.reservationOfLot]

@[simp] theorem State.takeSlot_cellOfLot (s : State) (slot : BoardSlot) (l : LotSlot) :
    (s.takeSlot slot).cellOfLot l = s.cellOfLot l := by simp [State.cellOfLot]

theorem State.Apart.takeSlot (h : s.Apart l) (slot : BoardSlot) : (s.takeSlot slot).Apart l := by
  simpa [State.Apart] using h

/-- Settles O45. -/
theorem placeHoldMakesAHold : Obligations.PlaceHoldMakesAHold := by
  unfold Obligations.PlaceHoldMakesAHold
  intro s slot lot reason code ht
  refine ⟨fun h => answers_refuse rfl ht (actPlaceHold_badClass h), fun h hl => ?_, fun l x k e hx hk => ⟨fun h => ?_, ?_⟩⟩
  · exact answers_refuse rfl ht (actPlaceHold_missing h (by simpa using hl))
  · exact answers_refuse rfl ht (actPlaceHold_closed hk e ((s.takeSlot_lot slot l).trans hx) h)
  intro h1 h2 request next made
  have hfloor := State.SameFloor.takeSlot s slot
  have hx' : (s.takeSlot slot).lot l = some x := (s.takeSlot_lot slot l).trans hx
  refine ⟨fun hlist htable => ?_, fun hfull hapart => ?_⟩
  · have htable' : (s.takeSlot slot).hm.holds.length < 256 := by rwa [State.takeSlot_hm]
    have hroom := actPlaceHold_room (reason := reason) hk e hx' h1 h2 hlist htable'
    rw [State.takeSlot_cellOfLot] at hroom
    -- the id and the record of the hold, whatever cell it names
    have hmade {cell : Option CellNo} {u : State}
        (hu : u.hm = ((s.takeSlot slot).recordHold l x (manualRequest k reason cell)).hm) :
        made ((s.takeSlot slot).newHold l x (manualRequest k reason cell)).id cell u := by
      rw [hfloor.newHold]
      obtain ⟨hlow, hhigh, hfree, hnext⟩ := s.newHold_id htable l x (manualRequest k reason cell)
      exact ⟨⟨hlow, hhigh, hfree, hnext⟩, hu.trans (hfloor.recordHold l x _).hm⟩
    refine ⟨fun hapart => ?_, fun c i hc hi hrun hp hempty hq hnone => ?_, fun r hr hnone hs => ?_⟩
    · have hact := (actPlaceHold_apart (reason := reason) hk e hx' h1 h2 (hapart.takeSlot slot)).1 hlist htable'
      have hrecord := hfloor.recordHold l x (manualRequest k reason none)
      exact ⟨_, s.recordHold l x (manualRequest k reason none), hmade hrecord.hm.symm,
        answers_placeHold ht hact hrecord, by rw [hfloor.newHold]; rfl⟩
    · have hcell : s.cellOfLot l = some c := by simp [State.cellOfLot, hc]
      rw [hcell] at hroom
      obtain ⟨hhm, hlot, hins, hslot⟩ := State.settleHold_tested (s := s.takeSlot slot)
        (r := manualRequest k reason (some c)) htable' (by simpa using hc) ((s.takeSlot_insertion slot c).trans hi) hempty
        hq (by simpa using hnone) .hold
      refine ⟨_, _, _, hmade hhm, answers_placeHold ht hroom (.refl _), hlot, hins, ?_, ?_, ?_⟩
      · rintro rfl
        exact congrArg Prod.fst (Insertion.requested_same (congrArg (fun h => { i.pause with hold := h }) hp.1.symm))
      · rintro rfl
        have hreq := Insertion.requested_hold hrun hp ((s.takeSlot slot).cell c) .haltAtIndex
        exact ⟨congrArg Prod.fst hreq, by rw [hslot]; exact congrArg (fun q => q.2.slot.desired) hreq⟩
      · rintro rfl
        have hreq := Insertion.requested_hold hrun hp ((s.takeSlot slot).cell c) .haltNow
        exact ⟨congrArg Prod.fst hreq, by rw [hslot]; exact congrArg (fun q => q.2.slot.desired) hreq⟩
    · have hvacant := State.insertionOf_eq_none hnone
      have hcell : s.cellOfLot l = some r.cell := by simp [State.cellOfLot, hvacant, hr]
      rw [hcell] at hroom
      obtain ⟨hhm, hlot, hentries, hqueue⟩ := State.settleHold_reserved (s := s.takeSlot slot)
        (r := manualRequest k reason (some r.cell)) (by simpa using hvacant) (by simpa using hr) hs .hold
      rw [State.takeSlot_minute] at hlot
      rw [State.takeSlot_de] at hentries
      exact ⟨_, _, hmade hhm, answers_placeHold ht hroom (.refl _), hlot, hentries, hqueue⟩
  · have hact := (actPlaceHold_apart (reason := reason) hk e hx' h1 h2 (hapart.takeSlot slot)).2
      (by rwa [State.takeSlot_hm])
    exact answers_placeHold ht hact (hfloor.recordQuarantine l x _)

/-! ## ACK_HOLD (R111) -/

theorem actAckHold_zero (s : State) : actAckHold 0 s = refuse .badArg s := rfl

theorem actAckHold_missing {hold : Half} (h0 : hold ≠ 0) (hh : s.hold? hold.toNat = none) :
    actAckHold hold s = refuse .notFound s := by
  unfold actAckHold
  rw [if_neg h0, hh]

/-- ACK_HOLD of a hold record, by its state. -/
theorem actAckHold_of {hold : Half} {h : Hold} (h0 : hold ≠ 0) (hh : s.hold? hold.toNat = some h) :
    actAckHold hold s =
      if h.state = .acknowledged then refuse .wrongState s
      else doneOrder { s with hm := { s.hm with holds := s.hm.holds.map fun g =>
        if g.id = hold.toNat then { g with state := .acknowledged } else g } } := by
  have hid : h.id = hold.toNat := by simpa using List.find?_some hh
  unfold actAckHold
  rw [if_neg h0, hh]
  dsimp only
  rw [hid]

/-- Settles O46. -/
theorem ackHoldAcknowledges : Obligations.AckHoldAcknowledges := by
  unfold Obligations.AckHoldAcknowledges
  intro s slot hold ht
  refine ⟨?_, fun h0 hh => ?_, fun h h0 hh => ?_⟩
  · rintro rfl
    exact answers_refuse rfl ht (actAckHold_zero _)
  · exact answers_refuse rfl ht (actAckHold_missing h0 ((s.takeSlot_hold slot _).trans hh))
  · have hact := actAckHold_of h0 ((s.takeSlot_hold slot _).trans hh)
    refine ⟨fun hs => answers_refuse rfl ht (hact.trans (if_pos hs)), fun hs => ?_⟩
    have hdone := hact.trans (if_neg (by simp [hs]))
    refine answers_done rfl ht hdone (Acts.ackHold hold _).toCore ?_
    rw [(State.SameFloor.takeSlot s slot).eq]
    exact ⟨rfl, rfl, rfl, rfl, rfl, rfl, rfl, rfl, rfl, rfl⟩

end Sys2Proof.Machine
end

section
/-! SUPPORT. The pairs of a pass and their scores (R117 to R121). -/

namespace Sys2Proof.Machine

variable {s : State} {l : LotSlot} {c : CellNo} {x : Lot} {d : Identity}

/-! ## Eligibility (R117, R118) -/

/-- A lot is held when a hold lists it or it is quarantined (R101). -/
theorem Lot.held_eq_false_iff : x.held = false ↔ x.holds = [] ∧ x.quarantined = false := by
  unfold Lot.held
  rw [Bool.or_eq_false_iff, Bool.not_eq_false', List.isEmpty_iff]

/-- The lot's side of Table 7-2. -/
theorem Lot.dispatchable_iff : x.dispatchable = true ↔
    x.state = .queued ∧ x.holds = [] ∧ x.quarantined = false ∧
      1 ≤ (x.step x.current).remainder ∧ (x.step x.current).remainder ≤ 65535 := by
  unfold Lot.dispatchable
  simp only [Bool.and_eq_true, decide_eq_true_eq, Bool.not_eq_true', Lot.held_eq_false_iff, and_assoc]

/-- A bar entry keeps the lot from its own cell only, until its expiry minute (R118). -/
theorem Lot.barLets_iff (now : Nat) :
    x.barLets c now = true ↔ ∀ b, x.bar = some b → b.cell = c → b.expiry ≤ now := by
  unfold Lot.barLets
  cases x.bar with
  | none => simp
  | some b => simp [or_iff_not_imp_left]

/-- The identity's side of Table 7-2. -/
theorem Identity.fits_iff {r : Recipe} : d.fits r = true ↔
    d.testerClass = r.testerClass ∧ d.handlerClass = r.handlerClass ∧ d.temps.getLsbD r.temp.code = true ∧
      r.minSites ≤ d.siteCount := by
  unfold Identity.fits
  simp only [Bool.and_eq_true, decide_eq_true_eq, and_assoc]

/-- The pair of a lot in the table and a cell of known identity. -/
theorem State.pair_of (hx : s.lot l = some x) (hd : (s.cell c).reported = some d) :
    s.pair? l c =
      if s.ft.mode = .run ∧ (s.cell c).state = .idle ∧ x.dispatchable = true ∧ x.barLets c s.minute = true ∧
        d.fits (s.recipe (x.step x.current).recipe) = true then some (s.scorePair l c x d) else none := by
  unfold State.pair?
  rw [hx, hd]

/-! ## The dispatch score (R119 to R121) -/

/-- The order of the two bounds does not matter to a clamp whose range is not empty. -/
theorem clampInt_eq {lo hi : Int} (h : lo ≤ hi) (v : Int) : clampInt lo hi v = max lo (min hi v) := by
  unfold clampInt
  omega

theorem TempClass.opposite_iff (t u : TempClass) :
    t.opposite u = true ↔ (t = .cold ∧ u = .hot) ∨ (t = .hot ∧ u = .cold) := by
  cases t <;> cases u <;> decide

/-- Stage 6 on a cell of reported identity (R120). -/
theorem setupMinutes_of {y : Cell} (hd : y.reported = some d) (q : DispatchParams) (r : Recipe) :
    setupMinutes q y r = (if d.kitCode = r.kitCode then 0 else q.kitMinutes) +
      (if y.lastTemp = some r.temp then 0 else r.soakMinutes) +
      (if (y.lastTemp = some .cold ∧ r.temp = .hot) ∨ (y.lastTemp = some .hot ∧ r.temp = .cold) then q.transitionMinutes
        else 0) := by
  have hkit : y.kitCode = some r.kitCode ↔ d.kitCode = r.kitCode := by
    unfold Cell.kitCode
    rw [hd, Option.map_some, Option.some.injEq]
  have hturn : ((y.lastTemp.any fun t => t.opposite r.temp) = true) ↔
      (y.lastTemp = some .cold ∧ r.temp = .hot) ∨ (y.lastTemp = some .hot ∧ r.temp = .cold) := by
    cases y.lastTemp with
    | none => simp
    | some t => simp [TempClass.opposite_iff]
  unfold setupMinutes
  simp only [hkit, hturn]

/-- Settles O49. -/
theorem pairsAreEligibleAndScored : Obligations.PairsAreEligibleAndScored := by
  unfold Obligations.PairsAreEligibleAndScored
  intro s l c x d hx hd st r q cell eligible cycle run setup slack age score
  have hpair := State.pair_of hx hd
  simp only [Lot.dispatchable_iff, Lot.barLets_iff, Identity.fits_iff, and_assoc] at hpair
  have hsetup : setupMinutes q cell r = setup := setupMinutes_of hd q r
  have hslack : slackOf s.minute setup run x = slack := clampInt_eq (by decide) _
  have hscore : scoreOf q s.minute setup slack x = score.toNat := congrArg Int.toNat (clampInt_eq (by decide) _)
  have hscored : s.scorePair l c x d =
      { lot := l, cell := c, due := x.due, score := score.toNat, slack := slack, setup := setup, run := run } := by
    have hrun : runMinutes (min d.siteCount r.maxSites) st.remainder (pairCycle cell st.recipe r) = run := rfl
    unfold State.scorePair
    dsimp only
    rw [hsetup, hrun, hslack, hscore]
  exact ⟨fun h => hpair.trans (if_neg h), fun h => (hpair.trans (if_pos h)).trans (congrArg some hscored)⟩

end Sys2Proof.Machine
end

section
/-! SUPPORT. The reservations that end without an insertion: DECLINE (R128) and the expiry (R129). -/

namespace Sys2Proof.Machine

variable {s u : State} {l : LotSlot} {c : CellNo} {x : Lot} {r : Reservation}

theorem State.setLot_setLot (s : State) (l : LotSlot) (a b : Option Lot) : (s.setLot l a).setLot l b = s.setLot l b := by
  simp only [State.setLot, Vector.set_set]

/-! ## What a RESERVED cell leaves for (Table 2-4) -/

theorem State.SameFloor.derivedState {t : State} (h : u.SameFloor t) (c : CellNo) : t.derivedState c = u.derivedState c := by
  rw [h.eq]
  rfl

/-- The state of a RESERVED cell after its entry is deleted. -/
def Cell.unreserved (y : Cell) : CellState := if y.service then .idle else .outOfService

theorem Cell.unreserved_ne (y : Cell) :
    y.unreserved ≠ .reserved ∧ y.unreserved ≠ .parked ∧ y.unreserved ≠ .silent ∧ y.unreserved ≠ .mismatch := by
  unfold Cell.unreserved
  cases y.service <;> simp

/-- A cell whose derived state was RESERVED, without its entry. -/
theorem State.derivedState_unreserved (hd : s.derivedState c = .reserved) (hcell : u.cell c = s.cell c)
    (hports : u.ports = s.ports) (hi : u.insertion c = none) (hr : u.reservationOf c = none) :
    u.derivedState c = (s.cell c).unreserved := by
  obtain ⟨hlinked, hmatch, -⟩ := State.free_of_derived (.inr hd)
  have hl : u.Linked c := hlinked.congr (congrArg Cell.heard hcell) (congrArg Cell.mapping hcell) hports
  rw [State.derivedState_linked hl, State.standing, hi, hr, hcell, hmatch]
  rfl

/-! ## The lot's return to the queue -/

/-- The lot QUEUED from the present minute under a bar entry, the cell in its new state, and the records of both. -/
def State.unreserved (l : LotSlot) (c : CellNo) (x : Lot) (bar : Option Bar) (new : CellState) (s : State) : State :=
  (((((s.setLot l (some { x with state := .queued, ready := s.minute, bar := bar })).joinQueue l).modCell c
    fun y => { y with state := new }).triggerPass).report (.lotState l (some .reserved) (some .queued) x.current)).report
      (.cellState c .reserved new .reservation)

theorem State.SameFloor.unreserved {t : State} (h : u.SameFloor t) (l : LotSlot) (c : CellNo) (x : Lot) (bar : Option Bar)
    (new : CellState) : (u.unreserved l c x bar new).SameFloor (t.unreserved l c x bar new) := by
  rw [h.eq]
  exact ⟨rfl, rfl, rfl, rfl, rfl, rfl, rfl, rfl, rfl, rfl⟩

/-- A RESERVED lot becomes QUEUED, and the cell's state is derived after its entry is deleted. A pass is called for by the
lot; the entry of the cell into IDLE calls for no other. -/
theorem State.requeue_deriveCell (hx : s.lot l = some x) (hs : x.state = .reserved)
    (hc : (s.cell c).state = .reserved) (hd : s.derivedState c = (s.cell c).unreserved) :
    (s.setLotState l .queued).deriveCell c .reservation = s.unreserved l c x x.bar (s.cell c).unreserved := by
  let v := s.setLotState l .queued
  have hne : x.state ≠ .queued := by simp [hs]
  have hv : v = (((s.setLot l (some { x with state := .queued, ready := s.minute })).joinQueue l).triggerPass).report
      (.lotState l (some .reserved) (some .queued) x.current) := by
    have henter := State.setLotState_enter hx hne
    rw [State.requeue, State.modLot_of hx, hs] at henter
    exact henter
  have hcell : v.cell c = s.cell c := by rw [hv]; rfl
  have hderived : v.derivedState c = (s.cell c).unreserved := by rw [hv]; exact hd
  obtain ⟨hchanged, hpark, hsilent, hmismatch⟩ := (s.cell c).unreserved_ne
  have hderive : v.deriveCell c .reservation = v.recordCell c id (s.cell c).unreserved .reservation := by
    have hself : v.modCell c id = v := State.modCell_self rfl
    have h := State.deriveCell_calm (s := v) (c := c) (f := id) rfl (hself.symm ▸ hderived)
      (.inr ⟨hpark, hsilent, hmismatch⟩) .reservation
    rwa [hself] at h
  have hrecord := State.recordCell_changed (s := v) (c := c) (by rw [hcell, hc]; exact hchanged) id .reservation
  rw [hcell, hc] at hrecord
  refine hderive.trans (hrecord.trans ?_)
  rw [hv]
  dsimp only
  split <;> rfl

/-! ## DECLINE (R128) -/

/-- DECLINE of an entry: the bar entry, then the lot's return. -/
theorem actDecline_of {cell : Byte} {lot : Half} (hc : cell.toNat = number c) (hl : lot.toNat = l.val) :
    actDecline cell lot s =
      if ∃ r ∈ s.de.reservations, r.cell = c ∧ r.lot = l then
        doneOrder ((((s.deleteReservation c).modLot l fun x => { x with
          bar := some { cell := c, expiry := s.minute + s.de.params.window } }).setLotState l .queued).deriveCell c
            .reservation)
      else refuse .wrongState s := withReservation_of hc hl _ s

/-- What DECLINE leaves of a RESERVED lot and cell. -/
theorem State.decline_leaves (hx : s.lot l = some x) (hs : x.state = .reserved) (hi : s.insertion c = none)
    (hc : (s.cell c).state = .reserved) (hd : s.derivedState c = .reserved) (bar : Bar) :
    (((s.deleteReservation c).modLot l fun x => { x with bar := some bar }).setLotState l .queued).deriveCell c .reservation =
      (s.deleteReservation c).unreserved l c x (some bar) (s.cell c).unreserved := by
  let w := (s.deleteReservation c).setLot l (some { x with bar := some bar })
  have hmod : ((s.deleteReservation c).modLot l fun x => { x with bar := some bar }) = w :=
    State.modLot_of (s := s.deleteReservation c) hx _
  have hw : w.lot l = some { x with bar := some bar } := (State.lot_setLot _ l l _).trans (if_pos rfl)
  have hnone : w.reservationOf c = none := State.reservationOf_deleteReservation s c
  have hderived : w.derivedState c = (s.cell c).unreserved := State.derivedState_unreserved hd rfl rfl hi hnone
  have hreturn := State.requeue_deriveCell (s := w) hw hs hc hderived
  rw [hmod]
  refine hreturn.trans ?_
  unfold State.unreserved
  rw [State.setLot_setLot]
  rfl

/-! ## The expiry (R129) -/

/-- A due expiry: its record, then the lot's return. -/
theorem State.reservationExpiry_due (hr : s.reservationOf c = some r) (hx : s.lot r.lot = some x) (hs : x.state = .reserved)
    (hi : s.insertion c = none) (hc : (s.cell c).state = .reserved) (hd : s.derivedState c = .reserved)
    (hdue : s.expires r = true) :
    exec (.reservationExpiry c) s = .next
      (((s.report (.reservationExpired r.lot c r.expiry r.score)).deleteReservation c).unreserved r.lot c x x.bar
        (s.cell c).unreserved) := by
  let w := (s.report (.reservationExpired r.lot c r.expiry r.score)).deleteReservation c
  have hexpire : s.expireReservation c = (w.setLotState r.lot .queued).deriveCell c .reservation := by
    unfold State.expireReservation
    rw [hr]
    exact if_pos hdue
  have hnone : w.reservationOf c = none := State.reservationOf_deleteReservation _ c
  have hderived : w.derivedState c = (s.cell c).unreserved := State.derivedState_unreserved hd rfl rfl hi hnone
  exact congrArg Host.Outcome.next (hexpire.trans (State.requeue_deriveCell (s := w) hx hs hc hderived))

/-- An expiry that is not due, or without an entry, changes nothing. -/
theorem State.reservationExpiry_quiet (h : ∀ r, s.reservationOf c = some r → s.expires r = false) :
    exec (.reservationExpiry c) s = .next s := by
  refine congrArg Host.Outcome.next ?_
  unfold State.expireReservation
  cases hr : s.reservationOf c with
  | none => rfl
  | some r => exact if_neg (by simp [h r hr])

/-- Settles O52. -/
theorem reservationsEndInTheQueue : Obligations.ReservationsEndInTheQueue := by
  unfold Obligations.ReservationsEndInTheQueue
  intro s c back
  refine ⟨fun slot cell lot ht => ⟨fun h => answers_refuse rfl ht (withReservation_outside h _ _), fun l hc hl => ⟨?_, ?_⟩⟩,
    ?_, ?_, ?_⟩
  · intro hnone
    refine answers_refuse rfl ht ((actDecline_of hc hl).trans (if_neg ?_))
    rw [State.takeSlot_de]
    rintro ⟨r, hr, hnames⟩
    exact hnone r hr hnames
  · intro x hentry hx hs hi hstate hderived
    let t := s.takeSlot slot
    have hfloor : s.SameFloor t := State.SameFloor.takeSlot s slot
    have hcell : t.cell c = s.cell c := s.takeSlot_cell slot c
    have hleaves := State.decline_leaves ((s.takeSlot_lot slot l).trans hx) hs ((s.takeSlot_insertion slot c).trans hi)
      (by rw [hcell, hstate]) ((hfloor.derivedState c).trans hderived) { cell := c, expiry := t.minute + t.de.params.window }
    have hact : actDecline cell lot t = doneOrder _ :=
      (actDecline_of hc hl).trans ((if_pos (by rwa [State.takeSlot_de])).trans (congrArg doneOrder hleaves))
    refine answers_done rfl ht hact (Acts.decline cell lot _).toCore ?_
    rw [hcell, s.takeSlot_minute, s.takeSlot_de]
    exact (hfloor.deleteReservation c).unreserved l c x _ _
  · intro r x hr hx hs hi hc hd hwork hroom hexpiry
    exact State.reservationExpiry_due hr hx hs hi hc hd (State.expires_iff.mpr ⟨hwork, hroom, hexpiry⟩)
  · intro r hr hquiet
    refine State.reservationExpiry_quiet fun g hg => Bool.eq_false_iff.mpr fun hdue => ?_
    cases hr.symm.trans hg
    obtain ⟨hwork, hroom, hexpiry⟩ := State.expires_iff.mp hdue
    rcases hquiet with h | h | h
    · omega
    · omega
    · simp [State.working, h] at hwork
  · intro hnone
    exact State.reservationExpiry_quiet fun r hr => by simp [hnone] at hr

end Sys2Proof.Machine
end

section
/-! SUPPORT. The operations of the Release Unit: readiness (R136), members taken out of an OPEN order (R135), and an order
released with its records (R144 to R146). -/

namespace Sys2Proof.Machine

variable {s t v : State} {l m : LotSlot} {x : Lot} {n : ShipNo} {o : Ship} {cause : RemovalCause}

/-! ## Readiness (R136, R146) -/

theorem Lot.releaseReady_iff : x.releaseReady = true ↔ x.Ready := by
  simp [Lot.releaseReady, Lot.Ready, Lot.held, and_assoc]

theorem State.readyAt_of (hx : s.lot l = some x) : s.readyAt l = true ↔ x.Ready := by
  unfold State.readyAt
  rw [hx]
  exact Lot.releaseReady_iff

theorem State.readyAt_iff : s.readyAt l = true ↔ ∃ y, s.lot l = some y ∧ y.Ready := by
  cases hx : s.lot l with
  | none => simp [State.readyAt, hx]
  | some x => simp [State.readyAt_of hx]

theorem State.readyAt_congr (h : t.lot l = s.lot l) : t.readyAt l = s.readyAt l := by
  unfold State.readyAt
  rw [h]

@[simp] theorem State.takeSlot_readyAt (s : State) (slot : BoardSlot) (l : LotSlot) :
    (s.takeSlot slot).readyAt l = s.readyAt l := State.readyAt_congr (s.takeSlot_lot slot l)

theorem State.autoReady_iff : s.autoReady o = true ↔
    o.state = .opened ∧ o.auto = true ∧ o.lots ≠ [] ∧ ∀ m ∈ o.lots, s.readyAt m = true := by
  simp [State.autoReady, and_assoc]

/-! ## Members taken out (R135) -/

/-- The records of members taken out in turn of an order that held `held` lots (R135). -/
def ReportUnit.removals (clock : Word) (n : ShipNo) (cause : RemovalCause) (kind : ShipKind) (held : Nat)
    (out : List LotSlot) (u : ReportUnit) : ReportUnit :=
  ((List.range out.length).zip out).foldl (fun r e => r.append clock
    (.shipMemberRemoved e.2 n cause kind (held - 1 - e.1))) u

theorem ReportUnit.removals_cons (clock : Word) (n : ShipNo) (cause : RemovalCause) (kind : ShipKind) (held : Nat)
    (l : LotSlot) (out : List LotSlot) (u : ReportUnit) :
    u.removals clock n cause kind held (l :: out) =
      (u.append clock (.shipMemberRemoved l n cause kind (held - 1))).removals clock n cause kind (held - 1) out := by
  unfold ReportUnit.removals
  rw [List.length_cons, List.range_succ_eq_map, List.zip_cons_cons, List.foldl_cons, List.zip_map_left, List.foldl_map]
  have hleft (k : Nat) : held - 1 - 1 - k = held - 1 - (k + 1) := by omega
  simp only [Prod.map_fst, Prod.map_snd, id_eq, hleft]
  rfl

/-- What is left of an order `o` of number `n` when the lots `out` have been taken out of it (R135). -/
structure State.TakenOut (s : State) (n : ShipNo) (o : Ship) (cause : RemovalCause) (out : List LotSlot) (t : State) :
    Prop where
  rest : t = { s with lm := { s.lm with lots := t.lm.lots }, ships := t.ships, ru := t.ru }
  ship : ∀ k, t.ship k = if k = n then some { o with lots := o.lots.diff out } else s.ship k
  lot : ∀ k, t.lot k = if k ∈ out then (s.lot k).map fun y => { y with ship := none } else s.lot k
  records : out.Subperm o.lots → t.ru = s.ru.removals s.ft.clock n cause o.kind o.lots.length out

theorem State.removeMember_of (ho : s.ship n = some o) (l : LotSlot) (cause : RemovalCause) :
    s.removeMember n l cause =
      ((s.setShip n (some { o with lots := o.lots.erase l })).modLot l fun y => { y with ship := none }).report
        (.shipMemberRemoved l n cause o.kind (o.lots.erase l).length) := by
  unfold State.removeMember State.modShip
  rw [ho]
  rfl

/-- The members in a list taken out in turn. -/
theorem State.takenOut_foldl (ho : s.ship n = some o) (cause : RemovalCause) (out : List LotSlot) :
    s.TakenOut n o cause out (out.foldl (fun u l => u.removeMember n l cause) s) := by
  induction out generalizing s o with
  | nil =>
    refine ⟨rfl, fun k => ?_, fun k => by simp, fun _ => rfl⟩
    by_cases e : k = n
    · rw [if_pos e, e]
      exact ho
    · rw [if_neg e]
      rfl
  | cons l out ih =>
    have hone := State.removeMember_of ho l cause
    generalize hw : s.removeMember n l cause = w at hone
    have hship (k : ShipNo) : w.ship k = if k = n then some { o with lots := o.lots.erase l } else s.ship k := by
      rw [hone]
      exact State.ship_setShip s n k _
    have hlot (k : LotSlot) : w.lot k = if k = l then (s.lot l).map fun y => { y with ship := none } else s.lot k := by
      rw [hone]
      exact State.lot_modLot _ l k _
    have hclock : w.ft = s.ft := by rw [hone]; rfl
    have hrest := ih ((hship n).trans (if_pos rfl))
    have hfold : (l :: out).foldl (fun u l => u.removeMember n l cause) s =
        out.foldl (fun u l => u.removeMember n l cause) w := by rw [List.foldl_cons, hw]
    rw [hfold]
    generalize out.foldl (fun u l => u.removeMember n l cause) w = t at hrest
    refine ⟨?_, fun k => ?_, fun k => ?_, fun hsub => ?_⟩
    · rw [hrest.rest, hone]
      rfl
    · rw [hrest.ship, hship, List.diff_cons]
      by_cases e : k = n <;> simp [e]
    · rw [hrest.lot, hlot]
      by_cases e : k = l
      · subst e
        by_cases h : k ∈ out
        · simp [h, Function.comp_def]
        · simp [h]
      · simp [e]
    · have hmem : l ∈ o.lots := hsub.subset (by simp)
      have hout : out.Subperm (o.lots.erase l) := by simpa using hsub.erase l
      have hru : w.ru = s.ru.append s.ft.clock (.shipMemberRemoved l n cause o.kind (o.lots.length - 1)) := by
        rw [hone, List.length_erase_of_mem hmem]
        rfl
      rw [hrest.records hout, ReportUnit.removals_cons, hru, hclock]
      dsimp only
      rw [List.length_erase_of_mem hmem]

/-- The members that a test keeps, once the others are taken out. -/
theorem diff_filter_not {α : Type} [DecidableEq α] (p : α → Bool) (ls : List α) :
    ls.diff (ls.filter fun a => !p a) = ls.filter p := by
  induction ls with
  | nil => rfl
  | cons a ls ih =>
    cases hp : p a with
    | false => simp [hp, List.diff_cons, ih]
    | true =>
      have ha : a ∉ ls.filter fun a => !p a := by simp [hp]
      simp [hp, List.cons_diff, ha, ih]

theorem State.TakenOut.keeps {out : List LotSlot} (h : s.TakenOut n o cause out t) : Keeps s t := by
  rw [h.rest]
  exact ⟨rfl, rfl, rfl, rfl, rfl⟩

/-! ## An order released (R144, R145) -/

/-- The lots of a list that stand in the table, with their records. -/
def State.pairs (s : State) (ls : List LotSlot) : List (LotSlot × Lot) :=
  ls.filterMap fun l => (s.lot l).map fun x => (l, x)

/-- The records of a member released: RELEASE, then LOT_STATE (R144 step 1). -/
def State.memberRecords (s : State) (n : ShipNo) (o : Ship) (u : ReportUnit) (m : LotSlot × Lot) : ReportUnit :=
  (u.append s.ft.clock (.release m.1 (s.releaseContent n o m.2))).append s.ft.clock
    (.lotState m.1 (some .complete) (some .released) m.2.current)

/-- The records of an order released with these members (R144, R145). -/
def State.releaseRecords (s : State) (n : ShipNo) (o : Ship) (manner : ReleaseManner) (out : Nat)
    (members : List (LotSlot × Lot)) (u : ReportUnit) : ReportUnit :=
  (members.foldl (s.memberRecords n o) u).append s.ft.clock
    (.shipReleased n o.kind o.customer manner members.length out
      (members.map fun m => (s.releaseContent n o m.2).released).sum (members.map fun m => m.2.startQuantity).sum)

/-- What a release of the order `o` of number `n` leaves (R144, R145). -/
structure State.ShipReleased (s : State) (n : ShipNo) (o : Ship) (manner : ReleaseManner) (out : Nat) (t : State) : Prop where
  ship : ∀ k, t.ship k =
    if k = n then some { o with state := .released, releasedSecond := some s.ft.clock } else s.ship k
  lot : ∀ k, t.lot k = if k ∈ o.lots then (s.lot k).map fun y => { y with state := .released } else s.lot k
  records : o.lots.Nodup → t.ru = s.releaseRecords n o manner out (s.pairs o.lots) s.ru

/-- The records are those of any floor with the same recipes and clock. -/
theorem Keeps.releaseRecords (h : Keeps s t) : t.releaseRecords = s.releaseRecords := by
  have hc : t.releaseContent = s.releaseContent := by
    unfold State.releaseContent
    rw [h.recipes]
  unfold State.releaseRecords State.memberRecords
  rw [hc, h.ft]

/-- The records tell of a member's record its content and its place on the route alone. -/
theorem State.releaseRecords_congr {members members' : List (LotSlot × Lot)}
    (h : members.map (fun m => (m.1, s.releaseContent n o m.2, m.2.current)) =
      members'.map fun m => (m.1, s.releaseContent n o m.2, m.2.current)) (manner : ReleaseManner) (out : Nat)
    (u : ReportUnit) : s.releaseRecords n o manner out members u = s.releaseRecords n o manner out members' u := by
  have key (ms : List (LotSlot × Lot)) : s.releaseRecords n o manner out ms u =
      let cs := ms.map fun m => (m.1, s.releaseContent n o m.2, m.2.current)
      (cs.foldl (fun u e => (u.append s.ft.clock (.release e.1 e.2.1)).append s.ft.clock
        (.lotState e.1 (some .complete) (some .released) e.2.2)) u).append s.ft.clock
          (.shipReleased n o.kind o.customer manner cs.length out (cs.map fun e => e.2.1.released).sum
            (cs.map fun e => e.2.1.start).sum) := by
    simp only [List.foldl_map, List.map_map, List.length_map]
    rfl
  rw [key, key, h]

theorem State.setLotState_lot_ne (s : State) (new : LotState) (h : m ≠ l) : (s.setLotState l new).lot m = s.lot m := by
  have hmod (f : Lot → Lot) : (s.modLot l f).lot m = s.lot m := (State.lot_modLot s l m f).trans (if_neg h)
  unfold State.setLotState
  split
  · rfl
  · split
    · rfl
    · dsimp only
      split
      · exact hmod _
      · split
        · exact hmod _
        · exact hmod _

theorem State.releaseMember_lot (s : State) (n : ShipNo) (o : Ship) (l m : LotSlot) :
    (State.releaseMember n o s l).lot m =
      if m = l then (s.lot l).map fun y => { y with state := .released } else s.lot m := by
  unfold State.releaseMember
  split
  · next hx =>
    by_cases e : m = l
    · rw [if_pos e, e, hx]
      rfl
    · exact (if_neg e).symm
  · next x hx =>
    by_cases e : m = l
    · rw [if_pos e, e, hx]
      exact State.lot_setLotState (s := s.report _) hx .released
    · rw [if_neg e]
      exact State.setLotState_lot_ne _ _ e

theorem State.releaseMember_ships (s : State) (n : ShipNo) (o : Ship) (l : LotSlot) :
    (State.releaseMember n o s l).ships = s.ships := by
  unfold State.releaseMember
  split
  · rfl
  · exact State.setLotState_ships _ _ _

/-- A COMPLETE member released writes its two records (R144 step 1). -/
theorem State.releaseMember_ru (hx : s.lot l = some x) (hs : x.state = .complete) :
    (State.releaseMember n o s l).ru = s.memberRecords n o s.ru (l, x) := by
  have h := State.setLotState_apart (s := s.report (.release l (s.releaseContent n o x))) (new := .released) hx
    (by simp [hs]) (by simp [hs]) (by simp)
  unfold State.releaseMember
  rw [hx]
  dsimp only
  rw [h, hs]
  rfl

/-- The members released in turn: their states, and nothing of the orders. -/
theorem State.foldl_releaseMember_lot (n : ShipNo) (o : Ship) (ls : List LotSlot) (s : State) :
    (∀ k, (ls.foldl (State.releaseMember n o) s).lot k =
      if k ∈ ls then (s.lot k).map fun y => { y with state := .released } else s.lot k) ∧
    (ls.foldl (State.releaseMember n o) s).ships = s.ships := by
  induction ls generalizing s with
  | nil => exact ⟨fun k => by simp, rfl⟩
  | cons l ls ih =>
    obtain ⟨hlot, hships⟩ := ih (State.releaseMember n o s l)
    refine ⟨fun k => ?_, hships.trans (State.releaseMember_ships s n o l)⟩
    rw [List.foldl_cons, hlot, State.releaseMember_lot]
    by_cases e : k = l
    · subst e
      by_cases h : k ∈ ls
      · simp [h, Function.comp_def]
      · simp [h]
    · simp [e]

theorem Keeps.releaseMembers (n : ShipNo) (o : Ship) (ls : List LotSlot) (s : State) :
    Keeps s (ls.foldl (State.releaseMember n o) s) :=
  ((Moves.refl s).foldl _ (fun u l => (Moves.refl u).releaseMember n o l) ls).toKeeps

/-- The records of the members released in turn (R144 step 1). -/
theorem State.foldl_releaseMember_ru (n : ShipNo) (o : Ship) {ls : List LotSlot} (hd : ls.Nodup) (hk : Keeps s v)
    (hs : ∀ m ∈ ls, v.lot m = s.lot m) (hr : ∀ m ∈ ls, s.readyAt m = true) :
    (ls.foldl (State.releaseMember n o) v).ru = (s.pairs ls).foldl (s.memberRecords n o) v.ru := by
  induction ls generalizing v with
  | nil => rfl
  | cons l ls ih =>
    obtain ⟨hl, hd⟩ := List.nodup_cons.mp hd
    obtain ⟨x, hx, hready⟩ := State.readyAt_iff.mp (hr l (by simp))
    have hone := State.releaseMember_ru (n := n) (o := o) ((hs l (by simp)).trans hx) hready.1
    have hrecord : v.memberRecords n o = s.memberRecords n o := by
      unfold State.memberRecords State.releaseContent
      rw [hk.recipes, hk.ft]
    have hpairs : s.pairs (l :: ls) = (l, x) :: s.pairs ls := by simp [State.pairs, hx]
    have hnext := ih (v := State.releaseMember n o v l) hd (hk.trans (Keeps.releaseMembers n o [l] v)) (fun m hm => by
        have hne : m ≠ l := fun e => hl (e ▸ hm)
        rw [State.releaseMember_lot, if_neg hne]
        exact hs m (by simp [hm])) fun m hm => hr m (by simp [hm])
    rw [List.foldl_cons, hnext, hone, hrecord, hpairs, List.foldl_cons]

/-- A release of an order whose members are all ready. -/
theorem State.releaseOrder_released (ho : s.ship n = some o) (hr : ∀ m ∈ o.lots, s.readyAt m = true)
    (manner : ReleaseManner) (out : Nat) : s.ShipReleased n o manner out (s.releaseOrder n manner out) := by
  obtain ⟨hlot, hships⟩ := State.foldl_releaseMember_lot n o o.lots s
  have hkeeps := Keeps.releaseMembers n o o.lots s
  have hship (k : ShipNo) : (o.lots.foldl (State.releaseMember n o) s).ship k = s.ship k := by
    rw [State.ship, hships]
    rfl
  have hlength : (s.pairs o.lots).length = o.lots.length := by
    unfold State.pairs
    rw [List.length_filterMap_eq_countP, List.countP_eq_length]
    intro m hm
    obtain ⟨y, hy, -⟩ := State.readyAt_iff.mp (hr m hm)
    simp [hy]
  have hmembers : s.members o = (s.pairs o.lots).map Prod.snd := by
    simp [State.members, State.pairs, List.map_filterMap, Function.comp_def]
  unfold State.releaseOrder
  rw [ho]
  refine ⟨fun k => ?_, hlot, fun hd => ?_⟩
  · refine (State.ship_modShip _ n k _).trans ?_
    rw [hship n, hship k, ho, hkeeps.ft]
    rfl
  · have hru := State.foldl_releaseMember_ru n o hd (.refl s) (fun _ _ => rfl) hr
    have hfinal : s.releaseRecords n o manner out (s.pairs o.lots) s.ru =
        ((s.pairs o.lots).foldl (s.memberRecords n o) s.ru).append s.ft.clock
          (.shipReleased n o.kind o.customer manner o.lots.length out
            (((s.members o).map fun x => s.releaseContent n o x).map ReleaseContent.released).sum
            (((s.members o).map fun x => s.releaseContent n o x).map ReleaseContent.start).sum) := by
      unfold State.releaseRecords
      rw [hlength, hmembers]
      simp only [List.map_map]
      rfl
    rw [hfinal, ← hru, ← hkeeps.ft]
    rfl

/-! ## Auto-release (R137, R146) -/

/-- An examination releases an order that is ready for it. -/
theorem State.examineAuto_releases (ho : s.ship n = some o) (hopen : o.state = .opened) (ha : o.auto = true)
    (hne : o.lots ≠ []) (hr : ∀ m ∈ o.lots, s.readyAt m = true) : s.ShipReleased n o .auto 0 (s.examineAuto n) := by
  unfold State.examineAuto
  rw [ho]
  dsimp only
  rw [if_pos (State.autoReady_iff.mpr ⟨hopen, ha, hne, hr⟩)]
  exact State.releaseOrder_released ho hr .auto 0

/-- It leaves any other order. -/
theorem State.examineAuto_leaves (ho : s.ship n = some o)
    (h : o.auto = false ∨ o.lots = [] ∨ ∃ m ∈ o.lots, s.readyAt m = false) : s.examineAuto n = s := by
  unfold State.examineAuto
  rw [ho]
  refine if_neg fun k => ?_
  obtain ⟨-, ha, hne, hr⟩ := State.autoReady_iff.mp k
  rcases h with h | h | ⟨m, hm, h⟩
  · simp [h] at ha
  · exact hne h
  · simp [hr m hm] at h

/-- The detail of R139 and R140, by the state of the order. -/
theorem State.releasedFlag_of (ho : s.ship n = some o) : s.releasedFlag n = if o.state = .released then 1 else 0 := by
  unfold State.releasedFlag
  rw [ho]

theorem State.ShipReleased.flag {manner : ReleaseManner} {out : Nat} (h : s.ShipReleased n o manner out t) :
    t.releasedFlag n = 1 := (State.releasedFlag_of ((h.ship n).trans (if_pos rfl))).trans (if_pos rfl)

/-- The notice of a ready lot examines its order (R137). -/
theorem State.notice_examines (hx : s.lot l = some x) (hn : x.ship = some n) (hr : x.Ready) :
    s.notice l = s.examineAuto n := by
  unfold State.notice
  rw [hx]
  dsimp only
  rw [hn]
  exact if_pos (Lot.releaseReady_iff.mpr hr)

end Sys2Proof.Machine
end

section
/-! OBLIGATIONS O53, O54. Ship orders opened, filled, emptied and cancelled (R135, R138 to R141, R146). -/

namespace Sys2Proof.Machine

variable {s t u u' : State} {l m : LotSlot} {x : Lot} {n : ShipNo} {o : Ship} {cause : RemovalCause} {slot : BoardSlot}
variable {ship : Byte} {lot : Half}

/-! ## Orders answered DONE with a detail, and floors that agree -/

theorem answers_doneWith {i : Instr} {act : State → Acted} {k : Nat} (hi : exec i s = .next (s.takeOrder slot act))
    (ht : s.Takes slot) (ha : Acts (s.takeSlot slot) (act (s.takeSlot slot)).1)
    (hu : act (s.takeSlot slot) = (u', Answer.withDetail .done k)) (hf : u.SameFloor u') :
    Answers i slot s .done (some k) [] u := by
  have hc := ha.toCore
  rw [hu] at hc
  exact answers_acted hi ht hu hc hf (Nat.zero_le _)

theorem State.modShip_of (ho : s.ship n = some o) (f : Ship → Ship) : s.modShip n f = s.setShip n (some (f o)) := by
  rw [State.modShip, ho]
  rfl

theorem State.SameFloor.removeMember (h : u.SameFloor t) (n : ShipNo) (l : LotSlot) (cause : RemovalCause) :
    (u.removeMember n l cause).SameFloor (t.removeMember n l cause) := by
  have hship : t.ship n = u.ship n := by simp [State.ship, h.ships]
  unfold State.removeMember
  rw [hship]
  split
  · exact h
  · exact ((h.modShip n _).modLot l _).report _

theorem State.SameFloor.removeMembers (h : u.SameFloor t) (n : ShipNo) (out : List LotSlot) (cause : RemovalCause) :
    (out.foldl (fun s l => s.removeMember n l cause) u).SameFloor (out.foldl (fun s l => s.removeMember n l cause) t) := by
  induction out generalizing u t with
  | nil => exact h
  | cons l out ih => exact ih (h.removeMember n l cause)

/-! ## OPEN_SHIP (R138) -/

theorem ShipKind.ofCode_above {k : Nat} (h : 1 < k) : ShipKind.ofCode? k = none := by
  unfold ShipKind.ofCode?
  split
  case h_3 => rfl
  all_goals omega

/-- The two codes of a kind. -/
theorem ShipKind.ofCode_of {kind : Byte} (h : kind.toNat ≤ 1) :
    ShipKind.ofCode? kind.toNat = some (if kind = 0 then .normal else .deviation) := by
  rcases Nat.le_one_iff_eq_zero_or_eq_one.mp h with e | e
  · obtain rfl : kind = 0 := BitVec.eq_of_toNat_eq e
    rfl
  · obtain rfl : kind = 1 := BitVec.eq_of_toNat_eq e
    rfl

/-- OPEN_SHIP by its kind and the lowest free record. -/
theorem actOpenShip_of {kind : Byte} {k : ShipKind} (hk : ShipKind.ofCode? kind.toNat = some k) (customer : Word)
    (auto : Byte) (s : State) :
    ((∀ n, s.ship n ≠ none) → actOpenShip kind customer auto s = refuse .noRoom s) ∧
    ∀ n, s.ship n = none → (∀ m : ShipNo, m < n → s.ship m ≠ none) → actOpenShip kind customer auto s =
      (s.setShip n (some { customer := customer, kind := k, auto := auto ≠ 0, state := .opened, lots := [],
                           releasedSecond := none }), Answer.withDetail .done (number n)) := by
  unfold actOpenShip
  rw [hk]
  dsimp only
  exact ⟨fun hfull => by rw [firstFree_none (v := s.ships) hfull],
    fun n hfree hbelow => by rw [firstFree_some (v := s.ships) hfree hbelow]⟩

/-! ## ADD_TO_SHIP (R139) -/

theorem shipAndLot_outside (h : ship = 0 ∨ 32 < ship.toNat ∨ 512 ≤ lot.toNat) :
    ofNumber? 32 ship.toNat = none ∨ ofIndex? 512 lot.toNat = none := by
  rcases h with h | h | h
  · exact .inl (ofNumber_outside (.inl h))
  · exact .inl (ofNumber_outside (.inr h))
  · exact .inr (ofIndex_outside h)

theorem actAddToShip_badArg (h : ship = 0 ∨ 32 < ship.toNat ∨ 512 ≤ lot.toNat) (s : State) :
    actAddToShip ship lot s = refuseWith .badArg 0 s := by
  have hout := shipAndLot_outside h
  unfold actAddToShip
  split
  · next hn hl => simp [hn, hl] at hout
  · rfl

theorem actAddToShip_missing (hn : ship.toNat = number n) (hl : lot.toNat = l.val)
    (h : s.ship n = none ∨ s.lot l = none) : actAddToShip ship lot s = refuseWith .notFound 0 s := by
  unfold actAddToShip
  rw [ofNumber_number n hn, ofIndex_val l hl]
  dsimp only
  cases ho : s.ship n with
  | none => rfl
  | some o => rw [h.resolve_left (by simp [ho])]

/-- A lot that joins the end of an order's list (R135, R139). -/
def State.joined (s : State) (n : ShipNo) (o : Ship) (l : LotSlot) (x : Lot) : State :=
  (s.setShip n (some { o with lots := o.lots ++ [l] })).setLot l (some { x with ship := some n })

theorem State.joined_ship (s : State) (n : ShipNo) (o : Ship) (l : LotSlot) (x : Lot) :
    (s.joined n o l x).ship n = some { o with lots := o.lots ++ [l] } :=
  (State.ship_setShip s n n _).trans (if_pos rfl)

theorem State.joined_lot (s : State) (n : ShipNo) (o : Ship) (l m : LotSlot) (x : Lot) :
    (s.joined n o l x).lot m = if m = l then some { x with ship := some n } else s.lot m :=
  State.lot_setLot (s.setShip n _) l m _

/-- A membership does not bear on readiness (R136). -/
theorem State.joined_readyAt (hx : s.lot l = some x) : (s.joined n o l x).readyAt m = s.readyAt m := by
  by_cases e : m = l
  · unfold State.readyAt
    rw [State.joined_lot, if_pos e, e, hx]
    rfl
  · exact State.readyAt_congr ((State.joined_lot s n o l m x).trans (if_neg e))

/-- ADD_TO_SHIP of a lot in the table to an order in use, by the sequence of R139. -/
theorem actAddToShip_of (hn : ship.toNat = number n) (hl : lot.toNat = l.val) (ho : s.ship n = some o)
    (hx : s.lot l = some x) :
    let ended : Prop := x.state = .scrapped ∨ x.state = .released ∨ x.empty = true
    (o.state = .released → actAddToShip ship lot s = refuseWith .wrongState 0 s) ∧
    (o.state = .opened → ended → actAddToShip ship lot s = refuseWith .wrongState x.state.code s) ∧
    (o.state = .opened → ¬ ended → ∀ m, x.ship = some m → actAddToShip ship lot s = refuseWith .inUse (number m) s) ∧
    (o.state = .opened → ¬ ended → x.ship = none → actAddToShip ship lot s =
      if 16 ≤ o.lots.length then refuseWith .noRoom 0 s
      else if x.deviation = true ∧ o.kind = .normal then refuseWith .deviation 0 s
      else ((s.joined n o l x).examineAuto n,
        Answer.withDetail .done (((s.joined n o l x).examineAuto n).releasedFlag n))) := by
  have hjoin : ((s.modShip n fun o => { o with lots := o.lots ++ [l] }).modLot l fun x => { x with ship := some n }) =
      s.joined n o l x := by
    rw [State.modShip_of ho]
    exact State.modLot_of (s := s.setShip n _) hx _
  unfold actAddToShip
  rw [ofNumber_number n hn, ofIndex_val l hl]
  dsimp only
  rw [ho]
  dsimp only
  rw [hx]
  dsimp only
  rw [hjoin]
  refine ⟨fun h => if_pos h, fun h he => ?_, fun h he m hm => ?_, fun h he hnone => ?_⟩
  · rw [if_neg (by simp [h]), if_pos he]
  · rw [if_neg (by simp [h]), if_neg he, hm]
  · rw [if_neg (by simp [h]), if_neg he, hnone]
    rfl

/-- Settles O53. -/
theorem shipOrdersAreOpenedAndFilled : Obligations.ShipOrdersAreOpenedAndFilled := by
  unfold Obligations.ShipOrdersAreOpenedAndFilled
  intro s slot ht
  have hfloor := State.SameFloor.takeSlot s slot
  refine ⟨fun kind customer auto => ⟨fun hk => ?_, fun hk hfull => ?_, fun n hk hfree hbelow => ?_⟩,
    fun ship lot => ⟨fun h => answers_refuseWith rfl ht (actAddToShip_badArg h _), fun n l hn hl =>
      ⟨fun h => answers_refuseWith rfl ht (actAddToShip_missing hn hl (by simpa using h)), ?_⟩⟩⟩
  · refine answers_refuse rfl ht ?_
    unfold actOpenShip
    rw [ShipKind.ofCode_above hk]
  · exact answers_refuse rfl ht ((actOpenShip_of (ShipKind.ofCode_of hk) customer auto _).1 (by simpa using hfull))
  · exact answers_doneWith rfl ht (Acts.openShip kind customer auto _)
      ((actOpenShip_of (ShipKind.ofCode_of hk) customer auto _).2 n (by simpa using hfree) (by simpa using hbelow))
      (hfloor.setShip n _)
  intro o x ho hx ended
  let v := (s.takeSlot slot).joined n o l x
  have hx' : (s.takeSlot slot).lot l = some x := (s.takeSlot_lot slot l).trans hx
  obtain ⟨hreleased, hended, huse, hadds⟩ := actAddToShip_of hn hl ((s.takeSlot_ship slot n).trans ho) hx'
  refine ⟨fun h => answers_refuseWith rfl ht (hreleased h), fun h he => answers_refuseWith rfl ht (hended h he),
    fun m h he hm => answers_refuseWith rfl ht (huse h he m hm), fun hopen he hnone => ?_⟩
  have hact := hadds hopen he hnone
  refine ⟨fun hfull => ?_, fun hroom hdev hkind => ?_, fun hroom hkind => ?_⟩
  · exact answers_refuseWith rfl ht (hact.trans (if_pos hfull))
  · exact answers_refuseWith rfl ht (hact.trans ((if_neg (by omega)).trans (if_pos ⟨hdev, hkind⟩)))
  intro ready joined
  rw [if_neg (by omega), if_neg (by rcases hkind with h | h <;> simp [h])] at hact
  have hship : v.ship n = some { o with lots := o.lots ++ [l] } := State.joined_ship _ n o l x
  have hready (m : LotSlot) : v.readyAt m = s.readyAt m := by
    rw [State.joined_readyAt hx', State.takeSlot_readyAt]
  have hall : ready ↔ ∀ m ∈ o.lots ++ [l], v.readyAt m = true := by
    simp only [ready, hready, List.forall_mem_append, State.readyAt_iff, List.forall_mem_singleton, hx]
    simp [and_comm]
  refine ⟨fun hor => ?_, fun ha hr => ?_⟩
  · have hleaves : v.examineAuto n = v := by
      refine State.examineAuto_leaves hship (hor.imp id fun h => .inr ?_)
      simpa using mt hall.mpr h
    have hflag : v.releasedFlag n = 0 := (State.releasedFlag_of hship).trans (if_neg (by simp [hopen]))
    rw [hleaves, hflag] at hact
    exact answers_doneWith rfl ht (Acts.addToShip ship lot _) hact ((hfloor.setShip n _).setLot l _)
  · have h := State.examineAuto_releases hship hopen ha (by simp) (hall.mp hr)
    rw [h.flag] at hact
    refine ⟨_, answers_doneWith rfl ht (Acts.addToShip ship lot _) hact (.refl _), ?_, fun m hm => ?_⟩
    · exact (h.ship n).trans ((if_pos rfl).trans (by rw [← s.takeSlot_ft slot]; rfl))
    · rw [h.lot m, if_pos hm]
      rw [State.joined_lot, State.takeSlot_lot]
      exact congrArg _ (State.joined_lot s n o l m x).symm

/-! ## REMOVE_FROM_SHIP and CANCEL_SHIP (R140, R141) -/

theorem actRemoveFromShip_badArg (h : ship = 0 ∨ 32 < ship.toNat ∨ 512 ≤ lot.toNat) (s : State) :
    actRemoveFromShip ship lot s = refuse .badArg s := by
  have hout := shipAndLot_outside h
  unfold actRemoveFromShip
  split
  · next hn hl => simp [hn, hl] at hout
  · rfl

theorem actRemoveFromShip_missing (hn : ship.toNat = number n) (hl : lot.toNat = l.val) (h : s.ship n = none) :
    actRemoveFromShip ship lot s = refuse .notFound s := by
  unfold actRemoveFromShip
  rw [ofNumber_number n hn, ofIndex_val l hl]
  dsimp only
  rw [h]

/-- REMOVE_FROM_SHIP of a lot number in range from an order in use. -/
theorem actRemoveFromShip_of (hn : ship.toNat = number n) (hl : lot.toNat = l.val) (ho : s.ship n = some o) :
    actRemoveFromShip ship lot s =
      if o.state = .released then refuse .wrongState s
      else if l ∉ o.lots then refuse .notFound s
      else ((s.removeMember n l .removed).examineAuto n,
        Answer.withDetail .done (((s.removeMember n l .removed).examineAuto n).releasedFlag n)) := by
  unfold actRemoveFromShip
  rw [ofNumber_number n hn, ofIndex_val l hl]
  dsimp only
  rw [ho]

theorem actCancelShip_badArg (h : ship = 0 ∨ 32 < ship.toNat) (s : State) :
    actCancelShip ship s = refuse .badArg s := by
  unfold actCancelShip
  rw [ofNumber_outside h]

theorem actCancelShip_missing (hn : ship.toNat = number n) (h : s.ship n = none) :
    actCancelShip ship s = refuse .notFound s := by
  unfold actCancelShip
  rw [ofNumber_number n hn]
  dsimp only
  rw [h]

/-- An order cancelled (R141). -/
def State.cancelled (s : State) (n : ShipNo) (o : Ship) : State :=
  (o.lots.foldl (fun s l => s.removeMember n l .cancelled) s).setShip n none

/-- CANCEL_SHIP of an order in use. -/
theorem actCancelShip_of (hn : ship.toNat = number n) (ho : s.ship n = some o) :
    actCancelShip ship s =
      if o.state = .released then refuse .wrongState s
      else (s.cancelled n o, Answer.withDetail .done o.lots.length) := by
  unfold actCancelShip
  rw [ofNumber_number n hn]
  dsimp only
  rw [ho]
  rfl

/-- The end of a membership does not bear on readiness (R136). -/
theorem State.TakenOut.readyAt {out : List LotSlot} (h : s.TakenOut n o cause out t) (m : LotSlot) :
    t.readyAt m = s.readyAt m := by
  unfold State.readyAt
  rw [h.lot]
  by_cases e : m ∈ out
  · rw [if_pos e]
    cases s.lot m <;> rfl
  · rw [if_neg e]

/-- One member taken out. -/
theorem State.takenOut_one (ho : s.ship n = some o) (l : LotSlot) (cause : RemovalCause) :
    s.TakenOut n o cause [l] (s.removeMember n l cause) := State.takenOut_foldl ho cause [l]

theorem State.TakenOut.ship_one (h : s.TakenOut n o cause [l] t) :
    t.ship n = some { o with lots := o.lots.erase l } := by
  rw [h.ship, if_pos rfl, List.diff_cons, List.diff_nil]

/-- Settles O54. -/
theorem membersLeaveTheirOrder : Obligations.MembersLeaveTheirOrder := by
  unfold Obligations.MembersLeaveTheirOrder
  intro s slot ship lot ht
  have hfloor := State.SameFloor.takeSlot s slot
  refine ⟨fun h => ⟨answers_refuse rfl ht (actRemoveFromShip_badArg (h.imp id .inl) _),
      answers_refuse rfl ht (actCancelShip_badArg h _)⟩,
    fun h => answers_refuse rfl ht (actRemoveFromShip_badArg (.inr (.inr h)) _),
    fun n l hn hl => ⟨fun hnone => ?_, ?_⟩⟩
  · have hnone' : (s.takeSlot slot).ship n = none := (s.takeSlot_ship slot n).trans hnone
    exact ⟨answers_refuse rfl ht (actRemoveFromShip_missing hn hl hnone'),
      answers_refuse rfl ht (actCancelShip_missing hn hnone')⟩
  intro o ho
  have ho' : (s.takeSlot slot).ship n = some o := (s.takeSlot_ship slot n).trans ho
  have hremove := actRemoveFromShip_of hn hl ho'
  have hcancel := actCancelShip_of hn ho'
  refine ⟨fun h => ⟨answers_refuse rfl ht (hremove.trans (if_pos h)), answers_refuse rfl ht (hcancel.trans (if_pos h))⟩,
    fun hopen => ?_⟩
  rw [if_neg (by simp [hopen])] at hremove hcancel
  let v := (s.takeSlot slot).removeMember n l .removed
  have hv : (s.takeSlot slot).TakenOut n o .removed [l] v := State.takenOut_one ho' l .removed
  have hready (m : LotSlot) : v.readyAt m = s.readyAt m := by rw [hv.readyAt, State.takeSlot_readyAt]
  refine ⟨fun hl => answers_refuse rfl ht (hremove.trans (if_pos hl)), fun x hmem hx hor => ?_,
    fun hmem _ ha hne hall => ?_, ?_⟩
  · have hleaves : v.examineAuto n = v := by
      refine State.examineAuto_leaves hv.ship_one ?_
      rcases hor with h | h | ⟨m, hm, h⟩
      · exact .inl h
      · exact .inr (.inl h)
      · refine .inr (.inr ⟨m, hm, Bool.eq_false_iff.mpr fun k => ?_⟩)
        obtain ⟨y, hy, hr⟩ := State.readyAt_iff.mp ((hready m).symm.trans k)
        exact h y hy hr
    have hflag : v.releasedFlag n = 0 := (State.releasedFlag_of hv.ship_one).trans (if_neg (by simp [hopen]))
    have hact := hremove.trans (if_neg (not_not.mpr hmem))
    rw [hleaves, hflag] at hact
    refine answers_doneWith rfl ht (Acts.removeFromShip ship lot _) hact ?_
    rw [← List.length_erase_of_mem hmem, ← State.modLot_of (s := s.setShip n _) hx fun y => { y with ship := none },
      ← State.removeMember_of ho]
    exact hfloor.removeMember n l .removed
  · have hr (m : LotSlot) (hm : m ∈ o.lots.erase l) : v.readyAt m = true := by
      obtain ⟨y, -, hy, hr⟩ := hall m hm
      exact (hready m).trans (State.readyAt_iff.mpr ⟨y, hy, hr⟩)
    have h := State.examineAuto_releases hv.ship_one hopen ha hne hr
    have hact := hremove.trans (if_neg (not_not.mpr hmem))
    rw [h.flag] at hact
    have hlot (m : LotSlot) (hm : m ≠ l) : v.lot m = s.lot m := by
      rw [hv.lot, if_neg (by simpa using hm), State.takeSlot_lot]
    refine ⟨_, answers_doneWith rfl ht (Acts.removeFromShip ship lot _) hact (.refl _), ?_, ?_, fun m hm => ?_⟩
    · rw [h.ship, if_pos rfl, hv.keeps.ft, State.takeSlot_ft]
    · have hout : l ∉ o.lots.erase l := fun k => by
        obtain ⟨_, hne, -⟩ := hall l k
        exact hne rfl
      rw [h.lot, if_neg hout, hv.lot, if_pos (by simp), State.takeSlot_lot]
    · obtain ⟨_, hne, -⟩ := hall m hm
      rw [h.lot, if_pos hm, hlot m hne]
  · have h := State.takenOut_foldl ho .cancelled o.lots
    have hu : (s.cancelled n o).SameFloor ((s.takeSlot slot).cancelled n o) :=
      (hfloor.removeMembers n o.lots .cancelled).setShip n none
    refine ⟨_, answers_doneWith rfl ht (Acts.cancelShip ship _) hcancel hu, ?_, fun m => ?_, h.lot,
      h.records (List.Subperm.refl _)⟩
    · exact congrArg (State.setShip n none) h.rest
    · refine (State.ship_setShip _ n m none).trans ?_
      rw [h.ship]
      by_cases e : m = n <;> simp [e]

end Sys2Proof.Machine
end

section
/-! SUPPORT. RELEASE_SHIP (R143 to R145), and the content of the RELEASE record (Table 8-3). -/

namespace Sys2Proof.Machine

variable {s u : State} {n : ShipNo} {o : Ship} {slot : BoardSlot} {ship mode : Byte}
variable {manner : ReleaseManner}

/-! ## The content of a RELEASE record (Table 8-3) -/

/-- The bin counts outside a pass set. -/
theorem LotStep.failTotal_eq (pass : BitVec 16) (st : LotStep) :
    st.failTotal pass = ((List.finRange 16).map fun b => if pass.getLsbD b.val then 0 else st.bins[b]).sum := by
  have hbit (b : Fin 16) : (~~~ pass).toNat.testBit (0 + b.val) = !pass.getLsbD b.val := by
    rw [Nat.zero_add, ← BitVec.getLsbD, BitVec.getLsbD_not, decide_eq_true b.isLt, Bool.true_and]
  rw [LotStep.failTotal, maskSum_eq_sum]
  refine congrArg List.sum (List.map_congr_left fun b _ => ?_)
  rw [hbit]
  cases pass.getLsbD b.val <;> rfl

theorem State.releaseContent_eq (s : State) (n : ShipNo) (o : Ship) (x : Lot) :
    s.releaseContent n o x =
      let last := x.step x.steps.length
      let inSet (st : LotStep) (b : Bin) : Bool := (s.recipe st.recipe).passSet.getLsbD b.val
      { lotNumber := x.lotNumber, ship := n, customer := o.customer, passSet := (s.recipe last.recipe).passSet,
        bins := last.bins, released := ((List.finRange 16).map fun b => if inSet last b then last.bins[b] else 0).sum,
        start := x.startQuantity,
        totalFail := (x.steps.map fun st => ((List.finRange 16).map fun b => if inSet st b then 0 else st.bins[b]).sum).sum,
        totalLoss := (x.steps.map LotStep.loss).sum, deviation := x.deviation, stepCount := x.steps.length } := by
  unfold State.releaseContent
  simp only [LotStep.gradeTotal_eq, LotStep.failTotal_eq]
  rfl

/-! ## RELEASE_SHIP (R143) -/

theorem ReleaseManner.ofCode_above {k : Nat} (h : 1 < k) : ReleaseManner.ofCode? k = none := by
  unfold ReleaseManner.ofCode?
  split
  case h_3 => rfl
  all_goals omega

/-- The two modes of RELEASE_SHIP. -/
theorem ReleaseManner.ofCode_of (h : mode.toNat ≤ 1) :
    ReleaseManner.ofCode? mode.toNat = some (if mode = 0 then .all else .readyOnly) := by
  rcases Nat.le_one_iff_eq_zero_or_eq_one.mp h with e | e
  · obtain rfl : mode = 0 := BitVec.eq_of_toNat_eq e
    rfl
  · obtain rfl : mode = 1 := BitVec.eq_of_toNat_eq e
    rfl

theorem actReleaseShip_badArg (h : ship = 0 ∨ 32 < ship.toNat ∨ 1 < mode.toNat) (s : State) :
    actReleaseShip ship mode s = refuseWith .badArg 0 s := by
  unfold actReleaseShip
  rcases h with h | h | h
  · rw [ofNumber_outside (.inl h)]
  · rw [ofNumber_outside (.inr h)]
  · rw [ReleaseManner.ofCode_above h]
    split
    · next e => cases e
    · rfl

theorem actReleaseShip_missing (hn : ship.toNat = number n) (hm : ReleaseManner.ofCode? mode.toNat = some manner)
    (h : s.ship n = none) : actReleaseShip ship mode s = refuseWith .notFound 0 s := by
  unfold actReleaseShip
  rw [ofNumber_number n hn, hm]
  dsimp only
  rw [h]

theorem actReleaseShip_released (hn : ship.toNat = number n) (hm : ReleaseManner.ofCode? mode.toNat = some manner)
    (ho : s.ship n = some o) (h : o.state = .released) : actReleaseShip ship mode s = refuseWith .wrongState 0 s := by
  unfold actReleaseShip
  rw [ofNumber_number n hn, hm]
  dsimp only
  rw [ho]
  exact if_pos h

/-- The members of an order that are not ready, taken out, and the others released (R143, R144). -/
def State.releaseReadyOf (s : State) (n : ShipNo) (o : Ship) (manner : ReleaseManner) : State :=
  let out := o.lots.filter fun m => !s.readyAt m
  (out.foldl (fun s l => s.removeMember n l .notReady) s).releaseOrder n manner out.length

/-- RELEASE_SHIP of an order in use that is not released. -/
theorem actReleaseShip_of (hn : ship.toNat = number n) (hm : ReleaseManner.ofCode? mode.toNat = some manner)
    (ho : s.ship n = some o) (hopen : o.state = .opened) :
    (o.lots = [] → actReleaseShip ship mode s = refuseWith .notReady 512 s) ∧
    (∀ before l after, o.lots = before ++ l :: after → (∀ m ∈ before, s.readyAt m = true) → s.readyAt l = false →
      manner ≠ .readyOnly → actReleaseShip ship mode s = refuseWith .notReady l.val s) ∧
    (∀ l rest, o.lots = l :: rest → (∀ m ∈ o.lots, s.readyAt m = false) → manner = .readyOnly →
      actReleaseShip ship mode s = refuseWith .notReady l.val s) ∧
    ((∃ m ∈ o.lots, s.readyAt m = true) → manner = .readyOnly ∨ (∀ m ∈ o.lots, s.readyAt m = true) →
      actReleaseShip ship mode s =
        (s.releaseReadyOf n o manner, Answer.withDetail .done (o.lots.filter s.readyAt).length)) := by
  have hlive : ¬ o.state = .released := by simp [hopen]
  unfold actReleaseShip
  rw [ofNumber_number n hn, hm]
  dsimp only
  rw [ho]
  dsimp only
  simp only [if_neg hlive]
  have hcount := o.lots.length_eq_length_filter_add s.readyAt
  refine ⟨fun h => ?_, fun before l after h hb hl hmanner => ?_, fun l rest h hall hmanner => ?_,
    fun ⟨m, hmem, hr⟩ hor => ?_⟩
  · rw [h]
  · have hunready : o.lots.filter (fun l => !s.readyAt l) = l :: after.filter fun l => !s.readyAt l := by
      have hnone : before.filter (fun l => !s.readyAt l) = [] := by simpa using hb
      rw [h, List.filter_append, hnone]
      simp [hl]
    split
    · next e => simp [e] at h
    · rw [if_neg hmanner, hunready]
  · have hunready : o.lots.filter (fun l => !s.readyAt l) = o.lots :=
      List.filter_eq_self.mpr fun m hm => by simp [hall m hm]
    rw [h]
    dsimp only
    rw [if_pos hmanner, if_pos (by rw [← h, hunready])]
  · have hpos : 0 < (o.lots.filter s.readyAt).length := List.length_pos_of_mem (List.mem_filter.mpr ⟨hmem, hr⟩)
    unfold State.releaseReadyOf
    split
    · next e => simp [e] at hmem
    · by_cases hmanner : manner = .readyOnly
      · rw [if_pos hmanner, if_neg (by omega), hmanner]
        dsimp only
        rw [show o.lots.length - (o.lots.filter fun l => !s.readyAt l).length = (o.lots.filter s.readyAt).length by omega]
      · have hall := hor.resolve_left hmanner
        have hunready : o.lots.filter (fun l => !s.readyAt l) = [] := by simpa using hall
        rw [if_neg hmanner, List.filter_eq_self.mpr hall, hunready]
        rfl

/-- What RELEASE_SHIP leaves of the order `o` of number `n` (R143 to R145). -/
structure State.ReadyReleased (s : State) (n : ShipNo) (o : Ship) (manner : ReleaseManner) (u : State) : Prop where
  ship : u.ship n =
    some { o with lots := o.lots.filter s.readyAt, state := .released, releasedSecond := some s.ft.clock }
  ready : ∀ m ∈ o.lots, s.readyAt m = true → u.lot m = (s.lot m).map fun y => { y with state := .released }
  unready : ∀ m ∈ o.lots, s.readyAt m = false → u.lot m = (s.lot m).map fun y => { y with ship := none }
  others : ∀ m, m ∉ o.lots → u.lot m = s.lot m
  records : o.lots.Nodup → u.ru =
    s.releaseRecords n o manner (o.lots.filter fun m => !s.readyAt m).length (s.pairs (o.lots.filter s.readyAt))
      (s.ru.removals s.ft.clock n .notReady o.kind o.lots.length (o.lots.filter fun m => !s.readyAt m))

theorem State.releaseReadyOf_released (ho : s.ship n = some o) (manner : ReleaseManner) :
    s.ReadyReleased n o manner (s.releaseReadyOf n o manner) := by
  have hv := State.takenOut_foldl ho .notReady (o.lots.filter fun m => !s.readyAt m)
  unfold State.releaseReadyOf
  dsimp only
  generalize (o.lots.filter fun m => !s.readyAt m).foldl (fun s l => s.removeMember n l .notReady) s = v at hv
  have hkeeps := hv.keeps
  have hship : v.ship n = some { o with lots := o.lots.filter s.readyAt } := by
    rw [hv.ship, if_pos rfl, diff_filter_not]
  have hlot (m : LotSlot) (hr : m ∈ o.lots → s.readyAt m = true) : v.lot m = s.lot m := by
    rw [hv.lot, if_neg fun k => ?_]
    obtain ⟨hm, hn⟩ := List.mem_filter.mp k
    simp [hr hm] at hn
  have hu := State.releaseOrder_released hship (fun m hm => by
    obtain ⟨hmem, hr⟩ := List.mem_filter.mp hm
    rw [hv.readyAt, hr]) manner (o.lots.filter fun m => !s.readyAt m).length
  refine ⟨?_, fun m hm hr => ?_, fun m hm hr => ?_, fun m hm => ?_, fun hd => ?_⟩
  · rw [hu.ship, if_pos rfl, hkeeps.ft]
  · rw [hu.lot, if_pos (List.mem_filter.mpr ⟨hm, hr⟩), hlot m fun _ => hr]
  · rw [hu.lot, if_neg (by simp [hr]), hv.lot, if_pos (List.mem_filter.mpr ⟨hm, by simp [hr]⟩)]
  · rw [hu.lot, if_neg (by simp [hm]), hlot m fun h => absurd h hm]
  · have hpairs : v.pairs (o.lots.filter s.readyAt) = s.pairs (o.lots.filter s.readyAt) :=
      List.filterMap_congr fun m hm => by rw [hlot m fun _ => (List.mem_filter.mp hm).2]
    rw [hu.records (hd.filter _), hkeeps.releaseRecords, hv.records List.filter_sublist.subperm]
    exact congrArg (fun ps => s.releaseRecords n o manner _ ps _) hpairs

/-! The floor is the same whether the slot is taken before or after. -/

theorem Keeps.takeSlot (s : State) (slot : BoardSlot) : Keeps s (s.takeSlot slot) :=
  ⟨s.takeSlot_ports slot, s.takeSlot_limitSets slot, by rw [State.takeSlot_lm], s.takeSlot_ft slot,
    by rw [State.takeSlot_de]⟩

@[simp] theorem State.takeSlot_releaseRecords (s : State) (slot : BoardSlot) :
    (s.takeSlot slot).releaseRecords = s.releaseRecords := (Keeps.takeSlot s slot).releaseRecords

@[simp] theorem State.takeSlot_pairs (s : State) (slot : BoardSlot) (ls : List LotSlot) :
    (s.takeSlot slot).pairs ls = s.pairs ls := by simp [State.pairs]

theorem State.ReadyReleased.of_takeSlot (h : (s.takeSlot slot).ReadyReleased n o manner u) : s.ReadyReleased n o manner u := by
  have hready : (s.takeSlot slot).readyAt = s.readyAt := funext (s.takeSlot_readyAt slot)
  obtain ⟨h1, h2, h3, h4, h5⟩ := h
  simp only [hready, State.takeSlot_ft, State.takeSlot_lot, State.takeSlot_releaseRecords, State.takeSlot_pairs,
    State.takeSlot_ru] at h1 h2 h3 h4 h5
  exact ⟨h1, h2, h3, h4, h5⟩

end Sys2Proof.Machine
end

section
/-! SUPPORT. Auto-release within DISPOSE and DISPOSE_LOT (R112, R114, R115, R137, R142, R146). -/

namespace Sys2Proof.Machine

variable {s t v : State} {l m : LotSlot} {x y : Lot} {n : ShipNo} {o : Ship} {g : Hold} {slot : BoardSlot}
variable {lots : List LotSlot} {leaves : Ship → Bool}

/-! ## The order of a last unready lot -/

/-- The OPEN order `o` of number `n` has the auto-release flag, and its members but the lot `x` in slot `l` are ready. -/
structure State.Awaits (s : State) (n : ShipNo) (o : Ship) (l : LotSlot) (x : Lot) : Prop where
  order : s.ship n = some o
  opened : o.state = .opened
  auto : o.auto = true
  nodup : o.lots.Nodup
  mem : l ∈ o.lots
  lot : s.lot l = some x
  member : x.ship = some n
  others : ∀ m ∈ o.lots, m ≠ l → s.readyAt m = true

/-- The order is RELEASED with these lots, as they stood in `s` but for their states and for what lot `l` has gone through. -/
def State.Shipped (s : State) (n : ShipNo) (o : Ship) (l : LotSlot) (lots : List LotSlot) (t : State) : Prop :=
  t.ship n = some { o with lots := lots, state := .released, releasedSecond := some s.ft.clock } ∧
  ∀ m ∈ lots, (m ≠ l → t.lot m = (s.lot m).map fun y => { y with state := .released }) ∧
    ∃ y, t.lot m = some y ∧ y.state = .released

theorem State.Awaits.takeSlot (h : s.Awaits n o l x) (slot : BoardSlot) : (s.takeSlot slot).Awaits n o l x :=
  ⟨(s.takeSlot_ship slot n).trans h.order, h.opened, h.auto, h.nodup, h.mem, (s.takeSlot_lot slot l).trans h.lot, h.member,
    by simpa using h.others⟩

theorem State.Shipped.of_takeSlot (h : (s.takeSlot slot).Shipped n o l lots t) : s.Shipped n o l lots t := by
  simpa only [State.Shipped, State.takeSlot_ft, State.takeSlot_lot] using h

/-- The readiness of a lot in slot `l`, when it alone has changed. -/
theorem State.Awaits.readyAt (h : s.Awaits n o l x) (hother : ∀ m, m ≠ l → v.lot m = s.lot m) (hy : v.lot l = some y)
    (hr : y.Ready) : ∀ m ∈ o.lots, v.readyAt m = true := by
  intro m hm
  by_cases e : m = l
  · rw [e]
    exact (State.readyAt_of hy).mpr hr
  · rw [State.readyAt_congr (hother m e)]
    exact h.others m hm e

/-- An examination releases the order once those of its lots that are left are ready. -/
theorem State.Awaits.examineAuto (h : s.Awaits n o l x) (hft : v.ft = s.ft) (hother : ∀ m, m ≠ l → v.lot m = s.lot m)
    (hship : v.ship n = some { o with lots := lots }) (hne : lots ≠ []) (hr : ∀ m ∈ lots, v.readyAt m = true) :
    s.Shipped n o l lots (v.examineAuto n) := by
  have hu := State.examineAuto_releases hship h.opened h.auto hne hr
  refine ⟨?_, fun m hm => ⟨fun e => ?_, ?_⟩⟩
  · rw [hu.ship, if_pos rfl, hft]
  · rw [hu.lot, if_pos hm, hother m e]
  · obtain ⟨y, hy, -⟩ := State.readyAt_iff.mp (hr m hm)
    exact ⟨{ y with state := .released }, by rw [hu.lot, if_pos hm, hy]; rfl, rfl⟩

/-- The notice of the last lot, once it is ready, releases the order with its records (R137, R146). -/
theorem State.Awaits.notice (h : s.Awaits n o l x) (hft : v.ft = s.ft) (hother : ∀ m, m ≠ l → v.lot m = s.lot m)
    (hship : v.ship n = some o) (hy : v.lot l = some y) (hn : y.ship = some n) (hr : y.Ready) :
    s.Shipped n o l o.lots (v.notice l) ∧ v.ShipReleased n o .auto 0 (v.notice l) := by
  have hall := h.readyAt hother hy hr
  have hne : o.lots ≠ [] := List.ne_nil_of_mem h.mem
  rw [State.notice_examines hy hn hr]
  exact ⟨h.examineAuto hft hother hship hne hall, State.examineAuto_releases hship h.opened h.auto hne hall⟩

/-! ## CONTINUE of the last hold (R112) -/

/-- The records of a release do not tell the last lot's holds. -/
theorem State.Awaits.records_of_holds (h : s.Awaits n o l x) (hk : Keeps s v) (hother : ∀ m, m ≠ l → v.lot m = s.lot m)
    {hs : List Nat} (hy : v.lot l = some { x with holds := hs }) (u : ReportUnit) :
    v.releaseRecords n o .auto 0 (v.pairs o.lots) u = s.releaseRecords n o .auto 0 (s.pairs o.lots) u := by
  rw [hk.releaseRecords]
  refine State.releaseRecords_congr ?_ .auto 0 u
  unfold State.pairs
  rw [List.map_filterMap, List.map_filterMap]
  refine List.filterMap_congr fun m _ => ?_
  by_cases e : m = l
  · rw [e, hy, h.lot]
    rfl
  · rw [hother m e]

/-- CONTINUE of the last hold of a lot in no cell releases the order that waits for it (R112, R137, R146). -/
theorem State.Awaits.continueHold (h : s.Awaits n o g.lot x) (ho : g.origin ≠ .reconcile)
    (hr : ({ x with holds := x.holds.erase g.id } : Lot).Ready) (hapart : s.insertionOf g.lot = none) :
    s.Shipped n o g.lot o.lots (s.continueHold g) ∧
      (s.continueHold g).ru = s.releaseRecords n o .auto 0 (s.pairs o.lots)
        (s.ru.append s.ft.clock (.holdCleared g.lot g.id g.origin g.holdClass .continue)) := by
  let v := (s.cleared g x).triggerPass
  have hcontinue : s.continueHold g = v.notice g.lot := by
    unfold State.continueHold
    rw [State.clearHold_cleared h.lot]
    dsimp only
    rw [if_neg ho, State.syncHold_apart (s := s.cleared g x) hapart]
  have hy : v.lot g.lot = some { x with holds := x.holds.erase g.id } := State.cleared_lot g x s
  have hother (m : LotSlot) (hm : m ≠ g.lot) : v.lot m = s.lot m := (State.lot_setLot _ g.lot m _).trans (if_neg hm)
  obtain ⟨hshipped, hreleased⟩ := h.notice (v := v) rfl hother h.order hy h.member hr
  rw [hcontinue]
  exact ⟨hshipped,
    (hreleased.records h.nodup).trans (h.records_of_holds (v := v) ⟨rfl, rfl, rfl, rfl, rfl⟩ hother hy v.ru)⟩

/-! ## What a disposition of a lot does with its order (R142) -/

theorem State.expel_member (hn : x.ship = some n) (ho : s.ship n = some o) (hopen : o.state = .opened) (cause : RemovalCause) :
    s.expel l x cause leaves = if leaves o then s.removeMember n l cause else s := by
  unfold State.expel
  rw [hn]
  dsimp only
  rw [ho]
  simp [hopen]

theorem State.examineFormer_of (hn : x.ship = some n) (ho : s.ship n = some o) :
    s.examineFormer l x = if l ∈ o.lots then s else s.examineAuto n := by
  unfold State.examineFormer
  rw [hn]
  dsimp only
  rw [ho]

/-- The deletion of a lot's own holds leaves the other lots. -/
theorem State.clearHolds_lot_ne (hown : ∀ g ∈ s.holdsOf x, g.lot = l) (hm : m ≠ l) (d : Disposition) :
    (s.clearHolds l x d).lot m = s.lot m := by
  obtain ⟨-, -, hlot⟩ := State.foldl_clearHold (d := d) (l := m) (s.holdsOf x) s
  have hnone : (s.holdsOf x).filter (fun g => g.lot = m) = [] :=
    List.filter_eq_nil_iff.mpr fun g hg => by simpa [hown g hg] using Ne.symm hm
  have hid : Lot.without m (s.holdsOf x) = id := by
    funext y
    unfold Lot.without
    rw [hnone]
    rfl
  rw [hid, Option.map_id] at hlot
  unfold State.clearHolds
  dsimp only
  split
  · exact ((State.lot_modLot _ l m _).trans (if_neg hm)).trans hlot
  · exact hlot

/-! ## SCRAP (R114) -/

/-- A scrap of the last unready lot takes it out of the order, which the other lots then release (R114, R142, R146). -/
theorem State.Awaits.scrap (h : s.Awaits n o l x) (hd : s.CellStatesDerived) (hown : ∀ g ∈ s.holdsOf x, g.lot = l)
    (hne : o.lots.erase l ≠ []) : s.Shipped n o l (o.lots.erase l) (s.scrap l) := by
  -- the holds deleted, the lot SCRAPPED, and its insertion given up
  obtain ⟨hclear, -, hfreed⟩ := State.clearHolds_of h.lot .scrap
  let a := s.clearHolds l x .scrap
  let b := a.setLotState l .scrapped
  let e := (b.abortLot l).syncHold l
  have hb : b.lot l = some { s.freedLot l x with state := .scrapped } :=
    (State.lot_setLotState hfreed _).trans (by rw [if_neg (by simp)])
  obtain ⟨hfloor, -⟩ := State.abortLot_scrapped ((hclear.toCellsStand.setLotState l .scrapped).derived hd) hb rfl
  have hother (m : LotSlot) (hm : m ≠ l) : e.lot m = s.lot m := by
    rw [hfloor.lot, State.setLotState_lot_ne _ _ hm, State.clearHolds_lot_ne hown hm]
  have hship : e.ship n = some o := by
    rw [hfloor.ship, State.ship, State.setLotState_ships, hclear.ships]
    exact h.order
  -- the membership ended, and the order examined
  have hexpel : e.expel l x .scrapped (fun _ => true) = e.removeMember n l .scrapped :=
    (State.expel_member h.member hship h.opened .scrapped).trans (if_pos rfl)
  have hout := State.takenOut_one hship l .scrapped
  generalize e.removeMember n l .scrapped = r at hexpel hout
  let w := r.triggerPass
  have hw : w.ship n = some { o with lots := o.lots.erase l } := hout.ship_one
  have hscrap : s.scrap l = w.examineAuto n := by
    have hformer : w.examineFormer l x = w.examineAuto n :=
      (State.examineFormer_of h.member hw).trans (if_neg h.nodup.not_mem_erase)
    rw [← hformer]
    unfold State.scrap
    rw [h.lot]
    show ((e.expel l x .scrapped fun _ => true).triggerPass).examineFormer l x = _
    rw [hexpel]
  have hother' (m : LotSlot) (hm : m ≠ l) : w.lot m = s.lot m := by
    rw [← hother m hm]
    exact (hout.lot m).trans (if_neg (by simpa using hm))
  have hft : w.ft = s.ft := by
    rw [← ((Moves.refl s).scrap l).ft, hscrap]
    exact ((Moves.refl w).examineAuto n).ft.symm
  rw [hscrap]
  refine h.examineAuto hft hother' hw hne fun m hm => ?_
  have hml : m ≠ l := fun k => h.nodup.not_mem_erase (k ▸ hm)
  rw [State.readyAt_congr (hother' m hml)]
  exact h.others m (List.mem_of_mem_erase hm) hml

/-! ## DOWNGRADE (R115) -/

/-- A downgrade of the last unready lot leaves it in an order of kind DEVIATION, which it then releases (R115, R137). -/
theorem State.Awaits.downgrade (h : s.Awaits n o l x) (hkind : o.kind = .deviation) (hholds : x.holds = [])
    (hr : ({ x with quarantined := false } : Lot).Ready) (hsteps : ∀ st ∈ x.steps, st.state ≠ .opened)
    (h1 : 1 ≤ x.current) (h2 : x.current ≤ x.steps.length) (hapart : s.insertionOf l = none) :
    s.Shipped n o l o.lots (s.downgrade l) := by
  -- the quarantine cleared and the lot DEVIATION
  obtain ⟨hclear, -, hfreed⟩ := State.clearHolds_of h.lot .downgrade
  let a := (s.clearHolds l x .downgrade).modLot l fun x => { x with deviation := true }
  have hown : s.holdsOf x = [] := by simp [State.holdsOf, hholds]
  have ha : a.lot l = some { x with quarantined := false, deviation := true } := by
    refine (State.lot_modLot _ l l _).trans ?_
    rw [if_pos rfl, hfreed, State.freedLot, hown]
    rfl
  have hmove : s.HoldsMove a := hclear.modLot l _
  have hother (m : LotSlot) (hm : m ≠ l) : a.lot m = s.lot m :=
    ((State.lot_modLot _ l m _).trans (if_neg hm)).trans (State.clearHolds_lot_ne (by simp [hown]) hm _)
  have hship : a.ship n = some o := by
    rw [State.ship, hmove.ships]
    exact h.order
  -- the order keeps the lot, and its step stands
  have hexpel : a.expel l x .downgraded (fun o => o.kind = .normal) = a :=
    (State.expel_member h.member hship h.opened .downgraded).trans (if_neg (by simp [hkind]))
  have hstep : x.step x.current ∈ x.steps := by
    have hlt : x.current - 1 < x.steps.length := by omega
    simp [Lot.step, hlt]
  have hclose : a.closeAsItStands l x = a := by
    unfold State.closeAsItStands
    rw [if_neg (by simp [LotStep.exhausted, hsteps _ hstep]), if_neg fun k => ?_]
    have hcomplete : x.state = .complete := hr.1
    simp [hcomplete] at k
  have hsync : a.syncHold l = a := State.syncHold_apart ((State.insertionOf_congr hmove.insertion l).trans hapart)
  -- the notice
  obtain ⟨hstate, hempty, -, -, hgap⟩ := hr
  obtain ⟨hshipped, hreleased⟩ := h.notice (v := a.triggerPass) hmove.ft hother hship ha h.member
    ⟨hstate, hempty, hholds, rfl, hgap⟩
  have hformer : (a.triggerPass.notice l).examineFormer l x = a.triggerPass.notice l :=
    (State.examineFormer_of h.member hshipped.1).trans (if_pos h.mem)
  have hdowngrade : s.downgrade l = a.triggerPass.notice l := by
    rw [← hformer]
    unfold State.downgrade
    rw [h.lot]
    show (((((a.expel l x .downgraded fun o => o.kind = .normal).closeAsItStands l x).syncHold l).triggerPass).notice
      l).examineFormer l x = _
    rw [hexpel, hclose, hsync]
  rw [hdowngrade]
  exact hshipped

end Sys2Proof.Machine
end

section
/-! SUPPORT. The END that completes a lot (R75 to R78), up to the notice of its readiness (R137). -/

namespace Sys2Proof.Machine

variable {s v w : State} {l m : LotSlot} {x y : Lot} {c : CellNo} {i j : Insertion} {f : EndFrame} {k : Nat}
variable {g g' : LotStep → LotStep} {st : LotStep}

/-! ## The last step of a lot changed -/

theorem Lot.modStep_modStep : (x.modStep k g).modStep k g' = x.modStep k (g' ∘ g) := by
  simp [Lot.modStep, List.modify_modify_eq]

/-- No step stands after the last, whose units_in would follow (R6). -/
theorem Lot.changeStep_last (h : x.steps.length = k) (recipes : Vector (Option Recipe) 128) :
    x.changeStep recipes k g = x.modStep k g := by
  have hlength : (x.modStep k g).steps.length ≤ k + 1 - 1 := by rw [Lot.modStep_length]; omega
  unfold Lot.changeStep Lot.syncUnitsIn
  exact congrArg (fun steps => { x.modStep k g with steps := steps }) (List.modify_eq_self hlength)

/-- A lot without gap units before its last step has none once that step has none. -/
theorem Lot.gap_modStep (hk : x.steps.length = k) (h : ∀ p, 1 ≤ p → p < k → (x.step p).gap = 0)
    (hg : (g (x.step k)).gap = 0) : ∀ st ∈ (x.modStep k g).steps, st.gap = 0 := by
  intro st hst
  obtain ⟨p, hp, rfl⟩ := List.mem_iff_getElem.mp hst
  have hlt : p < k := by rw [Lot.modStep_length] at hp; omega
  have hstep : (x.modStep k g).steps[p] = (x.modStep k g).step (p + 1) := by
    simp [Lot.step, List.getElem?_eq_getElem hp]
  rw [hstep]
  by_cases e : p + 1 = k
  · rw [e, Lot.step_modStep (by omega) (by omega), hg]
  · rw [Lot.step_modStep_ne (by omega) (by omega) e, h (p + 1) (by omega) (by omega)]

/-! ## One lot changed -/

/-- The ship orders stand, and the lots but that in slot `l`, whose record has become `y`. -/
structure State.LotAlone (s : State) (l : LotSlot) (y : Lot) (v : State) : Prop where
  ships : v.ships = s.ships
  lot : v.lot l = some y
  others : ∀ m, m ≠ l → v.lot m = s.lot m

/-- An update that leaves the lots and the ship orders. -/
theorem State.LotAlone.next (h : s.LotAlone l y v) (hl : w.lm = v.lm) (hs : w.ships = v.ships) : s.LotAlone l y w := by
  have hlot (m : LotSlot) : w.lot m = v.lot m := by rw [State.lot, hl]; rfl
  exact ⟨hs.trans h.ships, (hlot l).trans h.lot, fun m hm => (hlot m).trans (h.others m hm)⟩

theorem State.LotAlone.changeLast (h : s.LotAlone l y v) (hk : y.steps.length = k) (g : LotStep → LotStep) :
    s.LotAlone l (y.modStep k g) (v.changeStep l k g) :=
  ⟨h.ships, (State.lot_changeStep h.lot).trans (by rw [Lot.changeStep_last hk]), fun m hm =>
    ((State.lot_modLot v l m _).trans (if_neg hm)).trans (h.others m hm)⟩

/-- The closure of a lot's last step, with units in its pass set: the lot is COMPLETE (R16, R17). -/
theorem State.LotAlone.closeStep (h : s.LotAlone l y v) (hc : y.current = k) (hk : y.steps.length = k)
    (hg : y.grades v.lm.recipes ≠ 0) :
    s.LotAlone l { y.modStep k (fun st => { st with state := .closed }) with tail := 0, state := .complete }
      (v.closeStep l) := by
  have hclosed := (h.changeLast hk fun st => { st with state := .closed })
  have hgoes : y.goesOn v.lm.recipes = ({ y.modStep k (fun st => { st with state := .closed }) with tail := 0 }, .complete) := by
    rw [Lot.goesOn_last hg (by omega), Lot.closeCurrent, hc, Lot.changeStep_last hk]
  rw [State.closeStep_eq h.lot, hc, hgoes]
  let u := (v.changeStep l k fun st => { st with state := .closed }).setLot l
    (some { y.modStep k (fun st => { st with state := .closed }) with tail := 0 })
  have hu : u.lot l = some { y.modStep k (fun st => { st with state := .closed }) with tail := 0 } :=
    (State.lot_setLot _ l l _).trans (if_pos rfl)
  refine ⟨(State.setLotState_ships u l .complete).trans h.ships, (State.lot_setLotState hu .complete).trans ?_, fun m hm => ?_⟩
  · rw [if_neg (by simp)]
  · rw [State.setLotState_lot_ne u .complete hm]
    exact ((State.lot_setLot _ l m _).trans (if_neg hm)).trans (hclosed.others m hm)

/-! ## The final evaluation of a limit set without entries (R85, R94) -/

theorem State.monitorClose_unlimited (hj : v.insertion c = some j) (hy : v.lot j.lot = some y)
    (he : (v.limitSet (y.step j.step).limitSet).entries = []) :
    (v.monitorClose c).lm = v.lm ∧ (v.monitorClose c).ships = v.ships := by
  have hquiet (p : Fin 8) : (v.results .final j (y.step j.step))[p].1 ≠ .tripped := by
    rw [State.results_getElem]
    unfold examineAt
    rw [he]
    simp
  unfold State.monitorClose
  rw [hj]
  dsimp only
  rw [hy]
  dsimp only
  split
  · exact ⟨rfl, rfl⟩
  · rw [State.evaluate_eq hj hy, State.handTrips_none hquiet]
    obtain ⟨ru, e⟩ := v.recorded_eq .final c j.lot (v.results .final j (y.step j.step))
    rw [e]
    exact ⟨rfl, rfl⟩

/-! ## The cell at the end (R32, R33, R78) -/

/-- A cell without insertion and reservation enters a state without touching lots, holds and orders (Table 2-6). -/
theorem State.enterCellState_leaves (hi : s.insertion c = none) (hr : s.reservationOf c = none) (new : CellState) :
    s.FloorMoves (s.enterCellState c new) ∧ (s.enterCellState c new).insertion c = none := by
  have hquiet (cause : CancelCause) : (s.suspend c).cancelFor c cause = s :=
    (congrArg (State.cancelFor c cause) (State.suspend_vacant hi)).trans (State.cancelFor_none hr _)
  cases new with
  | parked =>
    show s.FloorMoves ((s.modCell c _).suspend c) ∧ ((s.modCell c _).suspend c).insertion c = none
    rw [State.suspend_vacant (s := s.modCell c _) hi]
    exact ⟨(State.FloorMoves.refl s).modCell c _, hi⟩
  | silent =>
    show s.FloorMoves ((s.suspend c).cancelFor c .silent) ∧ _
    exact ⟨by rw [hquiet]; exact .refl s, (congrArg (State.insertion · c) (hquiet .silent)).trans hi⟩
  | mismatch =>
    show s.FloorMoves ((s.suspend c).cancelFor c .mismatch) ∧ _
    exact ⟨by rw [hquiet]; exact .refl s, (congrArg (State.insertion · c) (hquiet .mismatch)).trans hi⟩
  | idle => exact ⟨(State.FloorMoves.refl s).triggerPass, hi⟩
  | detached => exact ⟨.refl s, hi⟩
  | busy => exact ⟨.refl s, hi⟩
  | reserved => exact ⟨.refl s, hi⟩
  | outOfService => exact ⟨.refl s, hi⟩

theorem State.deriveCell_leaves (hi : s.insertion c = none) (hr : s.reservationOf c = none) (cause : CellCause) :
    s.FloorMoves (s.deriveCell c cause) ∧ (s.deriveCell c cause).insertion c = none := by
  unfold State.deriveCell
  dsimp only
  split
  · exact ⟨.refl s, hi⟩
  · let u := (s.modCell c fun x => { x with state := s.derivedState c }).report
      (.cellState c (s.cell c).state (s.derivedState c) cause)
    have moved : s.FloorMoves u := ((State.FloorMoves.refl s).modCell c _).report _
    obtain ⟨h1, h2⟩ := State.enterCellState_leaves (s := u) hi hr (s.derivedState c)
    exact ⟨moved.trans h1, h2⟩

/-- The end of a close is the notice of the lot's readiness, on a floor whose lots and orders stand (R78, R137). -/
theorem State.finishClose_notice (hr : v.reservationOf c = none) (j : Insertion) (outcome : RunOutcome) :
    ∃ w, v.finishClose c j outcome = w.notice j.lot ∧ v.FloorMoves w ∧ w.insertion c = none := by
  have hi : (v.clearInsertion c).insertion c = none := (State.insertion_setInsertion v c c none).trans (if_pos rfl)
  have moved : v.FloorMoves (v.clearInsertion c) := ⟨rfl, rfl, rfl⟩
  obtain ⟨h1, h2⟩ := State.deriveCell_leaves (s := v.clearInsertion c) hi hr .insertion
  exact ⟨_, rfl, (moved.trans h1).report _, h2⟩

/-! ## The END of the last run (R75 to R78) -/

/-- The END `f` completes the lot `x` of the insertion `i` in cell `c`: the last step's totals are told and account for it, with
units in the pass set, no loss, no limits and no gap. -/
structure State.Completes (s : State) (c : CellNo) (i : Insertion) (x : Lot) (f : EndFrame) : Prop where
  insertion : s.insertion c = some i
  hasRun : i.takenBy.hasRun = true
  lot : s.lot i.lot = some x
  state : x.state = .inTest
  current : x.current = i.step
  last : i.step = x.steps.length
  first : 1 ≤ i.step
  full : x.empty = false
  noHolds : x.holds = []
  free : x.quarantined = false
  unreserved : s.reservationOfLot i.lot = none
  cellFree : s.reservationOf c = none
  opened : (x.step i.step).state = .opened
  unlimited : (s.limitSet (x.step i.step).limitSet).entries = []
  seen : f.highest.toNat ≤ i.unitsSeen
  noLoss : f.loss = 0
  allowed : (x.step i.step).loss ≤ (x.step i.step).lossAllowance
  gap : (x.step i.step).gap = i.runGap
  told : (f.totals.toList.map BitVec.toNat).sum = i.unitsTested + i.runGap
  accounted : ((x.step i.step).adopted i.runBins f).toList.sum + (x.step i.step).loss = (x.step i.step).unitsIn
  passes : ∃ b : Bin, (s.recipe (x.step i.step).recipe).passSet.getLsbD b.val = true ∧
    ((x.step i.step).adopted i.runBins f)[b] ≠ 0
  earlier : ∀ p, 1 ≤ p → p < i.step → (x.step p).gap = 0

/-- A step with the bin counts told by the tap, and without the run's gap units (R75). -/
def LotStep.told (bins : Vector Nat 16) (gap : Nat) (st : LotStep) : LotStep := { st with bins := bins, gap := st.gap - gap }

section Told

variable (bins : Vector Nat 16) (gap : Nat) (st : LotStep)

@[simp] theorem LotStep.told_limitSet : (st.told bins gap).limitSet = st.limitSet := rfl
@[simp] theorem LotStep.told_lossAllowance : (st.told bins gap).lossAllowance = st.lossAllowance := rfl
@[simp] theorem LotStep.told_state : (st.told bins gap).state = st.state := rfl
@[simp] theorem LotStep.told_unitsIn : (st.told bins gap).unitsIn = st.unitsIn := rfl
@[simp] theorem LotStep.told_bins : (st.told bins gap).bins = bins := rfl
@[simp] theorem LotStep.told_gap : (st.told bins gap).gap = st.gap - gap := rfl
@[simp] theorem LotStep.told_loss : (st.told bins gap).loss = st.loss := rfl

end Told

/-- The last step with the totals of the END. -/
abbrev LotStep.complete (st : LotStep) (i : Insertion) (f : EndFrame) : LotStep := st.told (st.adopted i.runBins f) i.runGap

theorem LotStep.addLoss_zero (st : LotStep) : st.addLoss 0 = st := rfl

/-- What the run's counts leave of the lot alone: its last step changed to the totals of the END. -/
def State.TotalsTold (s : State) (i : Insertion) (x : Lot) (f : EndFrame) (v : State) : Prop :=
  ∃ g, s.LotAlone i.lot (x.modStep i.step g) v ∧ g (x.step i.step) = (x.step i.step).complete i f

/-- The run up to its final evaluation: the totals are adopted, and nothing is missed or lost (R75, R76). -/
theorem State.Completes.counted (h : s.Completes c i x f) :
    ∃ v b d, ((s.catchUp c f.highest.toNat).reconcile c f).takeLoss c f.loss.toNat = v ∧ v.limitSets = s.limitSets ∧
      s.InRun v c x { i.run with runGap := b, runBins := d } ((x.step i.step).complete i f) ∧ s.TotalsTold i x f v := by
  have hk : x.steps.length = i.step := h.last.symm
  have hrun : s.InRun s c x i.run (x.step i.step) :=
    ⟨.refl s, ⟨i, h.insertion, rfl⟩, x, h.lot, ⟨rfl, rfl, rfl, rfl, rfl⟩, rfl⟩
  have hcatch : s.catchUp c f.highest.toNat = s := (State.catchUp_eq h.insertion _).trans (if_pos h.seen)
  have hzero : f.loss.toNat = 0 := by simp [h.noLoss]
  -- the totals
  have hadopt := (hrun.reconcile_eq f).trans (if_pos h.told)
  obtain ⟨b, d, hreconcile⟩ := hrun.reconcile h.unreserved h.first h.last.le (adopted := true) (iff_of_true rfl h.told)
  have halone : s.LotAlone i.lot (x.modStep i.step (LotStep.told ((x.step i.step).adopted i.runBins f) i.runGap))
      (s.reconcile c f) :=
    ((State.LotAlone.mk (s := s) rfl h.lot fun _ _ => rfl).changeLast hk _).next (by rw [hadopt]; rfl) (by rw [hadopt]; rfl)
  have hlimits : (s.reconcile c f).limitSets = s.limitSets := by
    rw [hadopt]
    rfl
  -- the loss
  have hloss : (s.reconcile c f).takeLoss c 0 = (s.reconcile c f).changeStep i.lot i.step (LotStep.addLoss 0) := by
    refine (hreconcile.takeLoss_eq 0).trans ((if_neg (Nat.not_lt_zero _)).trans ?_)
    rw [Nat.zero_min]
    rfl
  have hcomplete (st : LotStep) : LotStep.addLoss 0 { st with
      bins := if true = true then st.adopted i.run.runBins f else st.bins
      gap := if true = true then st.gap - i.run.runGap else st.gap } = st.complete i f := rfl
  have hrunLoss := hreconcile.changeStep h.first h.last.le (LotStep.addLoss 0)
  rw [hcomplete] at hrunLoss
  have hboth := halone.changeLast (by rw [Lot.modStep_length, hk]) (LotStep.addLoss 0)
  rw [Lot.modStep_modStep] at hboth
  rw [hcatch, hzero]
  exact ⟨_, b, d, hloss, hlimits, hrunLoss, _, hboth, LotStep.addLoss_zero _⟩

theorem LotStep.gradeTotal_ne_zero {pass : BitVec 16} (h : ∃ b : Bin, pass.getLsbD b.val = true ∧ st.bins[b] ≠ 0) :
    st.gradeTotal pass ≠ 0 := by
  obtain ⟨b, hpass, hb⟩ := h
  rw [LotStep.gradeTotal_eq]
  intro e
  have hzero := List.sum_eq_zero_iff.mp e _ (List.mem_map.mpr ⟨b, List.mem_finRange b, rfl⟩)
  rw [if_pos hpass] at hzero
  exact hb hzero

/-- The run's close from its final evaluation on: the run entry, the closure of the step, and the cell (R77, R78). -/
theorem State.Completes.settled (h : s.Completes c i x f) :
    ∃ w j, s.takeEnd c f = (((w.changeStep i.lot i.step (LotStep.closeLast w.ft.clock .closed)).closeStep i.lot).setHistory c
        j).finishClose c j .closed ∧ j.lot = i.lot ∧ s.Near w ∧ s.TotalsTold i x f w := by
  obtain ⟨v, b, d, hv, hlimits, hrun, g, halone, hg⟩ := h.counted
  obtain ⟨j, hj, hjrun⟩ := hrun.run
  have hjlot : j.lot = i.lot := congrArg RunRecord.lot hjrun
  have hjstep : j.step = i.step := congrArg RunRecord.step hjrun
  have hmod : (x.modStep i.step g).step i.step = (x.step i.step).complete i f :=
    (Lot.step_modStep h.first h.last.le).trans hg
  have hvlot : v.lot j.lot = some (x.modStep i.step g) := by rw [hjlot]; exact halone.lot
  obtain ⟨hlm, hships⟩ := State.monitorClose_unlimited hj hvlot (by
    rw [hjstep, hmod, LotStep.told_limitSet, State.limitSet, State.limitSet?, hlimits]
    exact h.unlimited)
  have hmonitor := hrun.monitorClose h.unreserved
  obtain ⟨j', hj', hjrun'⟩ := hmonitor.run
  have hunscrapped : v.scrappedAt j.lot = false := by
    have hstate : (x.modStep i.step g).state = .inTest := h.state
    unfold State.scrappedAt
    rw [hvlot]
    simp [hstate]
  have hsettled := (State.takeEnd_of h.insertion h.hasRun hv hj).2 hunscrapped j' hj'
  generalize v.monitorClose c = w at hlm hships hmonitor hj' hsettled
  have hopened : ((x.step i.step).complete i f).state = .opened := by rw [LotStep.told_state, h.opened]
  have hallowed : ¬ ((x.step i.step).complete i f).lossAllowance < ((x.step i.step).complete i f).loss := by
    rw [LotStep.told_lossAllowance, LotStep.told_loss]
    exact not_lt.mpr h.allowed
  have haccounted : True ↔ ((x.step i.step).complete i f).accounted = ((x.step i.step).complete i f).unitsIn := by
    rw [LotStep.accounted, LotStep.binSum, LotStep.told_bins, LotStep.told_gap, LotStep.told_loss,
      LotStep.told_unitsIn, h.gap, Nat.sub_self, Nat.add_zero]
    exact iff_of_true trivial h.accounted
  have hsettle := hmonitor.settleRun_eq (closed := True) hjrun' h.state h.current h.first h.last.le hopened haccounted
  rw [if_pos trivial] at hsettle
  have hwhole (e : State) : State.settleLot c i.lot (x.state = .scrapped) True ((x.step i.step).complete i f) e =
      e.closeStep i.lot := (if_pos trivial).trans (if_neg hallowed)
  have hnext := halone.next hlm hships
  have hlot' : j'.lot = i.lot := congrArg RunRecord.lot hjrun'
  refine ⟨w, j', ?_, hlot', hmonitor.near, ⟨g, hnext, hg⟩⟩
  exact hsettled.trans (hsettle.trans (congrArg (fun e => (State.setHistory c j' e).finishClose c j' .closed) (hwhole _)))

/-- The END leaves the lot ready for release, before the notice of it (R77, R78, R137). -/
theorem State.Completes.takeEnd (h : s.Completes c i x f) :
    ∃ w y, s.takeEnd c f = w.notice i.lot ∧ s.LotAlone i.lot y w ∧ w.insertion c = none ∧ y.Ready ∧ y.ship = x.ship := by
  have hk : x.steps.length = i.step := h.last.symm
  obtain ⟨v, j, hend, hjlot, hnear, g, halone, hg⟩ := h.settled
  -- the run entry, and the closure of the step
  let entry : LotStep → LotStep := LotStep.closeLast v.ft.clock .closed
  obtain ⟨e, he⟩ : ∃ e, e = v.changeStep i.lot i.step entry := ⟨_, rfl⟩
  have hentry := halone.changeLast (by rw [Lot.modStep_length, hk]) entry
  have hnear := hnear.trans ((State.CellsStand.refl v).changeStep i.lot i.step entry).near
  rw [Lot.modStep_modStep, ← he] at hentry
  rw [← he] at hnear hend
  have hgrades : (x.modStep i.step (entry ∘ g)).grades e.lm.recipes ≠ 0 := by
    have hcurrent : (x.modStep i.step (entry ∘ g)).current = i.step := h.current
    unfold Lot.grades
    rw [hcurrent, Lot.step_modStep h.first h.last.le, Function.comp_apply, hg, hnear.recipes]
    exact LotStep.gradeTotal_ne_zero h.passes
  have hclosed := hentry.closeStep h.current (by rw [Lot.modStep_length, hk]) hgrades
  have hfree : (e.closeStep i.lot).reservationOf c = none := by
    rw [← h.cellFree]
    unfold State.reservationOf
    exact congrArg _ (hnear.trans ((State.CellsStand.refl e).closeStep i.lot).near).reservations
  -- the cell, and the notice
  generalize e.closeStep i.lot = u at hclosed hfree hend
  obtain ⟨w, hw, hfloor, hgone⟩ := State.finishClose_notice (v := u.setHistory c j) hfree j .closed
  refine ⟨w, _, hend.trans (hw.trans (by rw [hjlot])), hclosed.next hfloor.lm hfloor.ships, hgone,
    ⟨rfl, h.full, h.noHolds, h.free, ?_⟩, rfl⟩
  rw [Lot.modStep_modStep]
  refine Lot.gap_modStep hk h.earlier ?_
  have hgap : (g (x.step i.step)).gap = 0 := by
    rw [hg, LotStep.told_gap, h.gap, Nat.sub_self]
  exact hgap

end Sys2Proof.Machine
end

section
/-! OBLIGATION O55. RELEASE_SHIP and auto-release (R136, R137, R142 to R146). -/

namespace Sys2Proof.Machine

variable {s : State} {l : LotSlot} {x : Lot} {c : CellNo} {i : Insertion} {n : ShipNo} {o : Ship} {slot : BoardSlot}
variable {hold lot : Half} {h : Hold} {f : EndFrame}

/-! ## Auto-release within an action of the floor (R137, R146) -/

/-- The END that completes the last unready lot of an order releases the order (R75 to R78, R137, R146). -/
theorem State.Awaits.takeEnd (h : s.Awaits n o i.lot x) (k : s.Completes c i x f) :
    (s.takeEnd c f).insertion c = none ∧ s.Shipped n o i.lot o.lots (s.takeEnd c f) := by
  obtain ⟨w, y, hend, halone, hgone, hready, hship⟩ := k.takeEnd
  have hft : w.ft = s.ft := by
    rw [← ((Moves.refl s).takeEnd c f).ft, hend]
    exact ((Moves.refl w).notice i.lot).ft.symm
  have hn : w.ship n = some o := by
    rw [State.ship, halone.ships]
    exact h.order
  rw [hend]
  exact ⟨((State.notice_moves w i.lot).1.insertion c).trans hgone,
    (h.notice hft halone.others hn halone.lot (hship.trans h.member) hready).1⟩

/-- The order waits for its lot while a good frame is heard. -/
theorem State.Awaits.heardIn (h : s.Awaits n o l x) (p : PortNo) (c : CellNo) : (s.heardIn p c).Awaits n o l x :=
  ⟨h.order, h.opened, h.auto, h.nodup, h.mem, h.lot, h.member, h.others⟩

/-- DISPOSE CONTINUE of the last hold of the last unready lot (R112, R137, R146). -/
theorem State.Awaits.dispose (k : s.Awaits n o h.lot x) (ht : s.Takes slot) (h0 : hold ≠ 0)
    (hh : s.hold? hold.toNat = some h) (ha : h.state = .acknowledged) (ho : h.origin ≠ .reconcile)
    (hr : ({ x with holds := x.holds.erase h.id } : Lot).Ready) (hapart : ∀ c i, s.insertion c = some i → i.lot ≠ h.lot) :
    ∃ u, Answers (.dispose slot hold 0) slot s .done none [] u ∧ s.Shipped n o h.lot o.lots u ∧
      u.ru = s.releaseRecords n o .auto 0 (s.pairs o.lots)
        (s.ru.append s.ft.clock (.holdCleared h.lot h.id h.origin h.holdClass .continue)) := by
  have k' := k.takeSlot slot
  have hq : x.quarantined = false := hr.2.2.2.1
  have hact : actDispose hold 0 (s.takeSlot slot) = doneOrder ((s.takeSlot slot).continueHold h) :=
    (actDispose_found (k := .continue) h0 rfl ((s.takeSlot_hold slot _).trans hh) k'.lot).trans
      ((if_neg (by simp [ha])).trans ((if_pos rfl).trans (if_neg (by simp [hq]))))
  obtain ⟨hshipped, hrecords⟩ := k'.continueHold ho hr
    (State.insertionOf_eq_none fun c i hi => hapart c i ((s.takeSlot_insertion slot c).symm.trans hi))
  simp only [State.takeSlot_releaseRecords, State.takeSlot_pairs, State.takeSlot_ru, State.takeSlot_ft] at hrecords
  exact ⟨_, answers_done rfl ht hact (Acts.dispose hold 0 _).toCore (.refl _), hshipped.of_takeSlot, hrecords⟩

/-- DISPOSE_LOT of a quarantined lot without an OPEN hold (R115). -/
theorem actDisposeLot_clear {d : Byte} {k : Disposition} (hd : Disposition.ofLotCode? d.toNat = some k)
    (e : lot.toNat = l.val) (hx : s.lot l = some x) (hq : x.quarantined = true)
    (hnone : ∀ g ∈ s.holdsOf x, g.state ≠ .opened) :
    actDisposeLot lot d s = (if k = .scrap then s.scrap l else s.downgrade l, Answer.withDetail .done 0) :=
  (actDisposeLot_of hd e hx hq).2 (List.find?_eq_none.mpr fun g hg => by simpa using hnone g hg)

/-! ## RELEASE_SHIP and auto-release -/

/-- Settles O55. -/
theorem releaseShipReleasesTheMembers : Obligations.ReleaseShipReleasesTheMembers := by
  unfold Obligations.ReleaseShipReleasesTheMembers
  intro s content released pairs
  have hreleased : released = s.releaseRecords := by
    have hcontent : content = s.releaseContent := funext fun n => funext fun o => funext fun x =>
      (s.releaseContent_eq n o x).symm
    show (fun n o manner out members u => _) = s.releaseRecords
    rw [hcontent]
    rfl
  clear_value released
  subst hreleased
  refine ⟨fun m => State.readyAt_iff, fun slot ship mode ht => ⟨fun h => answers_refuseWith rfl ht (actReleaseShip_badArg h _),
    fun n hn hmode => ⟨fun hnone => ?_, fun o ho => ⟨fun h => ?_, fun hopen => ?_⟩⟩⟩,
    fun n o l x ho hopen hauto hnodup hmem hx hmember hothers hunreserved => ?_⟩
  · exact answers_refuseWith rfl ht
      (actReleaseShip_missing hn (ReleaseManner.ofCode_of hmode) ((s.takeSlot_ship slot n).trans hnone))
  · exact answers_refuseWith rfl ht
      (actReleaseShip_released hn (ReleaseManner.ofCode_of hmode) ((s.takeSlot_ship slot n).trans ho) h)
  · have ho' : (s.takeSlot slot).ship n = some o := (s.takeSlot_ship slot n).trans ho
    obtain ⟨hempty, hall, hnone, hrelease⟩ := actReleaseShip_of hn (ReleaseManner.ofCode_of hmode) ho' hopen
    simp only [State.takeSlot_readyAt] at hall hnone hrelease
    refine ⟨fun h => answers_refuseWith rfl ht (hempty h), fun before l after h hb hl h0 => ?_, fun l rest h hl h1 => ?_,
      fun hsome hor => ?_⟩
    · exact answers_refuseWith rfl ht (hall before l after h hb hl (by simp [h0]))
    · exact answers_refuseWith rfl ht (hnone l rest h hl (by simp [h1]))
    · intro members out
      have hready := (State.releaseReadyOf_released ho' (if mode = 0 then .all else .readyOnly)).of_takeSlot
      have hact := hrelease hsome (hor.imp (fun e => by simp [e]) id)
      have hmembers : o.lots.filter (s.takeSlot slot).readyAt = members :=
        congrArg (o.lots.filter ·) (funext (s.takeSlot_readyAt slot))
      rw [hmembers] at hact
      exact ⟨_, answers_doneWith rfl ht (Acts.releaseShip ship mode _) hact (.refl _), hready.ship, hready.ready,
        hready.unready, hready.others, hready.records⟩
  · intro shipped
    have k : s.Awaits n o l x := ⟨ho, hopen, hauto, hnodup, hmem, hx, hmember, hothers⟩
    refine ⟨fun slot hold h ht h0 hh hlot ha horigin hr hapart => ?_, fun slot lot ht e hq hholds => ⟨fun hd hne _ => ?_,
      fun hkind hnone hr hsteps h1 h2 hapart => ?_⟩, ?_⟩
    · subst hlot
      exact k.dispose ht h0 hh ha horigin hr hapart
    · have hact := actDisposeLot_clear (d := 0) (k := .scrap) rfl e (k.takeSlot slot).lot hq (by
        simpa using fun g hg => (hholds g hg).1)
      exact ⟨_, answers_disposeLot ht hact, ((k.takeSlot slot).scrap (State.takeSlot_derived hd)
        (by simpa using fun g hg => (hholds g hg).2) hne).of_takeSlot⟩
    · have hact := actDisposeLot_clear (d := 1) (k := .downgrade) rfl e (k.takeSlot slot).lot hq (by
        simpa using fun g hg => (hholds g hg).1)
      exact ⟨_, answers_disposeLot ht hact, ((k.takeSlot slot).downgrade hkind hnone hr hsteps h1 h2
        ((s.takeSlot_insertionOf slot l).trans (State.insertionOf_eq_none hapart))).of_takeSlot⟩
    · intro p c address f i hd hlot hrun hstate hcurrent hlast hfirst hfull hnoHolds hfree hcellFree st bins hopened
        hunlimited hseen hloss hallowed hgap htold haccounted hpasses hearlier
      subst hlot
      have hcompletes : (s.heardIn p c).Completes c i x f :=
        { insertion := hd.2.1, hasRun := hrun, lot := hx, state := hstate, current := hcurrent, last := hlast,
          first := hfirst, full := hfull, noHolds := hnoHolds, free := hfree, unreserved := hunreserved,
          cellFree := hcellFree, opened := hopened, unlimited := hunlimited, seen := hseen, noLoss := hloss,
          allowed := hallowed, gap := hgap, told := htold, accounted := haccounted, passes := hpasses,
          earlier := hearlier }
      obtain ⟨hgone, hshipped⟩ := (k.heardIn p c).takeEnd hcompletes
      exact ⟨_, congrArg Host.Outcome.next ((receive_hears hd.1 _).trans (deliver_of hd _)), hgone, hshipped⟩

end Sys2Proof.Machine
end

section
/-! OBLIGATION O56. The floor clock and the dispatch pacer (R147 to R149, log entries 13 to 15). -/

namespace Sys2Proof.Machine

variable {s : State}

theorem State.working_iff : s.working = true ↔ s.os.part ≠ .halted := by
  unfold State.working
  cases s.os.part <;> decide

/-! ## The pacer re-based (R149) -/

/-- The next-firing minute after a notice of `minute` from SET_CLOCK or the wrap (R149). -/
def State.rebasedFiring (s : State) (minute : Nat) : Option Nat :=
  if s.os.part = .halted then s.ft.nextFiring else s.ft.nextFiring.map fun _ => minute + s.de.params.pacer

theorem State.rebasePacer_eq (s : State) :
    s.rebasePacer = { s with ft := { s.ft with nextFiring := s.rebasedFiring s.minute } } := by
  unfold State.rebasePacer State.rebasedFiring
  by_cases h : s.os.part = .halted
  · rw [if_neg fun hw => State.working_iff.mp hw h, if_pos h]
  · rw [if_pos (State.working_iff.mpr h), if_neg h]

/-- The notice of a clock just loaded or wrapped. -/
theorem State.rebasePacer_clock (s : State) (clock : Word) :
    ({ s with ft := { s.ft with clock := clock } } : State).rebasePacer =
      { s with ft := { s.ft with clock := clock, nextFiring := s.rebasedFiring (clock.toNat / 60) } } :=
  State.rebasePacer_eq _

@[simp] theorem State.takeSlot_rebasedFiring (s : State) (slot : BoardSlot) (minute : Nat) :
    (s.takeSlot slot).rebasedFiring minute = s.rebasedFiring minute := by
  unfold State.rebasedFiring
  rw [State.takeSlot_os, State.takeSlot_ft, State.takeSlot_de]

/-! ## SET_CLOCK (R148) -/

/-- The Floor Timer after SET_CLOCK loads `seconds` (R148). -/
def State.timerSet (s : State) (seconds : Word) : FloorTimer :=
  { s.ft with
    clock := seconds
    nextFiring := if seconds.toNat / 60 = s.minute then s.ft.nextFiring else s.rebasedFiring (seconds.toNat / 60) }

theorem actSetClock_eq (seconds : Word) (s : State) :
    actSetClock seconds s = ({ s with ft := s.timerSet seconds }, Answer.withFields (leBytes 4 s.ft.clock.toNat)) := by
  refine Prod.ext ?_ rfl
  unfold actSetClock State.timerSet
  dsimp only
  by_cases h : seconds.toNat / 60 = s.minute
  · rw [if_pos h]
    exact if_pos h
  · rw [if_neg h]
    exact (if_neg h).trans (State.rebasePacer_clock s seconds)

@[simp] theorem State.takeSlot_timerSet (s : State) (slot : BoardSlot) (seconds : Word) :
    (s.takeSlot slot).timerSet seconds = s.timerSet seconds := by
  unfold State.timerSet
  rw [State.takeSlot_ft, State.takeSlot_minute, State.takeSlot_rebasedFiring]

theorem State.SameFloor.setTimer {u t : State} (h : u.SameFloor t) (x : FloorTimer) :
    ({ u with ft := x } : State).SameFloor { t with ft := x } := by
  rw [h.eq]
  exact ⟨rfl, rfl, rfl, rfl, rfl, rfl, rfl, rfl, rfl, rfl⟩

theorem answers_setClock {slot : BoardSlot} (ht : s.Takes slot) (seconds : Word) :
    Answers (.setClock slot seconds) slot s .done none (leBytes 4 s.ft.clock.toNat)
      { s with ft := s.timerSet seconds } := by
  have hact := actSetClock_eq seconds (s.takeSlot slot)
  have hcore := (Acts.setClock seconds (s.takeSlot slot)).toCore
  rw [hact] at hcore
  rw [State.takeSlot_timerSet, State.takeSlot_ft] at hact hcore
  have hlen : (leBytes 4 s.ft.clock.toNat).length ≤ 48 := by
    rw [leBytes_length]
    decide
  exact answers_acted rfl ht hact hcore ((State.SameFloor.takeSlot s slot).setTimer _) hlen

/-! ## A second counted (R147) -/

theorem State.countSecond_wraps (h : s.ft.clock = 4294967295#32) :
    s.countSecond = { s with ft := { s.ft with clock := 0, nextFiring := s.rebasedFiring 0 } } := by
  have hwrap : decide (s.ft.clock = BitVec.allOnes 32) = true := decide_eq_true h
  have hzero : s.ft.clock + 1 = 0 := by rw [h]; rfl
  unfold State.countSecond
  rw [hwrap, hzero]
  exact State.rebasePacer_clock s 0

theorem State.countSecond_grows (h : s.ft.clock ≠ 4294967295#32) :
    s.countSecond = { s with ft := { s.ft with clock := s.ft.clock + 1 } } := by
  have hwrap : decide (s.ft.clock = BitVec.allOnes 32) = false := decide_eq_false h
  unfold State.countSecond
  rw [hwrap]
  rfl

theorem Word.toNat_succ {w : Word} (h : w ≠ 4294967295#32) : (w + 1).toNat = w.toNat + 1 := by
  bv_omega

/-- Short of the wrap, the floor minute changes with the count that follows second 59 of a minute (R147). -/
theorem State.minuteEnds_iff (h : s.ft.clock ≠ 4294967295#32) : s.minuteEnds = true ↔ s.ft.clock.toNat % 60 = 59 := by
  unfold State.minuteEnds State.minute
  rw [Word.toNat_succ h, decide_eq_true_eq]
  omega

/-- The second at its end counted, before the pacer takes a notice. -/
def State.secondCounted (s : State) : State := { s with ft := { s.ft with clock := s.ft.clock + 1, ms := 0 } }

theorem State.secondCounted_minute (h : s.ft.clock ≠ 4294967295#32) (he : s.ft.clock.toNat % 60 = 59) :
    s.secondCounted.minute = s.minute + 1 := by
  have hminute : s.secondCounted.minute = (s.ft.clock + 1).toNat / 60 := rfl
  rw [hminute, Word.toNat_succ h, State.minute]
  omega

theorem State.countWithNotice_grows (h : s.ft.clock ≠ 4294967295#32) : s.countWithNotice =
    if s.ft.clock.toNat % 60 = 59 then s.secondCounted.notifyPacer else s.secondCounted := by
  have hends : (s.minuteEnds && decide (s.ft.clock ≠ BitVec.allOnes 32)) = true ↔ s.ft.clock.toNat % 60 = 59 := by
    have hwrap : s.ft.clock ≠ BitVec.allOnes 32 := h
    rw [decide_eq_true hwrap, Bool.and_true, State.minuteEnds_iff h]
  unfold State.countWithNotice
  rw [State.countSecond_grows h]
  exact if_congr hends rfl rfl

theorem State.countWithNotice_wraps (h : s.ft.clock = 4294967295#32) :
    s.countWithNotice = { s with ft := { s.ft with clock := 0, ms := 0, nextFiring := s.rebasedFiring 0 } } := by
  have hquiet : ¬ (s.minuteEnds && decide (s.ft.clock ≠ BitVec.allOnes 32)) = true := by
    rw [Bool.and_eq_true, decide_eq_true_eq]
    exact fun k => k.2 h
  unfold State.countWithNotice
  rw [State.countSecond_wraps h]
  exact if_neg hquiet

/-! ## The pacer's notice and its firing (R149) -/

/-- A minute notice from counting finds the next-firing minute reached (R149). -/
def State.FiringReached (s : State) : Prop := s.os.part ≠ .halted ∧ ∃ m, s.ft.nextFiring = some m ∧ m ≤ s.minute

theorem State.firingReached_iff :
    (s.working && s.ft.nextFiring.any fun m => m ≤ s.minute) = true ↔ s.FiringReached := by
  rw [Bool.and_eq_true, State.working_iff, State.FiringReached]
  simp [Option.any_eq_true]

theorem State.notifyPacer_reached (h : s.FiringReached) :
    s.notifyPacer = { s with ft := { s.ft with firing := true } } := if_pos (State.firingReached_iff.mpr h)

theorem State.notifyPacer_unreached (h : ¬ s.FiringReached) : s.notifyPacer = s :=
  if_neg fun k => h (State.firingReached_iff.mp k)

/-- The notice of a count that ends a minute, read in the state before the count (R149). -/
theorem State.secondCounted_firingReached (h : s.ft.clock ≠ 4294967295#32) (he : s.ft.clock.toNat % 60 = 59) :
    s.secondCounted.FiringReached ↔ s.os.part ≠ .halted ∧ ∃ m, s.ft.nextFiring = some m ∧ m ≤ s.minute + 1 := by
  unfold State.FiringReached
  rw [State.secondCounted_minute h he]
  rfl

theorem State.firePacer_due (hp : s.os.part ≠ .halted) (hf : s.ft.firing = true) : s.firePacer =
    { s with
      de := { s.de with passPending := true }
      ft := { s.ft with
        firing := false
        nextFiring := s.ft.nextFiring.map fun _ => s.minute + s.de.params.pacer } } :=
  if_pos (State.pacerDue_iff.mpr ⟨State.working_iff.mpr hp, hf⟩)

theorem State.firePacer_quiet (h : s.os.part = .halted ∨ s.ft.firing = false) : s.firePacer = s := by
  refine if_neg fun hdue => ?_
  obtain ⟨hwork, hf⟩ := State.pacerDue_iff.mp hdue
  rcases h with h | h
  · exact State.working_iff.mp hwork h
  · exact Bool.false_ne_true (h.symm.trans hf)

/-! ## MINUTE_NOTICE (R147) -/

theorem exec_minuteNotice_due (h : 1000 ≤ s.ft.ms) : exec .minuteNotice s = .next s.countWithNotice :=
  congrArg Host.Outcome.next (if_pos h)

theorem exec_minuteNotice_quiet (h : s.ft.ms < 1000) : exec .minuteNotice s = .next s :=
  congrArg Host.Outcome.next (if_neg (Nat.not_le.mpr h))

/-- Settles O56. -/
theorem theFloorClockCounts : Obligations.TheFloorClockCounts := by
  unfold Obligations.TheFloorClockCounts
  intro s rebased reached
  refine ⟨fun slot seconds ht => answers_setClock ht seconds, fun hms hclock => ⟨fun hreached => ?_, fun hreached => ?_⟩,
    fun hms hclock => ?_, exec_minuteNotice_quiet, fun hp hf => ?_, fun h => ?_⟩
  · obtain ⟨hp, he, hm⟩ := hreached
    rw [exec_minuteNotice_due hms, State.countWithNotice_grows hclock, if_pos he,
      State.notifyPacer_reached ((State.secondCounted_firingReached hclock he).mpr ⟨hp, hm⟩)]
    rfl
  · rw [exec_minuteNotice_due hms, State.countWithNotice_grows hclock]
    split
    · next he =>
      have hunreached : ¬ s.secondCounted.FiringReached := fun k =>
        have ⟨hp, hm⟩ := (State.secondCounted_firingReached hclock he).mp k
        hreached ⟨hp, he, hm⟩
      rw [State.notifyPacer_unreached hunreached]
      rfl
    · rfl
  · rw [exec_minuteNotice_due hms, State.countWithNotice_wraps hclock]
    rfl
  · exact congrArg Host.Outcome.next (State.firePacer_due hp hf)
  · exact congrArg Host.Outcome.next (State.firePacer_quiet h)

end Sys2Proof.Machine
end

section
/-! OBLIGATIONS O1, O3, O4, O7. Steps, the power-on reset (R157), and scan passes (R159). -/

namespace Sys2Proof.Machine

variable {s : State} {slot : BoardSlot}

/-! ## Steps and the power-on reset (R157) -/

/-- Settles O1. -/
theorem stepRunsTheFrontCommand : Obligations.StepRunsTheFrontCommand := by
  unfold Obligations.StepRunsTheFrontCommand
  intro s c rest
  rfl

/-- Settles O3. -/
theorem resetLeavesThePowerOnValues : Obligations.ResetLeavesThePowerOnValues := by
  unfold Obligations.ResetLeavesThePowerOnValues
  intro s
  have hports (p : PortNo) : (s.port p).winStop < (s.port p).winStart ∧ (s.port p).arbiter = none := by
    rw [State.reset_port]
    exact ⟨by decide, rfl⟩
  have hcells (c : CellNo) :
      (s.cell c).state = .detached ∧ (s.cell c).policy = .endOfIndex ∧ (s.cell c).service = true := by
    rw [State.reset_cell]
    exact ⟨rfl, rfl, rfl⟩
  have hrecipes (r : RecipeNo) : s.recipe? r = none := by simp [s, State.recipe?, State.reset]
  have hsets (n : LimitNo) : s.limitSet? n = none := by simp [s, State.limitSet?, State.reset]
  have hstatus : s.readRegister .status = 0 := by
    simp [s, State.readRegister, State.statusRegister, State.reset, Scanner.initial, ReportUnit.initial,
      ReportUnit.occupancy, ReportUnit.backpressure, Config.backpressureMark, PartState.code, FaultSource.code, fillingCode]
  exact ⟨rfl, rfl, rfl, rfl, hstatus, rfl, rfl, rfl, rfl, rfl, by decide, rfl, rfl, rfl, rfl, rfl, rfl, rfl, rfl, rfl, rfl,
    hrecipes, State.reset_lot, State.reset_insertion, hsets, State.reset_ship, hports, hcells, rfl, rfl, rfl, rfl, rfl, rfl, rfl⟩

/-- Settles O4. -/
theorem powerOnResetRestartsEveryBlock : Obligations.PowerOnResetRestartsEveryBlock := by
  unfold Obligations.PowerOnResetRestartsEveryBlock
  intro s
  have hfloor : ({ State.reset with ru := { State.reset.ru with msi := s.ru.msi } } : State).SameFloor s.powerOn :=
    ⟨rfl, rfl, rfl, rfl, rfl, rfl, rfl, rfl, rfl, rfl⟩
  exact ⟨s.powerOn, rfl, hfloor, rfl, rfl, rfl, rfl⟩

/-! ## Scan passes (R159) -/

/-- Settles O7. -/
theorem scanPassesStartOnTheFlag : Obligations.ScanPassesStartOnTheFlag := by
  unfold Obligations.ScanPassesStartOnTheFlag
  intro s
  refine ⟨fun h => congrArg _ (if_pos h), fun h => congrArg _ (if_neg (by simp [h])), fun h hdue =>
    congrArg _ (if_pos (State.scanPacerDue_iff.mpr ⟨h, hdue⟩)), fun h hpending hroom =>
    congrArg _ (if_pos (State.startsScan_iff.mpr ⟨hpending, h, hroom⟩)), fun hfull => ?_, fun slot o => ⟨fun h => ?_, fun h hfull => ?_⟩⟩
  · exact congrArg _ (if_neg fun h => by have := State.startsScan_iff.mp h; omega)
  · rw [exec_orderCommand, State.takeOrder_unreached h]
  · rw [exec_orderCommand, State.takeOrder_backpressure h (State.backpressure_iff.mpr hfull)]
    rfl

end Sys2Proof.Machine
end

section
/-! OBLIGATION O10. The register window: its offsets, what a write does, and what a read returns (R153, R155, Table 10-1). -/

namespace Sys2Proof.Machine

variable {s : State}

/-! ## Offsets of the window (Table 10-1) -/

theorem Reg.offset_of_ofOffset {k : Nat} {r : Reg} (h : Reg.ofOffset? k = some r) : Reg.offset r = k := by
  unfold Reg.ofOffset? at h
  split at h
  case h_9 => cases h
  all_goals
    cases h
    rfl

/-- No register stands at an offset that is none of the eight. -/
theorem Reg.ofOffset_none {k : Nat} (h : ∀ r : Reg, Reg.offset r ≠ k) : Reg.ofOffset? k = none :=
  Option.eq_none_iff_forall_ne_some.mpr fun r hr => h r (Reg.offset_of_ofOffset hr)

theorem State.windowWrite_offset (s : State) (mem : HostView) (r : Reg) (v : Word) :
    s.windowWrite mem (Reg.offset r) v = some (.registerWrite r v (s.setupRead mem)) := by
  unfold State.windowWrite
  rw [Reg.ofOffset?_offset, Option.map_some]

/-! ## Reads of the registers (R153) -/

theorem PartState.code_le (x : PartState) : x.code ≤ 2 := by cases x <;> decide

theorem FaultSource.code_le (x : FaultSource) : x.code ≤ 4 := by cases x <;> decide

theorem fillingCode_le (x : Option PageId) : fillingCode x ≤ 2 := by
  rcases x with - | (- | -) <;> decide

/-- STATUS as a number: no field runs into the next while the FIFO is within its places (R153, R162). -/
theorem State.statusRegister_toNat (h : s.ru.occupancy ≤ 1024) : s.statusRegister.toNat =
    s.os.part.code + 4 * s.os.faultSource.code + 32 * s.ru.occupancy + 65536 * fillingCode s.ru.filling +
      262144 * (if 800 ≤ s.ru.occupancy then 1 else 0) := by
  have hpart := s.os.part.code_le
  have hsource := s.os.faultSource.code_le
  have hfilling := fillingCode_le s.ru.filling
  have hfull : (if s.ru.backpressure then 1 else 0 : Nat) = if 800 ≤ s.ru.occupancy then 1 else 0 := by
    simp only [show s.ru.backpressure = true ↔ 800 ≤ s.ru.occupancy from State.backpressure_iff]
  have hbit : (if 800 ≤ s.ru.occupancy then 1 else 0 : Nat) ≤ 1 := by split <;> omega
  unfold State.statusRegister
  rw [hfull, BitVec.toNat_ofNat, Nat.mod_eq_of_lt (by omega)]
  omega

theorem getLsbD_causes (x : BitVec 7) (k : Nat) : (x.setWidth 32).getLsbD k = x.getLsbD k := by
  rw [BitVec.getLsbD_setWidth]
  by_cases hk : k < 32
  · simp [hk]
  · simp [hk, BitVec.getLsbD_of_ge x k (by omega)]

/-! ## The setup block's address (R155) -/

/-- SETUP_ADDR with bits 0..5 taken as 0 is the multiple of 64 below. -/
theorem Scanner.setupBlock_toNat (x : Scanner) :
    x.setupBlock.toNat = 64 * ((x.setupHi.toNat * 4294967296 + x.setupLo.toNat) / 64) := by
  have happend : (x.setupHi ++ x.setupLo).toNat = x.setupHi.toNat * 4294967296 + x.setupLo.toNat := by
    rw [BitVec.toNat_append, ← Nat.shiftLeft_add_eq_or_of_lt x.setupLo.isLt, Nat.shiftLeft_eq]
  unfold Scanner.setupBlock
  rw [and_not_63_toNat, happend, Nat.mul_comm]

/-! ## Writes of CONTROL (R153) -/

/-- A write of CONTROL is SOFT_RESET, START and SCAN, each for its bit. -/
theorem exec_writeControl (s : State) (v : Word) (x : Option SetupBytes) :
    ∃ t1 t2 t3, (if v.getLsbD 1 then exec .softReset s else .next s) = .next t1 ∧
      (if v.getLsbD 0 then exec (.start x) t1 else .next t1) = .next t2 ∧
      (if v.getLsbD 2 then exec .scan t2 else .next t2) = .next t3 ∧ exec (.registerWrite .control v x) s = .next t3 :=
  ⟨_, _, _, (apply_ite Host.Outcome.next _ _ _).symm, (apply_ite Host.Outcome.next _ _ _).symm,
    (apply_ite Host.Outcome.next _ _ _).symm, rfl⟩

/-- Settles O10. -/
theorem registerWritesAct : Obligations.RegisterWritesAct := by
  unfold Obligations.RegisterWritesAct
  refine ⟨rfl, fun s v => ⟨fun x => ⟨rfl, rfl, rfl, rfl, rfl, rfl, rfl, exec_writeControl s v x⟩,
    ⟨rfl, rfl, rfl, rfl, rfl, getLsbD_causes _, getLsbD_causes _⟩, State.statusRegister_toNat, fun r => ?_,
    fun k hk => ?_, fun mem => ?_⟩⟩
  · unfold State.readWindow
    rw [Reg.ofOffset?_offset, Option.map_some]
  · unfold State.readWindow
    rw [Reg.ofOffset_none hk, Option.map_none]
  · intro a
    have ha : s.os.setupBlock.toNat = a := s.os.setupBlock_toNat
    clear_value a
    subst ha
    refine ⟨fun b hb => ?_, fun hfail => ?_, fun k hk => ?_⟩
    · have hread : s.setupRead mem = some b := HostView.read_some b hb
      exact ⟨congrArg Instr.start hread, fun r => (s.windowWrite_offset mem r v).trans (by rw [hread])⟩
    · have hread : s.setupRead mem = none := HostView.read_none hfail
      exact ⟨congrArg Instr.start hread, fun r => (s.windowWrite_offset mem r v).trans (by rw [hread])⟩
    · unfold State.windowWrite
      rw [Reg.ofOffset_none hk, Option.map_none]

end Sys2Proof.Machine
end

section
/-! SUPPORT. What an order's owner answers: at most 48 bytes of answer fields, and a refusal leaves the state as it was (R158,
R160). -/

namespace Sys2Proof.Machine

variable {s : State}

/-- An answer given in `s`: its fields fit the 48 bytes of the slot, and an outcome other than DONE and ACCEPTED comes with
the state as it was. -/
structure Acted.Fair (s : State) (r : Acted) : Prop where
  fields : r.2.fields.length ≤ 48
  refused : r.2.outcome ≠ .done → r.2.outcome ≠ .accepted → r.1 = s

theorem Acted.Fair.refuse (o : OrderOutcome) (s : State) : Acted.Fair s (refuse o s) := ⟨Nat.zero_le _, fun _ _ => rfl⟩

theorem Acted.Fair.refuseWith (o : OrderOutcome) (d : Nat) (s : State) : Acted.Fair s (refuseWith o d s) :=
  ⟨Nat.zero_le _, fun _ _ => rfl⟩

theorem Acted.Fair.doneOrder (s u : State) : Acted.Fair s (doneOrder u) := ⟨Nat.zero_le _, fun h => absurd rfl h⟩

theorem Acted.Fair.doneWith (s u : State) (d : Nat) : Acted.Fair s (u, Answer.withDetail .done d) :=
  ⟨Nat.zero_le _, fun h => absurd rfl h⟩

theorem Acted.Fair.accepted (s u : State) : Acted.Fair s (u, Answer.plain .accepted) :=
  ⟨Nat.zero_le _, fun _ h => absurd rfl h⟩

theorem Acted.Fair.withFields (s u : State) {bs : List Byte} (h : bs.length ≤ 48) :
    Acted.Fair s (u, Answer.withFields bs) := ⟨h, fun h => absurd rfl h⟩

/-! ## The orders on recipes and lots (chapter 1) -/

theorem Acted.Fair.putRecipe (a : RecipeArgs) (s : State) :
    Acted.Fair s (actPutRecipe a s) := by
  unfold actPutRecipe
  repeat' first
    | exact .refuse _ s
    | exact .doneOrder s _
    | split

theorem Acted.Fair.dropRecipe (recipe : Byte) (s : State) :
    Acted.Fair s (actDropRecipe recipe s) := by
  unfold actDropRecipe
  repeat' first
    | exact .refuse _ s
    | exact .doneOrder s _
    | split

theorem Acted.Fair.admitLot (a : LotArgs) (s : State) :
    Acted.Fair s (actAdmitLot a s) := by
  unfold actAdmitLot
  dsimp only
  repeat' first
    | with_reducible exact .refuseWith _ _ s
    | with_reducible exact .doneWith s _ _
    | split

theorem Acted.Fair.amendLot (lot : Half) (due : Word) (priority : Byte) (s : State) :
    Acted.Fair s (actAmendLot lot due priority s) := by
  unfold actAmendLot
  repeat' first
    | exact .refuse _ s
    | exact .doneOrder s _
    | split

theorem Acted.Fair.retireLot (lot : Half) (s : State) :
    Acted.Fair s (actRetireLot lot s) := by
  unfold actRetireLot
  repeat' first
    | exact .refuse _ s
    | exact .doneOrder s _
    | split

/-! ## The orders on cells and ports (chapters 2 and 3) -/

theorem Acted.Fair.mapCell (cell port tap : Byte) (s : State) :
    Acted.Fair s (actMapCell cell port tap s) := by
  unfold actMapCell
  repeat' first
    | exact .refuseWith _ _ s
    | exact .doneWith s _ _
    | split

theorem Acted.Fair.unmapCell (cell : Byte) (s : State) :
    Acted.Fair s (actUnmapCell cell s) := by
  unfold actUnmapCell
  repeat' first
    | exact .refuse _ s
    | exact .doneOrder s _
    | split

theorem Acted.Fair.freeze (cell action : Byte) (s : State) :
    Acted.Fair s (actFreeze cell action s) := by
  unfold actFreeze
  dsimp only
  repeat' first
    | exact .refuse _ s
    | exact .doneOrder s _
    | split

theorem Acted.Fair.setCellService (cell action policy : Byte) (s : State) :
    Acted.Fair s (actSetCellService cell action policy s) := by
  unfold actSetCellService
  repeat' first
    | exact .refuse _ s
    | exact .doneOrder s _
    | split

theorem Acted.Fair.clearLinkCounts (port : Byte) (s : State) : Acted.Fair s (actClearLinkCounts port s) := by
  unfold actClearLinkCounts
  split
  · exact .refuse _ s
  · exact .withFields s _ (by simp)

/-! ## The orders on insertions (chapter 4) -/

/-- A cell number out of range and a missing insertion are refused; else the order acts. -/
theorem Acted.Fair.withInsertion {act : CellNo → Insertion → State → Acted} (cell : Byte) (s : State)
    (h : ∀ c i, Acted.Fair s (act c i s)) : Acted.Fair s (withInsertion cell act s) := by
  unfold Machine.withInsertion
  split
  · exact .refuse _ s
  · split
    · exact .refuse _ s
    · exact h _ _

theorem Acted.Fair.endRun (cell : Byte) (s : State) : Acted.Fair s (actEndRun cell s) :=
  .withInsertion cell s fun c i => by
    split
    · exact .doneOrder s _
    · exact .doneOrder s _
    · exact .accepted s _

theorem Acted.Fair.pauseCell (cell : Byte) (s : State) : Acted.Fair s (actPauseCell cell s) :=
  .withInsertion cell s fun _ _ => .doneOrder s _

theorem Acted.Fair.resumeCell (cell : Byte) (s : State) : Acted.Fair s (actResumeCell cell s) :=
  .withInsertion cell s fun _ _ => .doneOrder s _

/-! ## The orders on limit sets, holds and reservations (chapters 5 to 7) -/

theorem Acted.Fair.putLimitSet (a : LimitSetArgs) (s : State) :
    Acted.Fair s (actPutLimitSet a s) := by
  unfold actPutLimitSet
  dsimp only
  repeat' first
    | exact .refuseWith _ _ s
    | exact .doneWith s _ _
    | split

theorem Acted.Fair.dropLimitSet (limitSet : Byte) (s : State) :
    Acted.Fair s (actDropLimitSet limitSet s) := by
  unfold actDropLimitSet
  repeat' first
    | exact .refuse _ s
    | exact .doneOrder s _
    | split

theorem Acted.Fair.placeHold (lot : Half) (holdClass : Byte) (reason : Half) (s : State) :
    Acted.Fair s (actPlaceHold lot holdClass reason s) := by
  unfold actPlaceHold
  repeat' first
    | exact .refuse _ s
    | exact .doneWith s _ _
    | split

theorem Acted.Fair.ackHold (hold : Half) (s : State) :
    Acted.Fair s (actAckHold hold s) := by
  unfold actAckHold
  repeat' first
    | exact .refuse _ s
    | exact .doneOrder s _
    | split

theorem Acted.Fair.dispose (hold : Half) (disposition : Byte) (s : State) :
    Acted.Fair s (actDispose hold disposition s) := by
  unfold actDispose
  repeat' first
    | exact .refuse _ s
    | exact .doneOrder s _
    | split

theorem Acted.Fair.disposeLot (lot : Half) (disposition : Byte) (s : State) :
    Acted.Fair s (actDisposeLot lot disposition s) := by
  unfold actDisposeLot
  repeat' first
    | exact .refuseWith _ _ s
    | exact .doneWith s _ _
    | split

/-- A reservation entry that is out of range or missing is refused; else the order acts. -/
theorem Acted.Fair.withReservation {act : CellNo → LotSlot → State → Acted} (cell : Byte) (lot : Half) (s : State)
    (h : ∀ c l, Acted.Fair s (act c l s)) : Acted.Fair s (withReservation cell lot act s) := by
  unfold Machine.withReservation
  split
  · split
    · exact h _ _
    · exact .refuse _ s
  · exact .refuse _ s

theorem Acted.Fair.confirm (cell : Byte) (lot : Half) (s : State) : Acted.Fair s (actConfirm cell lot s) :=
  .withReservation cell lot s fun _ _ => .accepted s _

theorem Acted.Fair.decline (cell : Byte) (lot : Half) (s : State) : Acted.Fair s (actDecline cell lot s) :=
  .withReservation cell lot s fun _ _ => .doneOrder s _

/-! ## The orders on ship orders (chapter 8) -/

theorem Acted.Fair.openShip (kind : Byte) (customer : Word) (auto : Byte) (s : State) :
    Acted.Fair s (actOpenShip kind customer auto s) := by
  unfold actOpenShip
  repeat' first
    | exact .refuse _ s
    | exact .doneWith s _ _
    | split

theorem Acted.Fair.addToShip (ship : Byte) (lot : Half) (s : State) :
    Acted.Fair s (actAddToShip ship lot s) := by
  unfold actAddToShip
  dsimp only
  repeat' first
    | exact .refuseWith _ _ s
    | exact .doneWith s _ _
    | split

theorem Acted.Fair.removeFromShip (ship : Byte) (lot : Half) (s : State) :
    Acted.Fair s (actRemoveFromShip ship lot s) := by
  unfold actRemoveFromShip
  dsimp only
  repeat' first
    | exact .refuse _ s
    | exact .doneWith s _ _
    | split

theorem Acted.Fair.cancelShip (ship : Byte) (s : State) :
    Acted.Fair s (actCancelShip ship s) := by
  unfold actCancelShip
  repeat' first
    | exact .refuse _ s
    | exact .doneWith s _ _
    | split

theorem Acted.Fair.releaseShip (ship : Byte) (mode : Byte) (s : State) :
    Acted.Fair s (actReleaseShip ship mode s) := by
  unfold actReleaseShip
  dsimp only
  repeat' first
    | exact .refuseWith _ _ s
    | exact .doneWith s _ _
    | split

/-! ## The orders on the floor, and READ (chapters 9 and 10) -/

theorem Acted.Fair.setClock (seconds : Word) (s : State) : Acted.Fair s (actSetClock seconds s) :=
  .withFields s _ (by simp)

theorem Acted.Fair.setFloorMode (mode : Byte) (s : State) : Acted.Fair s (actSetFloorMode mode s) := by
  unfold actSetFloorMode
  split
  · exact .refuse _ s
  · exact .doneWith s _ _

theorem Acted.Fair.read (kind : Byte) (index : Half) (buffer : Addr) (s : State) :
    Acted.Fair s (actRead kind index buffer s) := by
  unfold actRead
  split
  · exact .refuse _ s
  · exact .withFields s _ (by simp)

/-- Every order's owner answers so. -/
theorem Acted.Fair.actOf (o : Order) (s : State) : Acted.Fair s (actOf o s) := by
  cases o with
  | bad _ => exact .refuseWith _ _ s
  | putRecipe a => exact .putRecipe a s
  | dropRecipe r => exact .dropRecipe r s
  | admitLot a => exact .admitLot a s
  | amendLot lot due priority => exact .amendLot lot due priority s
  | retireLot lot => exact .retireLot lot s
  | mapCell cell port tap => exact .mapCell cell port tap s
  | unmapCell cell => exact .unmapCell cell s
  | freeze cell action => exact .freeze cell action s
  | setCellService cell action policy => exact .setCellService cell action policy s
  | clearLinkCounts port => exact .clearLinkCounts port s
  | endRun cell => exact .endRun cell s
  | pauseCell cell => exact .pauseCell cell s
  | resumeCell cell => exact .resumeCell cell s
  | putLimitSet a => exact .putLimitSet a s
  | dropLimitSet n => exact .dropLimitSet n s
  | placeHold lot holdClass reason => exact .placeHold lot holdClass reason s
  | ackHold hold => exact .ackHold hold s
  | dispose hold disposition => exact .dispose hold disposition s
  | disposeLot lot disposition => exact .disposeLot lot disposition s
  | confirm cell lot => exact .confirm cell lot s
  | decline cell lot => exact .decline cell lot s
  | dispatchNow => exact .doneWith s _ _
  | openShip kind customer auto => exact .openShip kind customer auto s
  | addToShip ship lot => exact .addToShip ship lot s
  | removeFromShip ship lot => exact .removeFromShip ship lot s
  | cancelShip ship => exact .cancelShip ship s
  | releaseShip ship mode => exact .releaseShip ship mode s
  | setClock seconds => exact .setClock seconds s
  | setFloorMode mode => exact .setFloorMode mode s
  | read kind index buffer => exact .read kind index buffer s

end Sys2Proof.Machine
end

section
/-! OBLIGATIONS O12, O13. An order that a pass reaches is taken and answered; a refused order changes nothing (R158 to R160). -/

namespace Sys2Proof.Machine

variable {s t u : State} {slot : BoardSlot} {o : Order}

/-- Settles O12. -/
theorem ordersAreTakenAndAnswered : Obligations.OrdersAreTakenAndAnswered := by
  unfold Obligations.OrdersAreTakenAndAnswered
  intro s slot o ht hread r
  exact ⟨.takeSlot s slot, answers_acted (exec_orderCommand slot o s) ht rfl (Acts.actOf o hread _).toCore (.refl _)
    (Acted.Fair.actOf o _).fields⟩

/-! ## The slot of an answered order (R160 steps 3 and 4) -/

/-- Host memory where an order has been answered: the fields of steps 3 and 4, each over what stood before. -/
theorem State.hostByte_writeAnswered (u : State) (slot : BoardSlot) (w : Answer) (x : Nat) :
    ((u.writeOutcome slot w).writeAnswered slot).hostByte x = Memory.read? x (Memory.write (u.slotAddr slot) [3]
      (Memory.write (u.slotAddr slot + 16) w.fields (Memory.write (u.slotAddr slot + 4) (leBytes 4 (u.detailOf w).toNat)
        (Memory.write (u.slotAddr slot + 3) (leBytes 1 w.fields.length)
          (Memory.write (u.slotAddr slot + 2) (leBytes 1 w.outcome.code) u.host))))) := by
  rw [State.hostByte, State.writeOutcome_host]

section
variable {a : Nat} (ha : u.slotAddr slot = a)
include ha

theorem State.hostByte_answered (w : Answer) : ((u.writeOutcome slot w).writeAnswered slot).hostByte a = some 3 := by
  subst ha
  rw [State.hostByte_writeAnswered]
  exact Memory.read?_write [3] _ 0 _ (by simp)

/-- The outcome byte of an answered slot, whatever the fields (Table 10-4). -/
theorem State.hostByte_outcome (w : Answer) :
    ((u.writeOutcome slot w).writeAnswered slot).hostByte (a + 2) = some (BitVec.ofNat 8 w.outcome.code) := by
  subst ha
  rw [State.hostByte_writeAnswered, Memory.read?_write_outside [3] _ _ _ (by simp),
    Memory.read?_write_outside _ _ _ _ (by omega), Memory.read?_write_outside _ _ _ _ (by omega),
    Memory.read?_write_outside _ _ _ _ (by omega)]
  exact Memory.read?_write [_] _ 0 _ (by simp)

theorem State.hostByte_answerLength (w : Answer) {fs : List Byte} (hw : w.fields = fs) :
    ((u.writeOutcome slot w).writeAnswered slot).hostByte (a + 3) = some (BitVec.ofNat 8 fs.length) := by
  subst ha hw
  rw [State.hostByte_writeAnswered, Memory.read?_write_outside [3] _ _ _ (by simp),
    Memory.read?_write_outside _ _ _ _ (by omega), Memory.read?_write_outside _ _ _ _ (by omega)]
  exact Memory.read?_write [_] _ 0 _ (by simp)

theorem State.hostByte_answerField (w : Answer) {fs : List Byte} (hw : w.fields = fs) (k : Nat) (h : k < fs.length) :
    ((u.writeOutcome slot w).writeAnswered slot).hostByte (a + 16 + k) = some fs[k] := by
  subst ha hw
  rw [State.hostByte_writeAnswered, Memory.read?_write_outside [3] _ _ _ (by simp; omega)]
  exact Memory.read?_write _ _ k _ h

/-- An answer writes nothing outside its slot. -/
theorem State.hostByte_outsideSlot (w : Answer) (hw : w.fields.length ≤ 48) {x : Nat} (h : x < a ∨ a + 64 ≤ x) :
    ((u.writeOutcome slot w).writeAnswered slot).hostByte x = u.hostByte x := by
  subst ha
  have hl (k n : Nat) : (leBytes k n).length = k := leBytes_length k n
  rw [State.hostByte_writeAnswered, Memory.read?_write_outside [3] _ _ _ (by simp; omega),
    Memory.read?_write_outside _ _ _ _ (by omega), Memory.read?_write_outside _ _ _ _ (by rw [hl]; omega),
    Memory.read?_write_outside _ _ _ _ (by rw [hl]; omega), Memory.read?_write_outside _ _ _ _ (by rw [hl]; omega)]
  rfl

end

theorem State.writeOutcome_sameFloor {s u : State} (h : s.SameFloor u) (slot : BoardSlot) (w : Answer) :
    s.SameFloor ((u.writeOutcome slot w).writeAnswered slot) :=
  State.SameFloor.hostWrite (((((h.hostWrite _ _).hostWrite _ _).hostWrite _ _).hostWrite _ _).useDetail _) _ _

/-! ## A slot that is taken (R160 step 1) -/

theorem State.slotAddr_takeSlot (s : State) (slot : BoardSlot) : (s.takeSlot slot).slotAddr slot = s.slotAddr slot := rfl

theorem State.slotAddr_hostWrite (s : State) (a : Nat) (bs : List Byte) (slot : BoardSlot) :
    (s.hostWrite a bs).slotAddr slot = s.slotAddr slot := rfl

theorem State.hostByte_taken (s : State) (slot : BoardSlot) : (s.takeSlot slot).hostByte (s.slotAddr slot) = some 2 := by
  rw [State.hostByte, State.takeSlot_host, Memory.read?_write_outside _ _ _ _ (by omega),
    Memory.read?_write_outside _ _ _ _ (by omega)]
  exact Memory.read?_write [2] _ 0 _ (by simp)

theorem State.hostByte_takeSlot_outside (s : State) (slot : BoardSlot) {x : Nat}
    (h : x < s.slotAddr slot ∨ s.slotAddr slot + 64 ≤ x) : (s.takeSlot slot).hostByte x = s.hostByte x := by
  have hl (n : Nat) : (leBytes 4 n).length = 4 := leBytes_length 4 n
  rw [State.hostByte, State.takeSlot_host, Memory.read?_write_outside _ _ _ _ (by rw [hl]; omega),
    Memory.read?_write_outside _ _ _ _ (by rw [hl]; omega), Memory.read?_write_outside _ _ _ _ (by simp; omega)]
  rfl

/-! ## Refusals (R160) -/

/-- Only DONE and ACCEPTED have the codes 0 and 1 (Table 10-6). -/
theorem OrderOutcome.ne_of_code {x : OrderOutcome} (h0 : BitVec.ofNat 8 x.code ≠ 0#8) (h1 : BitVec.ofNat 8 x.code ≠ 1#8) :
    x ≠ .done ∧ x ≠ .accepted :=
  ⟨fun h => h0 (by rw [h]; rfl), fun h => h1 (by rw [h]; rfl)⟩

/-- No order's owner moves the board. -/
theorem State.slotAddr_actOf (o : Order) (s : State) (slot : BoardSlot) :
    (Machine.actOf o s).1.slotAddr slot = s.slotAddr slot := by
  have hos : (Machine.actOf o s).1.os = s.os := by
    by_cases hread : ∀ kind index buffer, o ≠ .read kind index buffer
    · exact (Acts.actOf o hread s).os
    · push Not at hread
      obtain ⟨kind, index, buffer, rfl⟩ := hread
      show (actRead kind index buffer s).1.os = s.os
      obtain h | ⟨bs, h⟩ := actRead_cases kind index buffer s
      · rw [h]
      · rw [h, State.hostWrite_os]
  rw [State.slotAddr, hos, State.slotAddr]

/-- Settles O13. -/
theorem refusedOrdersChangeNothing : Obligations.RefusedOrdersChangeNothing := by
  unfold Obligations.RefusedOrdersChangeNothing
  intro s slot ht
  refine ⟨fun o => ?_, fun code _ => answers_refuseWith rfl ht rfl⟩
  refine ⟨_, BitVec.ofNat 8 (actOf o (s.takeSlot slot)).2.outcome.code,
    (exec_orderCommand slot o s).trans (congrArg _ (State.takeOrder_taken ht _)), ?_, fun h0 h1 => ?_⟩
  · exact State.hostByte_outcome (State.slotAddr_actOf o (s.takeSlot slot) slot) _
  · obtain ⟨hdone, haccepted⟩ := OrderOutcome.ne_of_code h0 h1
    have hsame : (actOf o (s.takeSlot slot)).1 = s.takeSlot slot := (Acted.Fair.actOf o _).refused hdone haccepted
    have hfloor : s.SameFloor (actOf o (s.takeSlot slot)).1 := by
      rw [hsame]
      exact .takeSlot s slot
    exact State.writeOutcome_sameFloor hfloor slot _

end Sys2Proof.Machine
end

section
/-! OBLIGATION O15. READ and its record images (R158, R161). -/

namespace Sys2Proof.Machine

variable {s t u : State} {slot : BoardSlot} {kind : Byte} {index : Half} {buffer : Addr} {bs : List Byte}

/-! ## What the images begin with (R161) -/

/-- The first fields of an image stand at its front while they fit in it. -/
theorem prefix_padTo {pre bs : List Byte} {k : Nat} (h : pre <+: bs) (hk : pre.length ≤ k) : pre <+: padTo k bs :=
  List.prefix_take_iff.mpr ⟨h.trans (List.prefix_append _ _), hk⟩

theorem State.lotImage_prefix (s : State) (l : LotSlot) (x : Lot) :
    x.lotNumber.toList ++ leBytes 2 x.startQuantity ++ leBytes 4 x.due ++ leBytes 1 x.priority <+: s.lotImage l x := by
  refine prefix_padTo ?_ (by simp)
  simp only [List.append_assoc, List.prefix_append_right_inj]
  exact List.prefix_append _ _

theorem State.cellImage_prefix (s : State) (c : CellNo) :
    (match (s.cell c).mapping with
        | none => [0, 0, 0]
        | some m => [1, BitVec.ofNat 8 m.port.val, BitVec.ofNat 8 m.tap]) ++
      [BitVec.ofNat 8 (s.cell c).policy.code, if (s.cell c).service then 1 else 0, if (s.cell c).heard then 1 else 0]
        <+: s.cellImage c := by
  have hfields : (match (s.cell c).mapping with
        | none => [0, 0, 0]
        | some m => [1, BitVec.ofNat 8 m.port.val, BitVec.ofNat 8 m.tap]) ++
      [BitVec.ofNat 8 (s.cell c).policy.code, if (s.cell c).service then 1 else 0, if (s.cell c).heard then 1 else 0] =
      optBytes 1 ((s.cell c).mapping.map fun m => leBytes 1 m.port.val) ++
        leBytes 1 (((s.cell c).mapping.map Mapping.tap).getD 0) ++ leBytes 1 (s.cell c).policy.code ++
        flagByte (s.cell c).service ++ flagByte (s.cell c).heard := by
    cases (s.cell c).mapping <;> rfl
  have hlength : (optBytes 1 ((s.cell c).mapping.map fun m => leBytes 1 m.port.val)).length = 2 := by
    cases (s.cell c).mapping <;> rfl
  rw [hfields]
  refine prefix_padTo ?_ (by simp [hlength])
  simp only [List.append_assoc, List.prefix_append_right_inj]
  exact List.prefix_append _ _

theorem Hold.image_prefix (h : Hold) :
    leBytes 2 h.id ++ leBytes 2 h.lot.val ++ [BitVec.ofNat 8 h.step, BitVec.ofNat 8 h.origin.code] <+: h.image :=
  prefix_padTo ⟨_, rfl⟩ (by simp)

theorem Ship.image_prefix (n : ShipNo) (o : Ship) : [BitVec.ofNat 8 (number n)] ++ leBytes 4 o.customer.toNat ++
    [BitVec.ofNat 8 o.kind.code, if o.auto then 1 else 0, BitVec.ofNat 8 o.state.code] <+: o.image n :=
  prefix_padTo ⟨_, rfl⟩ (by simp)

/-! ## What READ finds (R161) -/

/-- The images depend on the floor alone. -/
theorem State.SameFloor.imageOf (h : u.SameFloor t) (kind index : Nat) : t.imageOf kind index = u.imageOf kind index := by
  rw [h.eq]
  rfl

theorem State.imageOf_lot {n : Nat} {l : LotSlot} (h : n = l.val) :
    s.imageOf 0 n = match s.lot l with
      | none => .refused .notFound
      | some x => .image (s.lotImage l x) := by
  show imageAt (ofIndex? 512 n) _ = _
  rw [ofIndex_val l h]
  cases h : s.lot l <;> simp [imageAt, h]

theorem State.imageOf_cell {n : Nat} {c : CellNo} (h : n = number c) : s.imageOf 1 n = .image (s.cellImage c) := by
  show imageAt (ofNumber? 48 n) (fun c => some (s.cellImage c)) = _
  rw [ofNumber_number c h]
  rfl

theorem State.imageOf_hold {n : Nat} (h : n ≠ 0) :
    s.imageOf 2 n = match s.hold? n with
      | none => .refused .notFound
      | some x => .image x.image := by
  show (if n = 0 then _ else imageAt (some n) _) = _
  rw [if_neg h]
  cases h : s.hold? n <;> simp [imageAt, h]

theorem State.imageOf_ship {m : Nat} {n : ShipNo} (h : m = number n) :
    s.imageOf 3 m = match s.ship n with
      | none => .refused .notFound
      | some o => .image (o.image n) := by
  show imageAt (ofNumber? 32 m) _ = _
  rw [ofNumber_number n h]
  cases h : s.ship n <;> simp [imageAt, h]

/-- An unknown kind, or an index outside its kind's range (R161). -/
theorem State.imageOf_badArg {k n : Nat} (h : (k = 0 ∧ 512 ≤ n) ∨ (k = 1 ∧ (n = 0 ∨ 48 < n)) ∨ (k = 2 ∧ n = 0) ∨
    (k = 3 ∧ (n = 0 ∨ 32 < n)) ∨ 3 < k) : s.imageOf k n = .refused .badArg := by
  obtain ⟨rfl, hn⟩ | ⟨rfl, hn⟩ | ⟨rfl, hn⟩ | ⟨rfl, hn⟩ | hk := h
  · show imageAt (ofIndex? 512 n) _ = _
    rw [ofIndex_outside hn]
    rfl
  · show imageAt (ofNumber? 48 n) (fun c => some (s.cellImage c)) = _
    rw [ofNumber_none hn]
    rfl
  · exact if_pos hn
  · show imageAt (ofNumber? 32 n) _ = _
    rw [ofNumber_none hn]
    rfl
  · unfold State.imageOf
    split
    case h_5 => rfl
    all_goals omega

/-! ## READ taken and answered (R160, R161) -/

theorem answers_read_refused {o : OrderOutcome} (ht : s.Takes slot) (h : s.imageOf kind.toNat index.toNat = .refused o) :
    Answers (.read slot kind index buffer) slot s o none [] s := by
  refine answers_refuse (act := actRead kind index buffer) rfl ht ?_
  unfold actRead
  rw [(State.SameFloor.takeSlot s slot).imageOf, h]

/-- The state after a READ that has found its image: the slot taken, the image in the buffer, the slot answered. -/
def State.readDone (slot : BoardSlot) (buffer : Addr) (bs : List Byte) (s : State) : State :=
  (((s.takeSlot slot).hostWrite buffer.toNat bs).writeOutcome slot
    (Answer.withFields (leBytes 2 bs.length ++ leBytes 4 s.ft.clock.toNat))).writeAnswered slot

theorem exec_read (ht : s.Takes slot) (h : s.imageOf kind.toNat index.toNat = .image bs) :
    exec (.read slot kind index buffer) s = .next (s.readDone slot buffer bs) := by
  have hact : actRead kind index buffer (s.takeSlot slot) =
      ((s.takeSlot slot).hostWrite buffer.toNat bs, Answer.withFields (leBytes 2 bs.length ++ leBytes 4 s.ft.clock.toNat)) := by
    unfold actRead
    rw [(State.SameFloor.takeSlot s slot).imageOf, h]
    rfl
  have htaken := State.takeOrder_taken ht (actRead kind index buffer)
  unfold State.actInSlot at htaken
  rw [hact] at htaken
  exact congrArg _ htaken

/-- A READ answered: what its slot, its buffer and the rest of host memory hold. -/
theorem State.readDone_spec (h : t = s.readDone slot buffer bs) : s.SameFloor t ∧ s.ScannerAfter slot t ∧
      t.hostByte (s.slotAddr slot) = some 3 ∧ t.hostByte (s.slotAddr slot + 2) = some 0 ∧
      t.hostByte (s.slotAddr slot + 3) = some 6 ∧
      (∀ k (h : k < (leBytes 2 bs.length ++ leBytes 4 s.ft.clock.toNat).length),
        t.hostByte (s.slotAddr slot + 16 + k) = some (leBytes 2 bs.length ++ leBytes 4 s.ft.clock.toNat)[k]) ∧
      ((buffer.toNat + bs.length ≤ s.slotAddr slot ∨ s.slotAddr slot + 64 ≤ buffer.toNat) →
        ∀ k (h : k < bs.length), t.hostByte (buffer.toNat + k) = some bs[k]) ∧
      ∀ x, (x < s.slotAddr slot ∨ s.slotAddr slot + 64 ≤ x) → (x < buffer.toNat ∨ buffer.toNat + bs.length ≤ x) →
        t.hostByte x = s.hostByte x := by
  unfold State.readDone at h
  have hfloor := (State.SameFloor.takeSlot s slot).hostWrite buffer.toNat bs
  have haddr : ((s.takeSlot slot).hostWrite buffer.toNat bs).slotAddr slot = s.slotAddr slot :=
    (State.slotAddr_hostWrite _ _ _ slot).trans (s.slotAddr_takeSlot slot)
  have hw : (Answer.withFields (leBytes 2 bs.length ++ leBytes 4 s.ft.clock.toNat)).fields =
    leBytes 2 bs.length ++ leBytes 4 s.ft.clock.toNat := rfl
  have houtside {x : Nat} (hx : x < s.slotAddr slot ∨ s.slotAddr slot + 64 ≤ x) :
      t.hostByte x = ((s.takeSlot slot).hostWrite buffer.toNat bs).hostByte x := by
    subst h
    exact State.hostByte_outsideSlot haddr _ (by simp [hw]) hx
  subst h
  refine ⟨State.writeOutcome_sameFloor hfloor slot _, ⟨State.writeOutcome_os _ slot _, ?_⟩, State.hostByte_answered haddr _,
    State.hostByte_outcome haddr _, ?_, fun k h => State.hostByte_answerField haddr _ hw k h, fun hapart k h => ?_,
    fun x hslot hbuffer => ?_⟩
  · exact (State.writeOutcome_pending _ slot _).trans (s.takeSlot_pending slot)
  · refine (State.hostByte_answerLength haddr _ hw).trans ?_
    simp
  · rw [houtside (by omega)]
    exact State.hostByte_hostWrite _ _ _ k h
  · rw [houtside hslot, State.hostByte_hostWrite_outside _ _ _ _ hbuffer, State.hostByte_takeSlot_outside _ _ hslot]

/-- Settles O15. -/
theorem readWritesRecordImages : Obligations.ReadWritesRecordImages := by
  unfold Obligations.ReadWritesRecordImages
  intro s slot kind index buffer ht
  have hindex (h : index = 0) : index.toNat = 0 := by rw [h]; rfl
  have hnonzero (h : index ≠ 0) : index.toNat ≠ 0 := fun e => h (BitVec.eq_of_toNat_eq e)
  refine ⟨fun bs hfound => ?_, fun l x _ => s.lotImage_prefix l x, s.cellImage_prefix, Hold.image_prefix, Ship.image_prefix,
    fun hbad => ?_, fun hmissing => ?_⟩
  · have himage : s.imageOf kind.toNat index.toNat = .image bs ∧
        bs.length = if kind = 0 then 512 else if kind = 1 then 256 else if kind = 2 then 32 else 64 := by
      obtain ⟨l, x, hl, hx, rfl, hbs⟩ | ⟨c, hc, rfl, hbs⟩ | ⟨h, hh, h0, rfl, hbs⟩ | ⟨n, o, hn, ho, rfl, hbs⟩ := hfound
      all_goals rw [hbs]
      · exact ⟨(State.imageOf_lot hl).trans (by rw [hx]), padTo_length _ _⟩
      · exact ⟨State.imageOf_cell hc, padTo_length _ _⟩
      · exact ⟨(State.imageOf_hold (hnonzero h0)).trans (by rw [hh]), padTo_length _ _⟩
      · exact ⟨(State.imageOf_ship hn).trans (by rw [ho]), padTo_length _ _⟩
    exact ⟨himage.2, _, exec_read ht himage.1, State.readDone_spec rfl⟩
  · refine answers_read_refused ht (State.imageOf_badArg ?_)
    obtain ⟨rfl, h⟩ | ⟨rfl, h⟩ | ⟨rfl, h⟩ | ⟨rfl, h⟩ | h := hbad
    · exact .inl ⟨rfl, h⟩
    · exact .inr (.inl ⟨rfl, h.imp_left hindex⟩)
    · exact .inr (.inr (.inl ⟨rfl, hindex h⟩))
    · exact .inr (.inr (.inr (.inl ⟨rfl, h.imp_left hindex⟩)))
    · exact .inr (.inr (.inr (.inr h)))
  · refine answers_read_refused ht ?_
    obtain ⟨l, rfl, hl, hx⟩ | ⟨rfl, h0, hh⟩ | ⟨n, rfl, hn, ho⟩ := hmissing
    · exact (State.imageOf_lot hl).trans (by rw [hx])
    · exact (State.imageOf_hold (hnonzero h0)).trans (by rw [hh])
    · exact (State.imageOf_ship hn).trans (by rw [ho])

end Sys2Proof.Machine
end

section
/-! SUPPORT. The causes (R169), the pages as the Report Unit holds them (R165), and runs of bytes in host memory. -/

namespace Sys2Proof.Machine

variable {s t w : State} {u : ReportUnit} {p q : PageId} {x : Page} {c d : Cause} {reason : CloseReason}
variable {a b : Nat} {bs cs : List Byte}

/-! ## Causes (R169) -/

theorem Cause.getLsbD_twoPow (c d : Cause) : (BitVec.twoPow 7 c.bit).getLsbD d.bit = decide (d = c) := by
  cases c <;> cases d <;> rfl

/-- A cause set is set from then on, and no other changes. -/
theorem ReportUnit.setCause_cause (c d : Cause) (u : ReportUnit) :
    (u.setCause c).cause.getLsbD d.bit = (u.cause.getLsbD d.bit || decide (d = c)) := by
  unfold ReportUnit.setCause
  split
  · next h =>
    by_cases e : d = c
    · rw [e, h, Bool.true_or]
    · rw [decide_eq_false e, Bool.or_false]
  · rw [BitVec.getLsbD_or, Cause.getLsbD_twoPow]

/-- A cause that was clear and is enabled sends one message. -/
theorem ReportUnit.setCause_msi (c : Cause) (u : ReportUnit) : (u.setCause c).msi =
    u.msi + if u.cause.getLsbD c.bit = false ∧ u.causeEnable.getLsbD c.bit = true then 1 else 0 := by
  unfold ReportUnit.setCause
  cases hc : u.cause.getLsbD c.bit
  · cases u.causeEnable.getLsbD c.bit <;> simp
  · simp

@[simp] theorem ReportUnit.setCause_causeEnable (c : Cause) (u : ReportUnit) : (u.setCause c).causeEnable = u.causeEnable := by
  rw [u.setCause_rest c]

@[simp] theorem ReportUnit.setCause_page (c : Cause) (u : ReportUnit) (p : PageId) : (u.setCause c).page p = u.page p :=
  (congrArg (ReportUnit.page · p) (u.setCause_rest c)).trans (by cases p <;> rfl)

@[simp] theorem ReportUnit.setCause_base (c : Cause) (u : ReportUnit) (p : PageId) : (u.setCause c).base p = u.base p :=
  (congrArg (ReportUnit.base · p) (u.setCause_rest c)).trans (by cases p <;> rfl)

@[simp] theorem ReportUnit.setCause_sequence (c : Cause) (u : ReportUnit) : (u.setCause c).sequence = u.sequence := by
  rw [u.setCause_rest c]

@[simp] theorem ReportUnit.setCause_filling (c : Cause) (u : ReportUnit) : (u.setCause c).filling = u.filling := by
  rw [u.setCause_rest c]

@[simp] theorem ReportUnit.setCause_lastClosed (c : Cause) (u : ReportUnit) : (u.setCause c).lastClosed = u.lastClosed := by
  rw [u.setCause_rest c]

@[simp] theorem ReportUnit.setCause_idle (c : Cause) (u : ReportUnit) : (u.setCause c).idle = u.idle := by
  rw [u.setCause_rest c]

@[simp] theorem ReportUnit.setCause_pageLength (c : Cause) (u : ReportUnit) : (u.setCause c).pageLength = u.pageLength := by
  rw [u.setCause_rest c]

@[simp] theorem ReportUnit.setCause_closeOnUrgent (c : Cause) (u : ReportUnit) :
    (u.setCause c).closeOnUrgent = u.closeOnUrgent := by
  rw [u.setCause_rest c]

/-! ## The pages (R165) -/

@[simp] theorem otherPage_otherPage (p : PageId) : otherPage (otherPage p) = p := by cases p <;> rfl

theorem otherPage_ne (p : PageId) : otherPage p ≠ p := by cases p <;> decide

@[simp] theorem ReportUnit.setPage_self (p : PageId) (x : Page) (u : ReportUnit) : (u.setPage p x).page p = x := by
  cases p <;> rfl

@[simp] theorem ReportUnit.setPage_other (p : PageId) (x : Page) (u : ReportUnit) :
    (u.setPage p x).page (otherPage p) = u.page (otherPage p) := by
  cases p <;> rfl

@[simp] theorem ReportUnit.setPage_base (p : PageId) (x : Page) (u : ReportUnit) (q : PageId) :
    (u.setPage p x).base q = u.base q := by
  cases p <;> cases q <;> rfl

@[simp] theorem ReportUnit.setPage_sequence (p : PageId) (x : Page) (u : ReportUnit) :
    (u.setPage p x).sequence = u.sequence := by cases p <;> rfl

@[simp] theorem ReportUnit.setPage_filling (p : PageId) (x : Page) (u : ReportUnit) : (u.setPage p x).filling = u.filling := by cases p <;> rfl

@[simp] theorem ReportUnit.setPage_lastClosed (p : PageId) (x : Page) (u : ReportUnit) :
    (u.setPage p x).lastClosed = u.lastClosed := by cases p <;> rfl

@[simp] theorem ReportUnit.setPage_idle (p : PageId) (x : Page) (u : ReportUnit) : (u.setPage p x).idle = u.idle := by cases p <;> rfl

@[simp] theorem ReportUnit.setPage_cause (p : PageId) (x : Page) (u : ReportUnit) : (u.setPage p x).cause = u.cause := by cases p <;> rfl

@[simp] theorem ReportUnit.setPage_pageLength (p : PageId) (x : Page) (u : ReportUnit) :
    (u.setPage p x).pageLength = u.pageLength := by cases p <;> rfl

@[simp] theorem ReportUnit.setPage_closeOnUrgent (p : PageId) (x : Page) (u : ReportUnit) :
    (u.setPage p x).closeOnUrgent = u.closeOnUrgent := by cases p <;> rfl

/-! ## Headers (R165) -/

/-- The 32 bytes of a header: state, close reason, places used and sequence, filled with zeros. -/
theorem headerBytes_eq (x : Page) (reason : CloseReason) : headerBytes x reason =
    [BitVec.ofNat 8 x.state.code, BitVec.ofNat 8 reason.code] ++ leBytes 2 x.used ++ leBytes 4 x.sequence.toNat ++
      List.replicate 24 0 := by
  unfold headerBytes
  rw [padTo_of_length_le _ _ (by simp)]
  simp [leBytes]

@[simp] theorem headerBytes_length (x : Page) (reason : CloseReason) : (headerBytes x reason).length = 32 := padTo_length _ _

/-- The header of a FREE page at 0 places and sequence 0 is all zeros. -/
theorem headerBytes_initial : headerBytes Page.initial .none = List.replicate 32 0 := by decide

theorem nextSequence_eq (n : Word) : nextSequence n = if n = 4294967295#32 then 1 else n + 1 := rfl

/-! ## Runs of bytes in host memory -/

theorem State.hostWrite_host (s : State) (a : Nat) (bs : List Byte) : (s.hostWrite a bs).host = Memory.write a bs s.host := rfl

theorem State.modReports_ru (f : ReportUnit → ReportUnit) (s : State) : (s.modReports f).ru = f s.ru := rfl

theorem State.hostByte_congr (h : t.host = s.host) (a : Nat) : t.hostByte a = s.hostByte a := by
  rw [State.hostByte, h, State.hostByte]

/-- Host memory holds the bytes from an address upwards. -/
def State.HasBytes (t : State) (a : Nat) (bs : List Byte) : Prop := ∀ k (h : k < bs.length), t.hostByte (a + k) = some bs[k]

theorem State.HasBytes.hostWrite_self (s : State) (a : Nat) (bs : List Byte) : (s.hostWrite a bs).HasBytes a bs :=
  fun k h => s.hostByte_hostWrite a bs k h

/-- A write elsewhere leaves a run of bytes. -/
theorem State.HasBytes.hostWrite_apart (h : s.HasBytes a bs) (hab : a + bs.length ≤ b ∨ b + cs.length ≤ a) :
    (s.hostWrite b cs).HasBytes a bs := fun k hk =>
  (s.hostByte_hostWrite_outside b cs (a + k) (by omega)).trans (h k hk)

/-- Runs of bytes are read in host memory alone. -/
theorem State.HasBytes.of_host (h : s.HasBytes a bs) (ht : t.host = s.host) : t.HasBytes a bs := fun k hk =>
  (State.hostByte_congr ht _).trans (h k hk)

theorem State.HasBytes.zeros {n : Nat} (h : s.HasBytes a (List.replicate n 0)) {k : Nat} (hk : k < n) :
    s.hostByte (a + k) = some 0 := by
  rw [h k (by simpa using hk), List.getElem_replicate]

/-- The pages' places in host memory lie apart. -/
def State.PagesApart (s : State) : Prop :=
  s.ru.baseA.toNat + 32 * (s.ru.pageLength + 1) ≤ s.ru.baseB.toNat ∨
    s.ru.baseB.toNat + 32 * (s.ru.pageLength + 1) ≤ s.ru.baseA.toNat

/-- The same of a page and the other one. -/
theorem State.PagesApart.page (h : s.PagesApart) (p : PageId) :
    (s.ru.base p).toNat + 32 * (s.ru.pageLength + 1) ≤ (s.ru.base (otherPage p)).toNat ∨
      (s.ru.base (otherPage p)).toNat + 32 * (s.ru.pageLength + 1) ≤ (s.ru.base p).toNat := by
  cases p
  · exact h
  · exact h.symm

end Sys2Proof.Machine
end

section
/-! SUPPORT. A page that opens, a page that closes, and the page that opens after it (R165, R166). -/

namespace Sys2Proof.Machine

variable {s t w : State} {p q : PageId} {reason : CloseReason} {a used : Nat} {bs : List Byte}

/-! ## A page opens (R165) -/

@[simp] theorem ReportUnit.fill_self (p : PageId) (u : ReportUnit) :
    (u.fill p).page p = { state := .filling, used := 0, sequence := nextSequence u.sequence } := by
  simp [ReportUnit.fill]

@[simp] theorem ReportUnit.fill_other (p : PageId) (u : ReportUnit) :
    (u.fill p).page (otherPage p) = u.page (otherPage p) := by
  cases p <;> rfl

/-- A page that opens changes the pages, the sequence and the FILLING page alone. -/
theorem ReportUnit.fill_rest (p : PageId) (u : ReportUnit) : u.fill p = { u with
    sequence := nextSequence u.sequence, filling := some p, pageA := (u.fill p).pageA, pageB := (u.fill p).pageB } := by
  cases p <;> rfl

@[simp] theorem ReportUnit.fill_base (p : PageId) (u : ReportUnit) (q : PageId) : (u.fill p).base q = u.base q := by
  cases p <;> cases q <;> rfl

theorem State.openPage_ru (p : PageId) (s : State) : (s.openPage p).ru = s.ru.fill p := rfl

/-- The one write of a page that opens is its header. -/
theorem State.openPage_write (p : PageId) (s : State) : (s.openPage p).host =
    (s.hostWrite (s.ru.base p).toNat (headerBytes ((s.ru.fill p).page p) .none)).host := by
  simp only [State.openPage, State.writeHeader, State.hostWrite_host, State.modReports_host, State.modReports_ru,
    ReportUnit.fill_base]

theorem State.openPage_hasHeader (p : PageId) (s : State) :
    (s.openPage p).HasBytes (s.ru.base p).toNat (headerBytes ((s.ru.fill p).page p) .none) :=
  (State.HasBytes.hostWrite_self s _ _).of_host (s.openPage_write p)

theorem State.hostByte_openPage_outside (p : PageId) (s : State)
    (h : a < (s.ru.base p).toNat ∨ (s.ru.base p).toNat + 32 ≤ a) : (s.openPage p).hostByte a = s.hostByte a :=
  (State.hostByte_congr (s.openPage_write p) a).trans (s.hostByte_hostWrite_outside _ _ _ (by rwa [headerBytes_length]))

theorem State.HasBytes.openPage (h : s.HasBytes a bs)
    (hab : a + bs.length ≤ (s.ru.base p).toNat ∨ (s.ru.base p).toNat + 32 ≤ a) : (s.openPage p).HasBytes a bs :=
  (h.hostWrite_apart (by rwa [headerBytes_length])).of_host (s.openPage_write p)

/-! ## A page closes (R166) -/

@[simp] theorem State.closePage_os (p : PageId) (reason : CloseReason) (s : State) : (s.closePage p reason).os = s.os := by
  simp [State.closePage]

@[simp] theorem State.closePage_running (p : PageId) (reason : CloseReason) (s : State) :
    (s.closePage p reason).running = s.running := by
  simp [State.closePage]

theorem State.closePage_ru (p : PageId) (reason : CloseReason) (s : State) : (s.closePage p reason).ru =
    ({ s.ru with filling := none, lastClosed := some p, idle := 0 }.setPage p
      { s.ru.page p with state := .closed }).setCause .pageClosed := rfl

@[simp] theorem State.closePage_filling (p : PageId) (reason : CloseReason) (s : State) :
    (s.closePage p reason).ru.filling = none := by simp [State.closePage_ru]

@[simp] theorem State.closePage_lastClosed (p : PageId) (reason : CloseReason) (s : State) :
    (s.closePage p reason).ru.lastClosed = some p := by simp [State.closePage_ru]

@[simp] theorem State.closePage_idle (p : PageId) (reason : CloseReason) (s : State) :
    (s.closePage p reason).ru.idle = 0 := by simp [State.closePage_ru]

@[simp] theorem State.closePage_fifo (p : PageId) (reason : CloseReason) (s : State) :
    (s.closePage p reason).ru.fifo = s.ru.fifo := by simp [State.closePage_ru]

@[simp] theorem State.closePage_sequence (p : PageId) (reason : CloseReason) (s : State) :
    (s.closePage p reason).ru.sequence = s.ru.sequence := by simp [State.closePage_ru]

@[simp] theorem State.closePage_self (p : PageId) (reason : CloseReason) (s : State) :
    (s.closePage p reason).ru.page p = { s.ru.page p with state := .closed } := by simp [State.closePage_ru]

@[simp] theorem State.closePage_other (p : PageId) (reason : CloseReason) (s : State) :
    (s.closePage p reason).ru.page (otherPage p) = s.ru.page (otherPage p) := by
  rw [State.closePage_ru, ReportUnit.setCause_page, ReportUnit.setPage_other]
  cases p <;> rfl

@[simp] theorem State.closePage_base (p : PageId) (reason : CloseReason) (s : State) (q : PageId) :
    (s.closePage p reason).ru.base q = s.ru.base q := by
  rw [State.closePage_ru, ReportUnit.setCause_base, ReportUnit.setPage_base]
  cases q <;> rfl

theorem State.closePage_cause (p : PageId) (reason : CloseReason) (s : State) (d : Cause) :
    (s.closePage p reason).ru.cause.getLsbD d.bit = (s.ru.cause.getLsbD d.bit || decide (d = .pageClosed)) := by
  rw [State.closePage_ru, ReportUnit.setCause_cause, ReportUnit.setPage_cause]

/-- The one write of a page that closes is its header. -/
theorem State.closePage_write (p : PageId) (reason : CloseReason) (s : State) : (s.closePage p reason).host =
    (s.hostWrite (s.ru.base p).toNat (headerBytes { s.ru.page p with state := .closed } reason)).host := by
  simp only [State.closePage, State.modReports_host]

theorem State.closePage_hasHeader (p : PageId) (reason : CloseReason) (s : State) : (s.closePage p reason).HasBytes
    (s.ru.base p).toNat (headerBytes { s.ru.page p with state := .closed } reason) :=
  (State.HasBytes.hostWrite_self s _ _).of_host (s.closePage_write p reason)

theorem State.hostByte_closePage_outside (p : PageId) (reason : CloseReason) (s : State)
    (h : a < (s.ru.base p).toNat ∨ (s.ru.base p).toNat + 32 ≤ a) : (s.closePage p reason).hostByte a = s.hostByte a :=
  (State.hostByte_congr (s.closePage_write p reason) a).trans (s.hostByte_hostWrite_outside _ _ _ (by rwa [headerBytes_length]))

theorem State.HasBytes.closePage (h : s.HasBytes a bs)
    (hab : a + bs.length ≤ (s.ru.base p).toNat ∨ (s.ru.base p).toNat + 32 ≤ a) :
    (s.closePage p reason).HasBytes a bs :=
  (h.hostWrite_apart (by rwa [headerBytes_length])).of_host (s.closePage_write p reason)

/-! ## The page that opens after a close (R165) -/

/-- After a close it is the other page, when that one is FREE. -/
theorem State.pageToOpen_closed (hr : s.running = true) (p : PageId) (reason : CloseReason) :
    (s.closePage p reason).pageToOpen = if (s.ru.page (otherPage p)).state = .free then some (otherPage p) else none := by
  unfold State.pageToOpen
  simp [hr]

theorem State.openNext_closed (hr : s.running = true) (p : PageId) (reason : CloseReason) :
    (s.closePage p reason).openNext = if (s.ru.page (otherPage p)).state = .free
      then (s.closePage p reason).openPage (otherPage p) else s.closePage p reason := by
  unfold State.openNext
  rw [State.pageToOpen_closed hr]
  by_cases h : (s.ru.page (otherPage p)).state = .free
  · rw [if_pos h, if_pos h]
  · rw [if_neg h, if_neg h]

end Sys2Proof.Machine
end

section
/-! SUPPORT. The bytes of report records (R158, R163, R164), and a record joining the FIFO (R162, R168). -/

namespace Sys2Proof.Machine

variable {u : ReportUnit} {e : Report} {second : Word}

/-! ## The bytes of records (R158, R163) -/

theorem leBytes_four (n : Nat) : leBytes 4 n = leBytes 2 n ++ leBytes 2 (n / 65536) := by
  simp [leBytes, Nat.div_div_eq_div_mul]

/-- A signed value of two bytes in two's complement (R158). -/
theorem signedBytes_eq (x : Int) : signedBytes x = leBytes 2 (x % 65536).toNat := by
  unfold signedBytes
  rw [BitVec.toNat_ofInt]
  rfl

/-- A record of one place: its header, then its body filled with zeros (Table 11-1). -/
theorem Record.bytes_of_body {kind urgent subject : Nat} {body : List Byte} (hmore : e.morePlaces = [])
    (hkind : e.kind = kind) (hurgent : flagByte e.urgent = [BitVec.ofNat 8 urgent]) (hsubject : e.subject = subject)
    (hbody : e.body = body) (hlen : body.length ≤ 24) (second : Word) : Record.bytes { second := second, report := e } =
      [BitVec.ofNat 8 kind, BitVec.ofNat 8 urgent] ++ leBytes 2 subject ++ leBytes 4 second.toNat ++
        (body ++ List.replicate (24 - body.length) 0) := by
  subst hkind hsubject hbody
  unfold Record.bytes
  rw [hmore, hurgent, padTo_of_length_le _ _ hlen, List.append_nil]
  rfl

/-- The front of a record whose body is not given as a whole. -/
theorem Record.bytes_prefix {kind urgent subject : Nat} {pre : List Byte}
    (hkind : e.kind = kind) (hurgent : flagByte e.urgent = [BitVec.ofNat 8 urgent]) (hsubject : e.subject = subject)
    (hbody : pre <+: e.body) (hlen : pre.length ≤ 24) (second : Word) :
    (Record.bytes { second := second, report := e }).take (8 + pre.length) =
      [BitVec.ofNat 8 kind, BitVec.ofNat 8 urgent] ++ leBytes 2 subject ++ leBytes 4 second.toNat ++ pre := by
  subst hkind hsubject
  have hpre : [BitVec.ofNat 8 e.kind, BitVec.ofNat 8 urgent] ++ leBytes 2 e.subject ++ leBytes 4 second.toNat ++ pre <+:
      Record.bytes { second := second, report := e } := by
    unfold Record.bytes
    rw [hurgent]
    exact ((List.prefix_append_right_inj _).mpr (prefix_padTo hbody hlen)).trans (List.prefix_append _ _)
  have htake := List.prefix_iff_eq_take.mp hpre
  rw [htake]
  congr 1
  simp
  omega

/-! ## A record joins the FIFO (R162, R168) -/

theorem Report.places_eq (e : Report) : e.places = if e.kind = 14 then 3 else 1 := by cases e <;> rfl

/-- The marks that an occupancy rising from `a` to `b` reaches or passes. -/
theorem ReportUnit.crossMarks_cause (a b : Nat) (u : ReportUnit) (d : Cause) :
    (u.crossMarks a b).cause.getLsbD d.bit = (u.cause.getLsbD d.bit ||
      decide ((d = .fifoHalf ∧ a < 512 ∧ 512 ≤ b) ∨ (d = .backpressure ∧ a < 800 ∧ 800 ≤ b))) := by
  unfold ReportUnit.crossMarks Config.halfMark Config.backpressureMark
  by_cases hhalf : a < 512 ∧ 512 ≤ b <;> by_cases hfull : a < 800 ∧ 800 ≤ b <;>
    simp [hhalf, hfull, ReportUnit.setCause_cause, Bool.or_assoc]

/-- One message for each mark crossed whose cause was clear and is enabled. -/
theorem ReportUnit.crossMarks_msi (a b : Nat) (u : ReportUnit) : (u.crossMarks a b).msi = u.msi +
    (if (a < 512 ∧ 512 ≤ b) ∧ u.cause.getLsbD Cause.fifoHalf.bit = false ∧
      u.causeEnable.getLsbD Cause.fifoHalf.bit = true then 1 else 0) +
    (if (a < 800 ∧ 800 ≤ b) ∧ u.cause.getLsbD Cause.backpressure.bit = false ∧
      u.causeEnable.getLsbD Cause.backpressure.bit = true then 1 else 0) := by
  unfold ReportUnit.crossMarks Config.halfMark Config.backpressureMark
  by_cases hhalf : a < 512 ∧ 512 ≤ b <;> by_cases hfull : a < 800 ∧ 800 ≤ b <;>
    simp [hhalf, hfull, ReportUnit.setCause_cause, ReportUnit.setCause_msi]

/-- A record that fits joins the tail (R162). -/
theorem ReportUnit.append_of_fits (second : Word) (h : u.occupancy + e.places ≤ 1024) : u.append second e =
    ReportUnit.crossMarks u.occupancy (u.occupancy + e.places)
      { u with fifo := u.fifo ++ [{ second := second, report := e }] } :=
  if_neg (by unfold Config.fifoPlaces; omega)

theorem ReportUnit.append_occupancy_of_fits (second : Word) (h : u.occupancy + e.places ≤ 1024) :
    (u.append second e).occupancy = u.occupancy + e.places := by
  rw [ReportUnit.occupancy, ReportUnit.append_fifo second h]
  simp [ReportUnit.occupancy]

/-- A record that does not fit is lost and sets OVERFLOW (R162). -/
theorem ReportUnit.append_of_full (second : Word) (h : 1024 < u.occupancy + e.places) :
    u.append second e = u.setCause .overflow := if_pos h

/-- What a record that fits leaves of the Report Unit: the FIFO longer by it, and the causes of the marks it crosses. -/
theorem ReportUnit.append_spec (second : Word) (h : u.occupancy + e.places ≤ 1024) :
    ∃ v, u.append second e = v ∧ v.occupancy = u.occupancy + e.places ∧
      v = { u with fifo := u.fifo ++ [{ second := second, report := e }], cause := v.cause, msi := v.msi } ∧
      let half : Prop := u.occupancy < 512 ∧ 512 ≤ v.occupancy
      let full : Prop := u.occupancy < 800 ∧ 800 ≤ v.occupancy
      (∀ c : Cause, v.cause.getLsbD c.bit =
        (u.cause.getLsbD c.bit || decide ((c = .fifoHalf ∧ half) ∨ (c = .backpressure ∧ full)))) ∧
      v.msi = u.msi +
        (if half ∧ u.cause.getLsbD 1 = false ∧ u.causeEnable.getLsbD 1 = true then 1 else 0) +
        (if full ∧ u.cause.getLsbD 2 = false ∧ u.causeEnable.getLsbD 2 = true then 1 else 0) := by
  have hocc := ReportUnit.append_occupancy_of_fits second h
  have happend := ReportUnit.append_of_fits second h
  refine ⟨_, rfl, hocc, ?_, ?_⟩
  · rw [happend, ReportUnit.crossMarks_rest]
  · rw [hocc, happend]
    exact ⟨ReportUnit.crossMarks_cause _ _ _, ReportUnit.crossMarks_msi _ _ _⟩

end Sys2Proof.Machine
end

section
/-! SUPPORT. A record move and the expiry of the idle timer, up to the page that opens after a close (R165, R166). -/

namespace Sys2Proof.Machine

variable {s t w : State} {p : PageId} {reason : CloseReason} {r : Record} {rest : List Record} {a used : Nat}
variable {bs : List Byte}

/-! ## The head record written (R166) -/

theorem State.writeRecord_ru (p : PageId) (r : Record) (rest : List Record) (s : State) : (s.writeRecord p r rest).ru =
    let v := { s.ru with fifo := rest }.setPage p { s.ru.page p with used := (s.ru.page p).used + r.report.places }
    if r.report.urgent then v.setCause .urgent else v := rfl

@[simp] theorem State.writeRecord_os (p : PageId) (r : Record) (rest : List Record) (s : State) :
    (s.writeRecord p r rest).os = s.os := by
  simp [State.writeRecord]

@[simp] theorem State.writeRecord_running (p : PageId) (r : Record) (rest : List Record) (s : State) :
    (s.writeRecord p r rest).running = s.running := by
  simp [State.writeRecord]

@[simp] theorem State.writeRecord_fifo (p : PageId) (r : Record) (rest : List Record) (s : State) :
    (s.writeRecord p r rest).ru.fifo = rest := by
  rw [State.writeRecord_ru]
  dsimp only
  split <;> simp

@[simp] theorem State.writeRecord_self (p : PageId) (r : Record) (rest : List Record) (s : State) :
    (s.writeRecord p r rest).ru.page p = { s.ru.page p with used := (s.ru.page p).used + r.report.places } := by
  rw [State.writeRecord_ru]
  dsimp only
  split <;> simp

@[simp] theorem State.writeRecord_other (p : PageId) (r : Record) (rest : List Record) (s : State) :
    (s.writeRecord p r rest).ru.page (otherPage p) = s.ru.page (otherPage p) := by
  have hother : ({ s.ru with fifo := rest } : ReportUnit).page (otherPage p) = s.ru.page (otherPage p) := by
    cases p <;> rfl
  rw [State.writeRecord_ru]
  dsimp only
  split <;> simp [hother]

/-- The page settings, the sequence and the FILLING page stand. -/
theorem State.writeRecord_rest (p : PageId) (r : Record) (rest : List Record) (s : State) :
    let u := (s.writeRecord p r rest).ru
    u.filling = s.ru.filling ∧ u.sequence = s.ru.sequence ∧ u.pageLength = s.ru.pageLength ∧
      u.closeOnUrgent = s.ru.closeOnUrgent ∧ ∀ q, u.base q = s.ru.base q := by
  have hbase (q : PageId) : ({ s.ru with fifo := rest } : ReportUnit).base q = s.ru.base q := by cases q <;> rfl
  rw [State.writeRecord_ru]
  dsimp only
  split <;> simp [hbase]

theorem State.writeRecord_cause (p : PageId) (r : Record) (rest : List Record) (s : State) (d : Cause) :
    (s.writeRecord p r rest).ru.cause.getLsbD d.bit =
      (s.ru.cause.getLsbD d.bit || (r.report.urgent && decide (d = .urgent))) := by
  rw [State.writeRecord_ru]
  cases r.report.urgent <;> simp [ReportUnit.setCause_cause]

/-- The one write is the record's bytes at the page's next free place. -/
theorem State.writeRecord_write (p : PageId) (r : Record) (rest : List Record) (s : State) :
    (s.writeRecord p r rest).host =
      (s.hostWrite ((s.ru.base p).toNat + 32 * (1 + (s.ru.page p).used)) r.bytes).host := by
  simp only [State.writeRecord, State.modReports_host]

theorem State.writeRecord_hasBytes (p : PageId) (r : Record) (rest : List Record) (s : State) :
    (s.writeRecord p r rest).HasBytes ((s.ru.base p).toNat + 32 * (1 + (s.ru.page p).used)) r.bytes :=
  (State.HasBytes.hostWrite_self s _ _).of_host (s.writeRecord_write p r rest)

theorem State.hostByte_writeRecord_outside (p : PageId) (r : Record) (rest : List Record) (s : State)
    (h : a < (s.ru.base p).toNat + 32 * (1 + (s.ru.page p).used) ∨
      (s.ru.base p).toNat + 32 * (1 + (s.ru.page p).used) + r.bytes.length ≤ a) :
    (s.writeRecord p r rest).hostByte a = s.hostByte a :=
  (State.hostByte_congr (s.writeRecord_write p r rest) a).trans (s.hostByte_hostWrite_outside _ _ _ h)

/-! ## What a move finds (R166) -/

theorem State.moveCase_of (hr : s.running = true) (hp : s.ru.filling = some p) (hf : s.ru.fifo = r :: rest) :
    s.moveCase = if s.ru.pageLength < (s.ru.page p).used + r.report.places then .noRoom p else .write p r rest := by
  unfold State.moveCase
  simp [hr, hp, hf]

theorem State.closeAfter_writeRecord (p : PageId) (r : Record) (rest : List Record) (s : State) :
    (s.writeRecord p r rest).closeAfter p r =
      if s.ru.pageLength ≤ (s.ru.page p).used + r.report.places then some .full
      else if r.report.urgent && s.ru.closeOnUrgent then some .urgent
      else none := by
  obtain ⟨-, -, hlength, hclose, -⟩ := s.writeRecord_rest p r rest
  unfold State.closeAfter
  rw [hlength, hclose, State.writeRecord_self]

/-- A record that does not fit closes the page first. -/
theorem State.moveRecord_noRoom (h : s.moveCase = .noRoom p) : s.moveRecord = (s.closePage p .full).openNext := by
  unfold State.moveRecord
  rw [h]

/-- A record that fits is written, and a close that follows it is one of that page. -/
theorem State.moveRecord_closes (h : s.moveCase = .write p r rest)
    (hc : (s.writeRecord p r rest).closeAfter p r = some reason) :
    s.moveRecord = ((s.writeRecord p r rest).closePage p reason).openNext := by
  unfold State.moveRecord
  rw [h]
  dsimp only
  rw [hc]

theorem State.moveRecord_stays (h : s.moveCase = .write p r rest)
    (hc : (s.writeRecord p r rest).closeAfter p r = none) : s.moveRecord = (s.writeRecord p r rest).restartIdle := by
  unfold State.moveRecord
  rw [h]
  dsimp only
  rw [hc]

theorem State.moveToClose_noRoom (h : s.moveCase = .noRoom p) : s.moveToClose = some (s, p, .full) := by
  unfold State.moveToClose
  rw [h]

theorem State.moveToClose_write (h : s.moveCase = .write p r rest) : s.moveToClose =
    ((s.writeRecord p r rest).closeAfter p r).map fun reason => (s.writeRecord p r rest, p, reason) := by
  unfold State.moveToClose
  rw [h]

/-! ## The idle timer (R166) -/

theorem State.idleClose_of (hr : s.running = true) (hp : s.ru.filling = some p) (hu : 1 ≤ (s.ru.page p).used)
    (hi : s.ru.idleClose ≤ s.ru.idle) : s.idleClose = some (s, p, .idle) := by
  unfold State.idleClose
  simp [hr, hp, hu, hi]

theorem State.expireIdle_closes (h : s.idleClose = some (s, p, .idle)) :
    s.expireIdle = (s.closePage p .idle).openNext := by
  unfold State.expireIdle
  rw [h]

theorem State.expireIdle_quiet (h : s.idleClose = none) : s.expireIdle = s := by
  unfold State.expireIdle
  rw [h]

/-! ## The state in which a page closes -/

/-- `w` is `s` with `used` places of page `p` used: the state in which the page closes. -/
structure State.ReadyToClose (s : State) (p : PageId) (used : Nat) (w : State) : Prop where
  running : w.running = true
  self : w.ru.page p = { s.ru.page p with used := used }
  other : w.ru.page (otherPage p) = s.ru.page (otherPage p)
  base : ∀ q, w.ru.base q = s.ru.base q
  sequence : w.ru.sequence = s.ru.sequence

theorem State.ReadyToClose.refl (hr : s.running = true) (p : PageId) : s.ReadyToClose p (s.ru.page p).used s :=
  ⟨hr, rfl, rfl, fun _ => rfl, rfl⟩

theorem State.ReadyToClose.writeRecord (hr : s.running = true) (p : PageId) (r : Record) (rest : List Record) :
    s.ReadyToClose p ((s.ru.page p).used + r.report.places) (s.writeRecord p r rest) := by
  obtain ⟨-, hsequence, -, -, hbase⟩ := s.writeRecord_rest p r rest
  exact ⟨(s.writeRecord_running p r rest).trans hr, s.writeRecord_self p r rest, s.writeRecord_other p r rest, hbase,
    hsequence⟩

/-- The header of a page (R165): its state, the reason of its close, the places used and the sequence. -/
def pageHeader (state : Byte) (reason : CloseReason) (used : Nat) (sequence : Word) : List Byte :=
  [state, BitVec.ofNat 8 reason.code] ++ leBytes 2 used ++ leBytes 4 sequence.toNat ++ List.replicate 24 0

/-- A page closed for a reason with so many places used, and the page that opens after it (R165, R166). -/
def State.PageCloses (s : State) (p : PageId) (reason : CloseReason) (used : Nat) (t : State) : Prop :=
  t.ru.page p = { s.ru.page p with state := .closed, used := used } ∧ t.ru.lastClosed = some p ∧ t.ru.idle = 0 ∧
  t.ru.cause.getLsbD 0 = true ∧
  (s.PagesApart → used ≤ s.ru.pageLength →
    t.HasBytes (s.ru.base p).toNat (pageHeader 2 reason used (s.ru.page p).sequence)) ∧
  ((s.ru.page (otherPage p)).state ≠ .free → t.ru.filling = none ∧ t.ru.sequence = s.ru.sequence ∧
    t.ru.page (otherPage p) = s.ru.page (otherPage p) ∧
    t.HasBytes (s.ru.base p).toNat (pageHeader 2 reason used (s.ru.page p).sequence)) ∧
  ((s.ru.page (otherPage p)).state = .free → t.ru.filling = some (otherPage p) ∧
    t.ru.sequence = (if s.ru.sequence = 4294967295#32 then 1 else s.ru.sequence + 1) ∧
    t.ru.page (otherPage p) = { state := .filling, used := 0, sequence := t.ru.sequence } ∧
    t.HasBytes (s.ru.base (otherPage p)).toNat (pageHeader 1 .none 0 t.ru.sequence))

section
variable (h : s.ReadyToClose p used w)
include h

/-- After the close, the other page opens where it is FREE. -/
theorem State.ReadyToClose.opens (hfree : (s.ru.page (otherPage p)).state = .free) (reason : CloseReason) :
    (w.closePage p reason).openNext = (w.closePage p reason).openPage (otherPage p) := by
  rw [State.openNext_closed h.running, if_pos (by rw [h.other, hfree])]

theorem State.ReadyToClose.staysShut (hfree : (s.ru.page (otherPage p)).state ≠ .free) (reason : CloseReason) :
    (w.closePage p reason).openNext = w.closePage p reason := by
  rw [State.openNext_closed h.running, if_neg (by rwa [h.other])]

/-- The header of the closed page. -/
theorem State.ReadyToClose.hasHeader (reason : CloseReason) : (w.closePage p reason).HasBytes (s.ru.base p).toNat
    (pageHeader 2 reason used (s.ru.page p).sequence) := by
  have hheader := w.closePage_hasHeader p reason
  rw [headerBytes_eq, h.self, h.base] at hheader
  exact hheader

theorem State.ReadyToClose.cause (reason : CloseReason) (d : Cause) :
    ((w.closePage p reason).openNext).ru.cause.getLsbD d.bit =
      (w.ru.cause.getLsbD d.bit || decide (d = .pageClosed)) := by
  by_cases hfree : (s.ru.page (otherPage p)).state = .free
  · rw [h.opens hfree, State.openPage_ru, ReportUnit.fill_rest]
    exact w.closePage_cause p reason d
  · rw [h.staysShut hfree]
    exact w.closePage_cause p reason d

theorem State.ReadyToClose.fifo (reason : CloseReason) : ((w.closePage p reason).openNext).ru.fifo = w.ru.fifo := by
  by_cases hfree : (s.ru.page (otherPage p)).state = .free
  · rw [h.opens hfree, State.openPage_ru, ReportUnit.fill_rest]
    exact w.closePage_fifo p reason
  · rw [h.staysShut hfree]
    exact w.closePage_fifo p reason

/-- What a run of bytes within the page's places, or apart from both pages' headers, stands through. -/
theorem State.ReadyToClose.hasBytes (hb : w.HasBytes a bs) (ha : (s.ru.base p).toNat + 32 ≤ a)
    (hlen : a + bs.length ≤ (s.ru.base p).toNat + 32 * (s.ru.pageLength + 1))
    (hapart : s.PagesApart ∨ (s.ru.page (otherPage p)).state ≠ .free) (reason : CloseReason) :
    ((w.closePage p reason).openNext).HasBytes a bs := by
  have hclosed : (w.closePage p reason).HasBytes a bs := hb.closePage (.inr (by rwa [h.base]))
  by_cases hfree : (s.ru.page (otherPage p)).state = .free
  · rw [h.opens hfree]
    have hpages := (hapart.resolve_right (not_not.mpr hfree)).page p
    refine hclosed.openPage ?_
    rw [State.closePage_base, h.base]
    omega
  · rw [h.staysShut hfree]
    exact hclosed

/-- The close of the page, and what opens after it. -/
theorem State.ReadyToClose.pageCloses (reason : CloseReason) :
    s.PageCloses p reason used (w.closePage p reason).openNext := by
  have hcause := h.cause reason .pageClosed
  rw [decide_eq_true rfl, Bool.or_true] at hcause
  have hheader := h.hasHeader reason
  unfold State.PageCloses
  by_cases hfree : (s.ru.page (otherPage p)).state = .free
  · rw [h.opens hfree] at hcause ⊢
    have hapart (hpages : s.PagesApart) : (s.ru.base p).toNat + 32 ≤ (s.ru.base (otherPage p)).toNat ∨
        (s.ru.base (otherPage p)).toNat + 32 ≤ (s.ru.base p).toNat := by
      have hpage := hpages.page p
      omega
    have hshut := (w.closePage p reason).ru.fill_other (otherPage p)
    rw [otherPage_otherPage, State.closePage_self, h.self] at hshut
    have hsequence : nextSequence (w.closePage p reason).ru.sequence = nextSequence s.ru.sequence :=
      congrArg nextSequence ((w.closePage_sequence p reason).trans h.sequence)
    have hopen := (w.closePage p reason).ru.fill_self (otherPage p)
    have hopened := (w.closePage p reason).openPage_hasHeader (otherPage p)
    rw [hopen, headerBytes_eq, State.closePage_base, h.base] at hopened
    have hrest := (w.closePage p reason).ru.fill_rest (otherPage p)
    rw [← State.openPage_ru] at hshut hopen hrest
    have hnext : ((w.closePage p reason).openPage (otherPage p)).ru.sequence =
        nextSequence (w.closePage p reason).ru.sequence := by rw [hrest]
    rw [← hnext] at hopen hopened hsequence
    refine ⟨hshut, ?_, ?_, hcause, fun hpages _ => hheader.openPage ?_, fun hf => absurd hfree hf, fun _ =>
      ⟨?_, hsequence.trans (nextSequence_eq _), hopen, hopened⟩⟩
    · rw [hrest]
      exact w.closePage_lastClosed p reason
    · rw [hrest]
      exact w.closePage_idle p reason
    · rw [State.closePage_base, h.base]
      exact hapart hpages
    · rw [hrest]
  · rw [h.staysShut hfree] at hcause ⊢
    refine ⟨?_, w.closePage_lastClosed p reason, w.closePage_idle p reason, hcause, fun _ _ => hheader, fun _ => ?_,
      fun hf => absurd hf hfree⟩
    · rw [State.closePage_self, h.self]
    · exact ⟨w.closePage_filling p reason, (w.closePage_sequence p reason).trans h.sequence,
        (w.closePage_other p reason).trans h.other, hheader⟩

end

end Sys2Proof.Machine
end

section
/-! OBLIGATION O58. Records, their bytes, and the pages they move into (R158, R162 to R166, R168). -/

namespace Sys2Proof.Machine

variable {s t : State} {p : PageId} {r : Record} {rest : List Record}

/-! ## CHECKPOINT and RELEASE records (R163, R164) -/

theorem insStateBytes_length (x : Option InsState) : (insStateBytes x).length = 2 := by cases x <;> rfl

/-- The eight 22-bit fields of a CHECKPOINT record fill its body (R163). -/
theorem Record.bytes_checkpoint (t : Word) (l : LotSlot) (k : EvalKind) (c : CellNo) (entries : List (EntryOutcome × Nat)) :
    Record.bytes { second := t, report := .checkpoint l k c entries } =
      [BitVec.ofNat 8 5, BitVec.ofNat 8 0] ++ leBytes 2 l.val ++ leBytes 4 t.toNat ++
        [BitVec.ofNat 8 k.code, BitVec.ofNat 8 (c.val + 1)] ++ (List.range 22).map fun j => BitVec.ofNat 8
          ((entries.zipIdx.map fun (e, j) => 2 ^ (22 * j) * (e.2 % 2 ^ 20 + 2 ^ 20 * e.1.code)).sum / 256 ^ j) := by
  have hpacked : (entries.zipIdx.map fun (e, j) => 2 ^ (22 * j) * (e.2 % 2 ^ 20 + 2 ^ 20 * e.1.code)).sum =
      checkpointFields entries := (checkpointFields_eq_sum entries 0).trans (by simp)
  have hbody : (Report.checkpoint l k c entries).body =
      [BitVec.ofNat 8 k.code, BitVec.ofNat 8 (c.val + 1)] ++ leBytes 22 (checkpointFields entries) := rfl
  rw [hpacked, ← leBytes_eq_map,
    Record.bytes_of_body (kind := 5) (urgent := 0) (subject := l.val) rfl rfl rfl rfl hbody (by simp)]
  simp

/-- A RELEASE record takes three places: the lot number stands in the second and the grade quantities in the third (R164). -/
theorem Record.bytes_release (t : Word) (l : LotSlot) (x : ReleaseContent) :
    let padded (n : Nat) (bs : List Byte) : List Byte := bs ++ List.replicate (n - bs.length) 0
    Record.bytes { second := t, report := .release l x } =
      [BitVec.ofNat 8 14, BitVec.ofNat 8 0] ++ leBytes 2 l.val ++ leBytes 4 t.toNat ++
        padded 24 ([BitVec.ofNat 8 (x.ship.val + 1), BitVec.ofNat 8 x.stepCount, if x.deviation then 1 else 0, 0] ++
          leBytes 2 x.passSet.toNat ++ leBytes 2 x.released ++ leBytes 2 x.start ++ leBytes 4 x.customer.toNat ++
          leBytes 4 x.totalFail ++ leBytes 4 x.totalLoss) ++
        padded 32 x.lotNumber.toList ++ padded 32 (gradeBytes x) := by
  intro padded
  have hpadded {n : Nat} {bs : List Byte} (h : bs.length ≤ n) : padded n bs = padTo n bs :=
    (padTo_of_length_le n bs h).symm
  rw [hpadded (by simp), hpadded (by simp), hpadded (gradeBytes_length x)]
  unfold Record.bytes
  rw [List.append_assoc]
  rfl

/-! ## The cases of a move (R166) -/

theorem State.moveRecord_nothing (h : s.running = false ∨ s.ru.filling = none ∨ s.ru.fifo = []) : s.moveRecord = s := by
  have hcase : s.moveCase = .nothing := by
    by_contra hne
    obtain ⟨hr, hp, hf⟩ := State.moveCase_iff.mp hne
    simp [hr, hp, hf] at h
  unfold State.moveRecord
  rw [hcase]

section
variable (hr : s.running = true) (hp : s.ru.filling = some p) (hf : s.ru.fifo = r :: rest)
include hr hp hf

/-- A record without room closes the page FULL and stays in the FIFO. -/
theorem State.recordMove_noRoom (hroom : s.ru.pageLength < (s.ru.page p).used + r.report.places) :
    s.moveRecord.ru.fifo = s.ru.fifo ∧ s.PageCloses p .full (s.ru.page p).used s.moveRecord := by
  have hready := State.ReadyToClose.refl hr p
  rw [State.moveRecord_noRoom ((State.moveCase_of hr hp hf).trans (if_pos hroom))]
  exact ⟨hready.fifo .full, hready.pageCloses .full⟩

/-- A record that is written and after which the page closes. -/
theorem State.recordMove_closes {reason : CloseReason} (hroom : (s.ru.page p).used + r.report.places ≤ s.ru.pageLength)
    (hc : (s.writeRecord p r rest).closeAfter p r = some reason) :
    s.moveRecord.ru.fifo = rest ∧ s.PageCloses p reason ((s.ru.page p).used + r.report.places) s.moveRecord ∧
      s.moveRecord.ru.cause.getLsbD 3 = (s.ru.cause.getLsbD 3 || r.report.urgent) ∧
      (s.PagesApart ∨ (s.ru.page (otherPage p)).state ≠ .free →
        s.moveRecord.HasBytes ((s.ru.base p).toNat + 32 * (1 + (s.ru.page p).used)) r.bytes) := by
  have hready := State.ReadyToClose.writeRecord hr p r rest
  have hcause := hready.cause reason .urgent
  have hlen := r.bytes_length
  rw [State.writeRecord_cause, decide_eq_true rfl, Bool.and_true, decide_eq_false nofun, Bool.or_false] at hcause
  rw [State.moveRecord_closes ((State.moveCase_of hr hp hf).trans (if_neg (by omega))) hc]
  exact ⟨(hready.fifo reason).trans (s.writeRecord_fifo p r rest), hready.pageCloses reason, hcause, fun hapart =>
    hready.hasBytes (s.writeRecord_hasBytes p r rest) (by omega) (by omega) hapart reason⟩

/-- A record that is written and after which the page stays FILLING. -/
theorem State.recordMove_stays (hroom : (s.ru.page p).used + r.report.places ≤ s.ru.pageLength)
    (hc : (s.writeRecord p r rest).closeAfter p r = none) :
    let place := (s.ru.base p).toNat + 32 * (1 + (s.ru.page p).used)
    s.moveRecord.ru.fifo = rest ∧ s.moveRecord.ru.filling = some p ∧
      s.moveRecord.ru.page p = { s.ru.page p with used := (s.ru.page p).used + r.report.places } ∧
      s.moveRecord.ru.page (otherPage p) = s.ru.page (otherPage p) ∧ s.moveRecord.ru.idle = 0 ∧
      s.moveRecord.ru.sequence = s.ru.sequence ∧
      s.moveRecord.ru.cause.getLsbD 3 = (s.ru.cause.getLsbD 3 || r.report.urgent) ∧
      s.moveRecord.HasBytes place r.bytes ∧
      ∀ a, a < place ∨ place + r.bytes.length ≤ a → s.moveRecord.hostByte a = s.hostByte a := by
  have hpage (u : ReportUnit) (q : PageId) : ({ u with idle := 0 } : ReportUnit).page q = u.page q := by cases q <;> rfl
  have hru : (s.writeRecord p r rest).restartIdle.ru = { (s.writeRecord p r rest).ru with idle := 0 } := rfl
  have hhost : (s.writeRecord p r rest).restartIdle.host = (s.writeRecord p r rest).host :=
    State.modReports_host _ _
  have hcause := s.writeRecord_cause p r rest .urgent
  rw [decide_eq_true rfl, Bool.and_true] at hcause
  obtain ⟨hfilling, hsequence, -⟩ := s.writeRecord_rest p r rest
  rw [State.moveRecord_stays ((State.moveCase_of hr hp hf).trans (if_neg (by omega))) hc, hru]
  refine ⟨s.writeRecord_fifo p r rest, hfilling.trans hp, ?_, ?_, rfl, hsequence, hcause,
    (s.writeRecord_hasBytes p r rest).of_host hhost, fun a ha => ?_⟩
  · rw [hpage, State.writeRecord_self]
  · rw [hpage, State.writeRecord_other]
  · exact (State.hostByte_congr hhost a).trans (s.hostByte_writeRecord_outside p r rest ha)

end

/-- Settles O58. -/
theorem recordsMoveIntoPages : Obligations.RecordsMoveIntoPages := by
  unfold Obligations.RecordsMoveIntoPages
  refine ⟨?_, fun u second e => ⟨e.places_eq, ReportUnit.append_of_full second, ReportUnit.append_spec second⟩, fun s => ?_⟩
  · intro low two four padded ins lot
    have hfour : four = leBytes 4 := funext fun n => (leBytes_four n).symm
    have hins (x : Option InsState) : insStateBytes x = ins x := by cases x <;> rfl
    have hlot (x : Option LotState) : lotStateByte x = [lot x] := by cases x <;> rfl
    clear_value four
    subst hfour
    refine ⟨Record.bytes_length, fun t c l n => ?_, rfl, rfl, rfl, rfl, rfl, rfl, rfl, rfl, rfl, rfl, rfl, rfl, rfl, rfl, rfl⟩
    intro bytes head
    have hplain {e : Report} {kind urgent subject : Nat} {body : List Byte} (hmore : e.morePlaces = [])
        (hkind : e.kind = kind) (hurgent : flagByte e.urgent = [low urgent]) (hsubject : e.subject = subject)
        (hbody : e.body = body) (hlen : body.length ≤ 24) : bytes e = head kind urgent subject ++ padded 24 body :=
      Record.bytes_of_body hmore hkind hurgent hsubject hbody hlen t
    refine ⟨fun x y k => hplain rfl rfl rfl rfl rfl (by simp), fun p tap x count => hplain rfl rfl rfl rfl rfl (by simp [two]),
      fun x y k => ?_, fun k count => hplain rfl rfl rfl rfl rfl (by simp [two]), fun k entries => ?_,
      fun step run o tested gap loss accounted unitsIn => hplain rfl rfl rfl rfl rfl (by simp [two]),
      fun hold step r => ?_, fun hold o k d => hplain rfl rfl rfl rfl rfl (by simp [two]), fun step x => ?_,
      fun step score slack setup run mode expiry => ?_, fun expiry score => hplain rfl rfl rfl rfl rfl (by simp [two]),
      fun k score => hplain rfl rfl rfl rfl rfl (by simp [two]), fun x y step => ?_, fun x => ?_,
      fun k customer manner gone left released start => hplain rfl rfl rfl rfl rfl (by simp),
      fun cause k left => hplain rfl rfl rfl rfl rfl (by simp)⟩
    · refine hplain rfl rfl rfl rfl ?_ ?_
      · rw [← hins, ← hins]
        rfl
      · rw [← hins, ← hins]
        simp [two, insStateBytes_length]
    · exact Record.bytes_checkpoint t l k c entries
    · exact Record.bytes_prefix (pre := two hold ++ [low step, low r.origin.code]) rfl rfl rfl
        ⟨limitDetailBytes r.limit ++ reasonBytes r.reason ++ leBytes 1 r.holdClass.code ++ cellByte r.cell,
          by simp [Report.body, two, low, leBytes]⟩ (by simp [two]) t
    · exact Record.bytes_prefix (pre := []) rfl rfl rfl ⟨_, rfl⟩ (by simp) t
    · refine hplain rfl rfl rfl rfl ?_ (by simp [two])
      show _ ++ signedBytes slack ++ _ ++ _ ++ _ ++ _ = _
      rw [signedBytes_eq]
      rfl
    · refine hplain rfl rfl rfl rfl ?_ (by simp)
      show lotStateByte x ++ lotStateByte y ++ _ = _
      rw [hlot, hlot]
      rfl
    · exact Record.bytes_release t l x
  · intro apart header holds closes
    refine ⟨fun h => congrArg Host.Outcome.next (State.moveRecord_nothing h), fun p r rest hr hp hf => ?_, fun p hr hp hu hi => ?_,
      fun h => ?_⟩
    · intro used place
      have hafter := s.closeAfter_writeRecord p r rest
      refine ⟨fun h => ⟨_, rfl, State.recordMove_noRoom hr hp hf h⟩, fun h hstays => ?_, fun h => ?_,
        fun h hurgent hclose => ?_⟩
      · rw [if_neg (by omega), Bool.and_eq_false_iff.mpr hstays, if_neg Bool.false_ne_true] at hafter
        exact ⟨_, rfl, State.recordMove_stays hr hp hf (by omega) hafter⟩
      · rw [if_pos (by omega)] at hafter
        obtain ⟨hfifo, hcloses, hcause, hbytes⟩ := State.recordMove_closes hr hp hf (by omega) hafter
        exact ⟨_, rfl, hfifo, hcloses, hcause, hbytes⟩
      · rw [if_neg (by omega), if_pos (by rw [hurgent, hclose]; rfl)] at hafter
        obtain ⟨hfifo, hcloses, hcause, hbytes⟩ := State.recordMove_closes hr hp hf (by omega) hafter
        rw [hurgent, Bool.or_true] at hcause
        exact ⟨_, rfl, hfifo, hcause, hcloses, hbytes⟩
    · have hready := State.ReadyToClose.refl hr p
      have hexpire := State.expireIdle_closes (State.idleClose_of hr hp hu hi)
      exact ⟨_, congrArg Host.Outcome.next hexpire, hready.fifo .idle, hready.pageCloses .idle⟩
    · refine congrArg Host.Outcome.next (State.expireIdle_quiet (Option.not_isSome_iff_eq_none.mp fun hsome => ?_))
      obtain ⟨hr, p, hp, hu, hi⟩ := State.idleClose_iff.mp hsome
      obtain h | h | h | ⟨q, hq, h⟩ := h
      · rw [h] at hp
        cases hp
      · rw [h] at hr
        cases hr
      · omega
      · rw [hq] at hp
        cases hp
        omega

end Sys2Proof.Machine
end

section
/-! SUPPORT. Failed accesses to host memory: of a taken order, of a page's header, and of a page that opens (R154, R159, R160,
R165 to R167; log entry 6). -/

namespace Sys2Proof.Machine

variable {s t u v w : State} {slot : BoardSlot} {o : Order} {p : PageId} {r : Record} {rest : List Record}
variable {reason : CloseReason} {source : FaultSource} {a used : Nat}

/-! ## Entry to FAULTED (R154) -/

theorem State.SameFloor.symm (h : u.SameFloor t) : t.SameFloor u :=
  ⟨h.lm.symm, h.cells.symm, h.ports.symm, h.insertions.symm, h.limitSets.symm, h.hm.symm, h.de.symm, h.ships.symm, h.ft.symm,
    h.ru.symm⟩

/-- The floor of a part that enters FAULTED is as it was but for the FAULT cause. -/
theorem State.SameFloor.enterFaulted (h : u.SameFloor t) (source : FaultSource) :
    ({ u with ru := u.ru.setCause .fault } : State).SameFloor (t.enterFaulted source) :=
  ⟨h.lm, h.cells, h.ports, h.insertions, h.limitSets, h.hm, h.de, h.ships, h.ft, congrArg (ReportUnit.setCause .fault) h.ru⟩

/-! ## Orders (R159, R160) -/

theorem State.whenTaken_takes (ht : s.Takes slot) (f : State → State) : s.whenTaken slot f = f s := by
  unfold State.whenTaken
  simp [ht.1, ht.2]

theorem State.actInSlot_sameFloor (s : State) (slot : BoardSlot) (act : State → Acted) :
    (act (s.takeSlot slot)).1.SameFloor (s.actInSlot slot act) :=
  ((((((State.SameFloor.refl _).hostWrite _ _).hostWrite _ _).hostWrite _ _).hostWrite _ _).useDetail _)

/-- A failed write of the outcome, or of ANSWERED, leaves the floor as the order leaves it. -/
theorem State.orderFails_sameFloor (ht : s.Takes slot) (hu : exec (orderCommand slot o) s = .next u) :
    u.SameFloor (actOf o (s.takeSlot slot)).1 ∧ u.SameFloor (s.actInSlot slot (actOf o)) := by
  rw [exec_orderCommand, State.takeOrder_taken ht] at hu
  injection hu with hu
  subst hu
  exact ⟨((s.actInSlot_sameFloor slot (actOf o)).hostWrite _ _).symm, ((State.SameFloor.refl _).hostWrite _ _).symm⟩

theorem State.enterFaulted_hostByte (source : FaultSource) (s : State) (a : Nat) :
    (s.enterFaulted source).hostByte a = s.hostByte a := rfl

/-! ## Headers of FREE pages (R165, R167) -/

@[simp] theorem State.writeHeader_ru (p : PageId) (reason : CloseReason) (s : State) :
    (s.writeHeader p reason).ru = s.ru := by
  rw [State.writeHeader, State.hostWrite_ru]

/-- The header of a FREE page is 32 zero bytes. -/
theorem State.writeHeader_zeros (h : s.ru.page p = Page.initial) {k : Nat} (hk : k < 32) :
    (s.writeHeader p .none).hostByte ((s.ru.base p).toNat + k) = some 0 := by
  have hbytes := State.HasBytes.hostWrite_self s (s.ru.base p).toNat (headerBytes (s.ru.page p) .none)
  rw [h, headerBytes_initial] at hbytes
  unfold State.writeHeader
  rw [h, headerBytes_initial]
  exact hbytes.zeros hk

theorem State.hostByte_writeHeader_outside (s : State) (p : PageId) (reason : CloseReason)
    (h : a < (s.ru.base p).toNat ∨ (s.ru.base p).toNat + 32 ≤ a) :
    (s.writeHeader p reason).hostByte a = s.hostByte a :=
  s.hostByte_hostWrite_outside _ _ _ (by rwa [headerBytes_length])

/-! ## A page that opens (R165) -/

/-- The header write of a page that opens fails: all is as if the page had opened, but host memory and the fault. -/
theorem State.openFails_eq (p : PageId) (s : State) :
    s.openFails p = { (s.openPage p).enterFaulted .page with host := s.host } := by
  rw [State.openPage_host]
  rfl

/-- A page opens after a close only where the other page was FREE. -/
theorem State.ReadyToClose.opened (h : s.ReadyToClose p used w)
    (hf : (w.closePage p reason).openNext.ru.filling = some (otherPage p)) :
    (s.ru.page (otherPage p)).state = .free := by
  by_contra hfree
  rw [h.staysShut hfree, State.closePage_filling] at hf
  cases hf

/-- The failed header write of the page that opens after a close. -/
theorem State.ReadyToClose.openAfterFails (h : s.ReadyToClose p used w)
    (hfree : (s.ru.page (otherPage p)).state = .free) :
    State.openAfterFails (some (w, p, reason)) s = (w.closePage p reason).openFails (otherPage p) := by
  unfold State.openAfterFails
  dsimp only
  rw [State.pageToOpen_closed h.running, if_pos (by rw [h.other, hfree])]

/-- What stands where the header of the page that opens was not written: all is as after the opening, but that header's place,
which is as before the move where the pages lie apart. -/
theorem State.ReadyToClose.opening (h : s.ReadyToClose p used w)
    (hw : ∀ a, a < (s.ru.base p).toNat ∨ (s.ru.base p).toNat + 32 * (s.ru.pageLength + 1) ≤ a →
      w.hostByte a = s.hostByte a)
    (hf : (w.closePage p reason).openNext.ru.filling = some (otherPage p)) :
    let u := (w.closePage p reason).openNext
    let t := State.openAfterFails (some (w, p, reason)) s
    t = { u.enterFaulted .page with host := t.host } ∧
      (∀ a, a < (s.ru.base (otherPage p)).toNat ∨ (s.ru.base (otherPage p)).toNat + 32 ≤ a → t.hostByte a = u.hostByte a) ∧
      (s.PagesApart → ∀ k, k < 32 → t.hostByte ((s.ru.base (otherPage p)).toNat + k) =
        s.hostByte ((s.ru.base (otherPage p)).toNat + k)) := by
  intro u t
  have hfree := h.opened hf
  have hu : u = (w.closePage p reason).openPage (otherPage p) := h.opens hfree reason
  have ht : t = { u.enterFaulted .page with host := (w.closePage p reason).host } := by
    rw [hu]
    exact (h.openAfterFails hfree).trans (State.openFails_eq _ _)
  have hbase : (w.closePage p reason).ru.base (otherPage p) = s.ru.base (otherPage p) :=
    (State.closePage_base p reason w _).trans (h.base _)
  have hclosed (a : Nat) : t.hostByte a = (w.closePage p reason).hostByte a :=
    State.hostByte_congr (by rw [ht]) a
  refine ⟨by rw [ht], fun a ha => ?_, fun hpages k hk => ?_⟩
  · rw [hclosed, hu, State.hostByte_openPage_outside (otherPage p) _ (by rwa [hbase])]
  · have hapart := hpages.page p
    rw [hclosed, State.hostByte_closePage_outside p reason w (by rw [h.base]; omega), hw _ (by omega)]

/-- A record written changes host memory within its page's places alone. -/
theorem State.writeRecord_within (hroom : (s.ru.page p).used + r.report.places ≤ s.ru.pageLength)
    (ha : a < (s.ru.base p).toNat ∨ (s.ru.base p).toNat + 32 * (s.ru.pageLength + 1) ≤ a) :
    (s.writeRecord p r rest).hostByte a = s.hostByte a :=
  s.hostByte_writeRecord_outside p r rest (by rw [r.bytes_length]; omega)

end Sys2Proof.Machine
end

section
/-! SUPPORT. Failed header writes of START and of a returned page (R155, R165, R167; log entry 6). -/

namespace Sys2Proof.Machine

variable {s t u v : State} {p : PageId} {a : Nat}

/-! ## START (R155, R165) -/

/-- The part RUNNING with both pages FREE and none closed before, as START leaves it before its header writes. -/
structure State.PagesFree (v : State) : Prop where
  running : v.running = true
  pageA : v.ru.pageA = Page.initial
  pageB : v.ru.pageB = Page.initial
  filling : v.ru.filling = none
  lastClosed : v.ru.lastClosed = none

/-- START before its header writes: the pages FREE, host memory and the page sequence as they were. -/
theorem State.startUp_pagesFree (b : SetupBytes) (s : State) :
    (s.startUp b).PagesFree ∧ (s.startUp b).host = s.host ∧ (s.startUp b).ru.sequence = s.ru.sequence := by
  have hup : s.startUp b = (s.restarted (Setup.ofBytes b)).startTimers := rfl
  obtain ⟨hcore, -, -⟩ := s.restarted_rederives (Setup.ofBytes b)
  have hru : (s.ru.takeSetup (Setup.ofBytes b)).SamePages (s.restarted (Setup.ofBytes b)).ru := hcore.records.samePages
  have hhost : (s.restarted (Setup.ofBytes b)).host = s.host := hcore.host
  rw [hup]
  generalize s.restarted (Setup.ofBytes b) = v at hru hhost
  have hsequence : v.ru.sequence = s.ru.sequence := by
    rw [hru]
    rfl
  exact ⟨⟨rfl, congrArg ReportUnit.pageA hru, congrArg ReportUnit.pageB hru, congrArg ReportUnit.filling hru,
    congrArg ReportUnit.lastClosed hru⟩, hhost, hsequence⟩

theorem exec_start (h : s.os.part = .halted) (b : SetupBytes) :
    exec (.start (some b)) s = .next (s.startUp b).startPages := State.start_of h b

section
variable (h : v.PagesFree)
include h

/-- Host memory after the FREE headers of both pages. -/
theorem State.PagesFree.headers : v.startPages = ((v.writeHeader .a .none).writeHeader .b .none).openPage .a :=
  State.startPages_eq h.filling h.lastClosed (by rw [h.pageA]; rfl) h.running

/-- What START's header writes change of the Report Unit, taken back. -/
theorem State.PagesFree.undo : ({ v.startPages with
    ru := { v.startPages.ru with sequence := v.ru.sequence, filling := none, pageA := Page.initial }
    host := v.host } : State) = v := by
  have hpages := (State.startPages_of h.filling h.lastClosed (by rw [h.pageA]; rfl) h.running).1
  have hru : ({ v.ru.fill .a with sequence := v.ru.sequence, filling := none, pageA := Page.initial } : ReportUnit) = v.ru := by
    rw [← h.filling, ← h.pageA]
    rfl
  rw [hpages]
  dsimp only
  rw [hru]

theorem State.PagesFree.startPages_base (q : PageId) : v.startPages.ru.base q = v.ru.base q := by
  rw [h.headers, State.openPage_ru, ReportUnit.fill_base, State.writeHeader_ru, State.writeHeader_ru]

theorem State.PagesFree.page (q : PageId) : v.ru.page q = Page.initial := by
  cases q
  · exact h.pageA
  · exact h.pageB

/-- The write of page B's FREE header fails: page A's stands. -/
theorem State.PagesFree.failsSecond :
    (∀ k, k < 32 → (v.writeHeader .a .none).hostByte (v.startPages.ru.baseA.toNat + k) = some 0) ∧
    ∀ a, a < v.startPages.ru.baseA.toNat ∨ v.startPages.ru.baseA.toNat + 32 ≤ a →
      (v.writeHeader .a .none).hostByte a = v.hostByte a := by
  have hbase : v.startPages.ru.baseA = v.ru.base .a := h.startPages_base .a
  rw [hbase]
  exact ⟨fun k hk => State.writeHeader_zeros (h.page .a) hk, fun a ha => v.hostByte_writeHeader_outside .a .none ha⟩

/-- The write of page A's FILLING header fails: both FREE headers stand, page B's written last. -/
theorem State.PagesFree.failsThird :
    let t := ((v.writeHeader .a .none).writeHeader .b .none).openFails .a
    let baseA := v.startPages.ru.baseA.toNat
    let baseB := v.startPages.ru.baseB.toNat
    t = { v.startPages.enterFaulted .page with host := t.host } ∧
    (∀ k, k < 32 → t.hostByte (baseB + k) = some 0) ∧
    ∀ a, (a < baseB ∨ baseB + 32 ≤ a) → (∀ k, k < 32 → baseA + k = a → t.hostByte a = some 0) ∧
      (a < baseA ∨ baseA + 32 ≤ a → t.hostByte a = v.hostByte a) := by
  intro t baseA baseB
  have ht : t = { v.startPages.enterFaulted .page with host := ((v.writeHeader .a .none).writeHeader .b .none).host } := by
    rw [h.headers]
    exact State.openFails_eq _ _
  have hheaders (a : Nat) : t.hostByte a = ((v.writeHeader .a .none).writeHeader .b .none).hostByte a :=
    State.hostByte_congr (by rw [ht]) a
  have hA : baseA = (v.ru.base .a).toNat := congrArg BitVec.toNat (h.startPages_base .a)
  have hB : baseB = (v.ru.base .b).toNat := congrArg BitVec.toNat (h.startPages_base .b)
  have hoff {a : Nat} (ha : a < baseB ∨ baseB + 32 ≤ a) : t.hostByte a = (v.writeHeader .a .none).hostByte a := by
    rw [hheaders]
    exact State.hostByte_writeHeader_outside _ .b .none (by rwa [State.writeHeader_ru, ← hB])
  refine ⟨by rw [ht], fun k hk => ?_, fun a ha => ⟨fun k hk hak => ?_, fun hout => ?_⟩⟩
  · have hzeros := State.writeHeader_zeros (s := v.writeHeader .a .none) (by rw [State.writeHeader_ru, h.page .b]) hk
    rw [hheaders, hB]
    rwa [State.writeHeader_ru] at hzeros
  · rw [hoff ha, ← hak, hA]
    exact State.writeHeader_zeros (h.page .a) hk
  · rw [hoff ha]
    exact v.hostByte_writeHeader_outside .a .none (by rwa [hA] at hout)

end

/-! ## PAGE_RETURN (R167) -/

theorem returnedPage_of {v : Word} (h : v.getLsbD 0 = decide (p = .b)) : returnedPage v = p := by
  unfold returnedPage
  rw [h]
  cases p <;> rfl

/-- A CLOSED page returned while none is FILLING: its FREE header is written, and it opens. -/
theorem State.returnPage_opens (hr : s.running = true) (hp : (s.ru.page p).state = .closed) (hf : s.ru.filling = none) :
    s.returnPage p = ((s.freePage p).writeHeader p .none).openPage p := by
  have hworking : s.working = true := by
    unfold State.running at hr
    simp [State.working, hr]
  have hfilling : (s.freePage p).ru.filling = none := (ReportUnit.setPage_filling p _ _).trans hf
  unfold State.returnPage
  simp [hworking, hr, hp, hfilling]

/-- The failed header write of the returned page as it opens. -/
theorem State.returnOpenFails_of (hr : s.running = true) (hp : (s.ru.page p).state = .closed) (hf : s.ru.filling = none) :
    let t := s.returnOpenFails p
    t = { (s.returnPage p).enterFaulted .page with host := t.host } ∧
      (∀ k, k < 32 → t.hostByte ((s.ru.base p).toNat + k) = some 0) ∧
      ∀ a, a < (s.ru.base p).toNat ∨ (s.ru.base p).toNat + 32 ≤ a → t.hostByte a = s.hostByte a := by
  intro t
  have ht : t = { (s.returnPage p).enterFaulted .page with host := ((s.freePage p).writeHeader p .none).host } := by
    rw [State.returnPage_opens hr hp hf]
    refine Eq.trans ?_ (State.openFails_eq _ _)
    show s.returnOpenFails p = _
    unfold State.returnOpenFails
    simp [hr, hp, hf]
  have hheader (a : Nat) : t.hostByte a = ((s.freePage p).writeHeader p .none).hostByte a :=
    State.hostByte_congr (by rw [ht]) a
  have hbase : (s.freePage p).ru.base p = s.ru.base p := ReportUnit.setPage_base p _ _ p
  have hfree : (s.freePage p).ru.page p = Page.initial := ReportUnit.setPage_self p _ _
  refine ⟨by rw [ht], fun k hk => ?_, fun a ha => ?_⟩
  · rw [hheader, ← hbase]
    exact State.writeHeader_zeros hfree hk
  · rw [hheader, State.hostByte_writeHeader_outside _ p .none (by rwa [hbase])]
    rfl

end Sys2Proof.Machine
end

section
/-! OBLIGATION O11. A failed access to host memory (R154, R159 to R161, R165 to R167; log entries 6, 7, 44, 45). -/

namespace Sys2Proof.Machine

variable {s t u : State} {slot : BoardSlot} {o : Order} {p : PageId} {r : Record} {rest : List Record}
variable {reason : CloseReason}

/-! ## Orders (R159 to R161) -/

/-- The failed accesses of an order that is taken. -/
theorem State.Takes.fails (ht : s.Takes slot) :
    (∃ t, exec (.hostAccessFail (.slotTaken slot)) s = .next t ∧ t.os.part = .faulted ∧ t.os.faultSource = .board ∧
      t.os.scanAt = none ∧ ({ s with ru := s.ru.setCause .fault } : State).SameFloor t ∧ t.host = s.host) ∧
    (∀ x, x = .limitBuffer slot ∨ x = .imageBuffer slot → ∃ t, exec (.hostAccessFail x) s = .next t ∧
      t.os.part = .faulted ∧ t.os.faultSource = .buffer ∧ t.hostByte (s.slotAddr slot) = some 2 ∧
      t.os.orderCount = s.os.orderCount + 1 ∧ ({ s with ru := s.ru.setCause .fault } : State).SameFloor t) ∧
    ∀ o u, exec (orderCommand slot o) s = .next u →
      (∃ t, exec (.hostAccessFail (.slotOutcome slot o)) s = .next t ∧ t.os.part = .faulted ∧
        t.os.faultSource = .board ∧ ({ u with ru := u.ru.setCause .fault } : State).SameFloor t) ∧
      (∃ t, exec (.hostAccessFail (.slotAnswered slot o)) s = .next t ∧ t.os.part = .faulted ∧
        t.os.faultSource = .board ∧ ({ u with ru := u.ru.setCause .fault } : State).SameFloor t) := by
  have htaken (f : State → State) := congrArg (Host.Outcome.next (φ := Fault) (ρ := Refusal)) (State.whenTaken_takes ht f)
  have hfloor := (State.SameFloor.takeSlot s slot).enterFaulted .buffer
  have hbyte : (s.bufferFails slot).hostByte (s.slotAddr slot) = some 2 :=
    (State.enterFaulted_hostByte _ _ _).trans (s.hostByte_taken slot)
  refine ⟨⟨s.takeFails, htaken _, rfl, rfl, rfl, ⟨rfl, rfl, rfl, rfl, rfl, rfl, rfl, rfl, rfl, rfl⟩, rfl⟩, fun x hx => ?_,
    fun o u hu => ?_⟩
  · obtain rfl | rfl := hx
    · exact ⟨s.bufferFails slot, htaken _, rfl, rfl, hbyte, rfl, hfloor⟩
    · exact ⟨s.bufferFails slot, htaken _, rfl, rfl, hbyte, rfl, hfloor⟩
  · obtain ⟨houtcome, hanswered⟩ := State.orderFails_sameFloor ht hu
    exact ⟨⟨s.outcomeFails slot o, htaken _, rfl, rfl, houtcome.enterFaulted .board⟩,
      ⟨s.answerFails slot o, htaken _, rfl, rfl, hanswered.enterFaulted .board⟩⟩

/-! ## START (R165) -/

theorem State.startPagesFail_zero (v : State) : v.startPagesFail 0 = v.enterFaulted .page := rfl

theorem State.startPagesFail_one (v : State) : v.startPagesFail 1 = (v.writeHeader .a .none).enterFaulted .page := rfl

theorem State.startPagesFail_two (v : State) :
    v.startPagesFail 2 = ((v.writeHeader .a .none).writeHeader .b .none).openFails .a := rfl

/-- The failed header writes of START, beside the state `u` that START reaches. -/
theorem State.startHeader_fails {b : SetupBytes} (hhalted : s.os.part = .halted) (hu : exec (.start (some b)) s = .next u) :
    let before : State :=
      { u with ru := { u.ru with sequence := s.ru.sequence, filling := none, pageA := Page.initial }, host := s.host }
    exec (.hostAccessFail (.startHeader b 0)) s = .next (before.enterFaulted .page) ∧
    (∃ t, exec (.hostAccessFail (.startHeader b 1)) s = .next t ∧
      t = { ({ before with host := u.host } : State).enterFaulted .page with host := t.host } ∧
      (∀ k, k < 32 → t.hostByte (u.ru.baseA.toNat + k) = some 0) ∧
      ∀ a, a < u.ru.baseA.toNat ∨ u.ru.baseA.toNat + 32 ≤ a → t.hostByte a = s.hostByte a) ∧
    ∃ t, exec (.hostAccessFail (.startHeader b 2)) s = .next t ∧ t = { u.enterFaulted .page with host := t.host } ∧
      (∀ k, k < 32 → t.hostByte (u.ru.baseB.toNat + k) = some 0) ∧
      (∀ a, (a < u.ru.baseB.toNat ∨ u.ru.baseB.toNat + 32 ≤ a) →
        (∀ k, k < 32 → u.ru.baseA.toNat + k = a → t.hostByte a = some 0) ∧
        (a < u.ru.baseA.toNat ∨ u.ru.baseA.toNat + 32 ≤ a → t.hostByte a = s.hostByte a)) := by
  rw [exec_start hhalted] at hu
  injection hu with hu
  obtain ⟨hfree, hhost, hsequence⟩ := s.startUp_pagesFree b
  have hfails (which : Fin 3) : exec (.hostAccessFail (.startHeader b which)) s =
      .next ((s.startUp b).startPagesFail which) := congrArg Host.Outcome.next (if_pos hhalted)
  have hfirst := hfails 0
  have hsecond := hfails 1
  have hthird := hfails 2
  rw [State.startPagesFail_zero] at hfirst
  rw [State.startPagesFail_one] at hsecond
  rw [State.startPagesFail_two] at hthird
  generalize s.startUp b = v at hu hfree hhost hsequence hfirst hsecond hthird
  subst hu
  intro before
  have hbefore : before = v := by
    have hundo := hfree.undo
    rwa [hhost, hsequence] at hundo
  clear_value before
  subst hbefore
  have hbyte (a : Nat) : before.hostByte a = s.hostByte a := State.hostByte_congr hhost a
  obtain ⟨hzeros, hout⟩ := hfree.failsSecond
  obtain ⟨ht, hzerosB, houtB⟩ := hfree.failsThird
  refine ⟨hfirst, ⟨_, hsecond, ?_, fun k hk => ?_, fun a ha => ?_⟩, _, hthird, ht, hzerosB, fun a ha => ?_⟩
  · obtain ⟨m, hm⟩ := before.writeHeader_host .a .none
    rw [hm]
    rfl
  · rw [State.enterFaulted_hostByte]
    exact hzeros k hk
  · rw [State.enterFaulted_hostByte]
    exact (hout a ha).trans (hbyte a)
  · obtain ⟨hA, houtside⟩ := houtB a ha
    exact ⟨hA, fun h => (houtside h).trans (hbyte a)⟩

/-! ## Record moves and the idle timer (R166) -/

section
variable (hr : s.running = true) (hp : s.ru.filling = some p) (hf : s.ru.fifo = r :: rest)
include hr hp hf

/-- The failed header write of a close that makes room. -/
theorem State.moveClose_noRoom (hroom : s.ru.pageLength < (s.ru.page p).used + r.report.places) :
    exec (.hostAccessFail .moveClose) s = .next (s.enterFaulted .page) := by
  have hmove := State.moveToClose_noRoom ((State.moveCase_of hr hp hf).trans (if_pos hroom))
  show Host.Outcome.next (State.closeFails s.moveToClose s) = _
  rw [hmove]
  rfl

/-- The failed header write of a close that follows a record written. -/
theorem State.moveClose_write (hroom : (s.ru.page p).used + r.report.places ≤ s.ru.pageLength)
    (hc : (s.writeRecord p r rest).closeAfter p r = some reason) :
    exec (.hostAccessFail .moveClose) s = .next ((s.writeRecord p r rest).enterFaulted .page) := by
  have hmove := State.moveToClose_write ((State.moveCase_of hr hp hf).trans (if_neg (by omega)))
  rw [hc] at hmove
  show Host.Outcome.next (State.closeFails s.moveToClose s) = _
  rw [hmove]
  rfl

/-- A move after which the other page is FILLING has closed its page, and finds that close before it. -/
theorem State.moveToClose_of_opened (hopen : s.moveRecord.ru.filling = some (otherPage p)) :
    ∃ w reason used, s.moveToClose = some (w, p, reason) ∧ s.ReadyToClose p used w ∧
      s.moveRecord = (w.closePage p reason).openNext ∧
      ∀ a, a < (s.ru.base p).toNat ∨ (s.ru.base p).toNat + 32 * (s.ru.pageLength + 1) ≤ a →
        w.hostByte a = s.hostByte a := by
  by_cases hroom : s.ru.pageLength < (s.ru.page p).used + r.report.places
  · have hcase := (State.moveCase_of hr hp hf).trans (if_pos hroom)
    exact ⟨s, .full, _, State.moveToClose_noRoom hcase, .refl hr p, State.moveRecord_noRoom hcase, fun _ _ => rfl⟩
  · have hcase := (State.moveCase_of hr hp hf).trans (if_neg hroom)
    cases hc : (s.writeRecord p r rest).closeAfter p r with
    | none =>
      have hfilling : s.moveRecord.ru.filling = some p := (State.recordMove_stays hr hp hf (by omega) hc).2.1
      rw [hfilling] at hopen
      exact absurd (Option.some.inj hopen).symm (otherPage_ne p)
    | some reason =>
      refine ⟨_, reason, _, ?_, .writeRecord hr p r rest, State.moveRecord_closes hcase hc, fun a ha =>
        State.writeRecord_within (by omega) ha⟩
      rw [State.moveToClose_write hcase, hc]
      rfl

end

/-- The state of the Report Unit where the header write of a close has failed: the record is out of the FIFO, and the page is
FILLING still. -/
theorem State.writeRecord_faulted (hp : s.ru.filling = some p) :
    let t := (s.writeRecord p r rest).enterFaulted .page
    t.os = (s.enterFaulted .page).os ∧ t.ru.fifo = rest ∧ t.ru.filling = some p ∧
      t.ru.page p = { s.ru.page p with used := (s.ru.page p).used + r.report.places } ∧
      t.ru.page (otherPage p) = s.ru.page (otherPage p) ∧ t.ru.sequence = s.ru.sequence ∧
      (t.ru.cause.getLsbD 5 = true ∧ t.ru.cause.getLsbD 3 = (s.ru.cause.getLsbD 3 || r.report.urgent) ∧
        t.ru.cause.getLsbD 0 = s.ru.cause.getLsbD 0) ∧
      t.HasBytes ((s.ru.base p).toNat + 32 * (1 + (s.ru.page p).used)) r.bytes ∧
      t = { s with os := t.os, ru := t.ru, host := t.host } := by
  intro t
  obtain ⟨hfilling, hsequence, -⟩ := s.writeRecord_rest p r rest
  have hru : t.ru = (s.writeRecord p r rest).ru.setCause .fault := rfl
  have hcause (d : Cause) : t.ru.cause.getLsbD d.bit =
      (s.ru.cause.getLsbD d.bit || (r.report.urgent && decide (d = .urgent)) || decide (d = .fault)) := by
    rw [hru, ReportUnit.setCause_cause, State.writeRecord_cause]
  refine ⟨?_, ?_, ?_, ?_, ?_, ?_, ⟨?_, ?_, ?_⟩, (s.writeRecord_hasBytes p r rest).of_host rfl, rfl⟩
  · show ({ (s.writeRecord p r rest).os with part := .faulted, faultSource := .page, scanAt := none } : Scanner) = _
    rw [State.writeRecord_os]
    rfl
  · rw [hru, ReportUnit.setCause_fifo, State.writeRecord_fifo]
  · rw [hru, ReportUnit.setCause_filling, hfilling, hp]
  · rw [hru, ReportUnit.setCause_page, State.writeRecord_self]
  · rw [hru, ReportUnit.setCause_page, State.writeRecord_other]
  · rw [hru, ReportUnit.setCause_sequence, hsequence]
  · exact (hcause .fault).trans (Bool.or_true _)
  · have hurgent := hcause .urgent
    rwa [decide_eq_true rfl, Bool.and_true, decide_eq_false nofun, Bool.or_false] at hurgent
  · have hclosed := hcause .pageClosed
    rwa [decide_eq_false nofun, Bool.and_false, Bool.or_false, decide_eq_false nofun, Bool.or_false] at hclosed

/-- Settles O11. -/
theorem failedAccessesFaultThePart : Obligations.FailedAccessesFaultThePart := by
  unfold Obligations.FailedAccessesFaultThePart
  intro s failed apart opening
  have hfailed : failed = State.enterFaulted := rfl
  clear_value failed
  subst hfailed
  refine ⟨fun hr hscan => ?_, fun slot ht => ht.fails, fun p r rest h => ?_, fun b u hhalted hu => ?_,
    fun p r rest hr hp hf => ?_, fun p hr hp hu hi => ?_, fun p hr hp => ?_⟩
  · refine congrArg Host.Outcome.next (if_pos ?_)
    rw [hr, Option.isSome_iff_ne_none.mpr hscan]
    rfl
  · show Host.Outcome.next s.recordFails = _
    unfold State.recordFails
    rw [h]
  · exact State.startHeader_fails hhalted hu
  · intro used
    have hafter := s.closeAfter_writeRecord p r rest
    refine ⟨State.moveClose_noRoom hr hp hf, fun h => ?_, fun u hu hopen => ?_⟩
    · have hcloses : ∃ reason, (s.writeRecord p r rest).closeAfter p r = some reason := by
        obtain h | ⟨h, hurgent, hclose⟩ := h
        · exact ⟨.full, hafter.trans (if_pos (by omega))⟩
        · exact ⟨.urgent, hafter.trans ((if_neg (by omega)).trans (if_pos (by rw [hurgent, hclose]; rfl)))⟩
      obtain ⟨reason, hc⟩ := hcloses
      exact ⟨_, State.moveClose_write hr hp hf (by omega) hc, State.writeRecord_faulted hp⟩
    · injection hu with hu
      subst hu
      obtain ⟨w, reason, used, hclose, hready, hmove, hwithin⟩ := State.moveToClose_of_opened hr hp hf hopen
      rw [hmove] at hopen ⊢
      obtain ⟨ht, hout, hheader⟩ := hready.opening hwithin hopen
      exact ⟨_, congrArg (fun x => Host.Outcome.next (State.openAfterFails x s)) hclose, ht, hout, fun h => hheader h.1⟩
  · have hclose := State.idleClose_of hr hp hu hi
    refine ⟨congrArg (fun x => Host.Outcome.next (State.closeFails x s)) hclose, fun u hu hopen => ?_⟩
    injection hu with hu
    rw [State.expireIdle_closes hclose] at hu
    subst hu
    obtain ⟨ht, hout, hheader⟩ := (State.ReadyToClose.refl hr p).opening (fun _ _ => rfl) hopen
    exact ⟨_, congrArg (fun x => Host.Outcome.next (State.openAfterFails x s)) hclose, ht, hout, fun h => hheader h.1⟩
  · refine ⟨congrArg Host.Outcome.next (if_pos (by rw [hr, hp]; rfl)), fun hf v u hu hv => ?_⟩
    injection hu with hu
    subst hu
    rw [returnedPage_of hv]
    exact ⟨s.returnOpenFails p, rfl, State.returnOpenFails_of hr hp hf⟩

end Sys2Proof.Machine
end
